-- ==== Sys2Proof/Word.lean ====
section
/-! DEFINITION. The bit-vector types of the Thafel and nothing else: bytes, 32-bit registers, 64-bit addresses. -/

namespace Sys2Proof

/-- One byte of memory (R4). -/
abbrev Byte := BitVec 8

/-- A register's 32 bits (R39, R80). -/
abbrev Word := BitVec 32

/-- A 64-bit virtual address or an address base (R39, R57, R118). -/
abbrev DWord := BitVec 64

/-- A set of threads of a wave, bit t for thread t (R28). -/
abbrev Lanes := BitVec 32

end Sys2Proof
end

