-- ==== Sys2Proof/Syntax.lean ====
section
/-! DEFINITION. The instructions of the Thafel: one constructor of `Instr` per row of spec/opcode_table.json. The rows with an
encoding carry the fields of their word (R51 to R67). The rows that are happenings carry the instance they concern and whatever the
world outside the model supplies to them. -/

namespace Sys2Proof

/-- An operand specifier (R60), as a source or as a destination. -/
inductive Operand where
  /-- 0x00 to 0x3F: a varying register. -/
  | v (n : Fin 64)
  /-- 0x40 to 0x5F: a uniform register. -/
  | s (n : Fin 32)
  /-- 0x60 to 0x6F: an affine register. -/
  | a (n : Fin 16)
  /-- 0x70 to 0x77: a varying predicate. -/
  | p (n : Fin 8)
  /-- 0x78 to 0x7B: a uniform predicate. -/
  | k (n : Fin 4)
  /-- 0x7C: uniform 0. -/
  | zero
  /-- 0x7D: the affine value of base 0 and stride 1. -/
  | lane
  /-- 0x7E: macro parameter P1, replaced at `mcall` (R77). -/
  | par1
  /-- 0x7F: macro parameter P2. -/
  | par2
  /-- 0x80 to 0xFF: a uniform immediate of seven bits, sign-extended. -/
  | imm (x : BitVec 7)
deriving DecidableEq, Repr, Inhabited

/-- A format C condition (R54). -/
structure Cond where
  /-- kind bit: true for k, false for p -/
  isK : Bool
  /-- predicate number -/
  n : Fin 8
  /-- negate -/
  neg : Bool
deriving DecidableEq, Repr, Inhabited

/-- The images that Basecamp verifies, each an A/B pair (R261). -/
inductive ImgKind where
  | basecamp | trailhead | copyEng | unfoldEng
deriving DecidableEq, Repr, Inhabited

/-- What an image slot pair holds: the version of the image in each slot, none where it does not verify (R261). -/
structure ImgPair where
  /-- slot A -/
  a : Option Nat
  /-- slot B -/
  b : Option Nat
deriving DecidableEq, Repr, Inhabited

/-- The four pairs (R261). -/
structure Images where
  /-- Basecamp firmware -/
  basecamp : ImgPair
  /-- Trailhead firmware -/
  trailhead : ImgPair
  /-- copy-engine control store -/
  copyEng : ImgPair
  /-- unfolding-engine control store -/
  unfoldEng : ImgPair
deriving DecidableEq, Repr, Inhabited

/-- What the slots of one letter hold: the version of the image of each kind, none where it does not verify (R261). -/
structure ImgSlots where
  /-- Basecamp firmware -/
  basecamp : Option Nat
  /-- Trailhead firmware -/
  trailhead : Option Nat
  /-- copy-engine control store -/
  copyEng : Option Nat
  /-- unfolding-engine control store -/
  unfoldEng : Option Nat
deriving DecidableEq, Repr, Inhabited

/-- The pairs whose halves are the slots A and the slots B. -/
def Images.ofSlots (a b : ImgSlots) : Images :=
  { basecamp := ⟨a.basecamp, b.basecamp⟩, trailhead := ⟨a.trailhead, b.trailhead⟩,
    copyEng := ⟨a.copyEng, b.copyEng⟩, unfoldEng := ⟨a.unfoldEng, b.unfoldEng⟩ }

/-- A cluster that a spare is to replace, and what the world finds at it (R268). -/
structure Replaced where
  /-- its number -/
  cluster : Nat
  /-- lines of its L2 slice that cannot be written back -/
  lost : List Nat
  /-- the spare passes its scan test -/
  pass : Bool
deriving DecidableEq, Repr, Inhabited

/-- No slot holds an image that verifies. -/
def Images.empty : Images := ⟨⟨none, none⟩, ⟨none, none⟩, ⟨none, none⟩, ⟨none, none⟩⟩

/-- Where an uncorrectable error lies when it is consumed (R244). -/
inductive ErrSite where
  /-- a stored varying register of a wave -/
  | vreg (w : Nat) (n : Fin 64)
  /-- a stored uniform register of a wave -/
  | sreg (w : Nat) (n : Fin 32)
  /-- a stored affine register of a wave -/
  | areg (w : Nat) (n : Fin 16)
  /-- a varying predicate of a wave -/
  | preg (w : Nat) (n : Fin 7)
  /-- a uniform predicate of a wave -/
  | kreg (w : Nat) (n : Fin 3)
  /-- an address base register of a wave -/
  | breg (w : Nat) (n : Fin 8)
  /-- a lane pipeline, special-function unit, uniform or affine datapath, consumed by the waves named -/
  | datapath (ws : List Nat)
  /-- a sector of the core data cache, by location divided by 32 -/
  | dcache (core sector : Nat)
  /-- an instruction cache entry, by location -/
  | icache (core loc : Nat)
  /-- a sector of a clean L2 line -/
  | cleanL2 (sector : Nat)
  /-- a sector of HBM, of a dirty L2 line, of a typed buffer or of the W image, by location divided by 32 -/
  | store (sector : Nat)
deriving DecidableEq, Repr, Inhabited

/-- The leaky buckets (R266). -/
inductive Bucket where
  /-- a bank of memory: HBM, L2 or typed buffer, by the model's number for it -/
  | bank (i : Nat)
  /-- a lane pipeline, 0 to 65,535 -/
  | lane (i : Nat)
  /-- a cluster -/
  | cluster (c : Nat)
deriving DecidableEq, Repr, Inhabited

/-- The atomic operations of a peer's waves that no other kind of request carries (R276, R278). -/
inductive PeerOp where
  | add | min | max | and | or | xor | inc | fadd
deriving DecidableEq, Repr, Inhabited

/-- What an inbound fabric request does (R264, R168). -/
inductive InKind where
  /-- a read of n bytes -/
  | load (n : Nat)
  /-- a write of these bytes, lowest address first -/
  | store (bytes : List Byte)
  /-- an instruction fetch of 4 bytes -/
  | fetch
  /-- an atomic addition of n bytes, answered with the old value -/
  | atomicAdd (n : Nat) (x : DWord)
  /-- an atomic exchange -/
  | atomicXchg (n : Nat) (x : DWord)
  /-- an atomic compare and swap of 4 or 8 bytes -/
  | atomicCas (n : Nat) (expect new : DWord)
  /-- an `atom.*` of 4 bytes of a peer's wave, under an element type of MODE.T, answered with the old value -/
  | atomicOp (op : PeerOp) (ty : Nat) (x : Word)
deriving DecidableEq, Repr, Inhabited

/-- An inbound fabric request: source endpoint, 42-bit peer address and the access (R264). -/
structure Inbound where
  /-- source endpoint -/
  src : Nat
  /-- peer address, bits 41 to 0 -/
  addr : Nat
  /-- the access -/
  kind : InKind
  /-- the requester makes it as an acquire at `.fab` (R165) -/
  acq : Bool := false
  /-- as a release at `.fab` -/
  rel : Bool := false
deriving DecidableEq, Repr, Inhabited

/-- The instructions and happenings of the opcode table. -/
inductive Instr where
  /-- NOP (R353): Does nothing and takes one dispatch on the uniform datapath. -/
  | nop
  /-- BR (R294): Unconditionally sets every member slice's PC to the PC-relative target. -/
  | br (off : BitVec 19)
  /-- BRU (R296): Moves the whole gang to the target when a uniform k condition holds, without pushing or parting. -/
  | bru (n : Fin 8) (neg : Bool) (off : BitVec 19)
  /-- BRV (R297): Varying branch that takes per-slice directions, pushes a reconvergence entry and may part the gang. -/
  | brv (c : Cond) (off : BitVec 19)
  /-- CNV (R308): Converts a path entry into a join entry or pops the reconvergence stack for the issuing gang. -/
  | cnv
  /-- CALL (R302): Pushes a join entry with the return point and jumps to the target. -/
  | call (off : BitVec 19)
  /-- CALLR (R303): Calls the .text offset held in a uniform operand. -/
  | callr (a : Operand)
  /-- RET (R367): Pops the call's join entry and returns the gang to the saved PC and mask. -/
  | ret
  /-- EXIT (R316): Retires the active threads of the issuing gang, ending the wave when its last slice finishes. -/
  | exit
  /-- WAVE_END (R213): Once every access of an ended wave is performed, the wave ends, freeing handles, the baton, barriers and its burn. -/
  | waveEnd (w : Nat)
  /-- REGANG (R35): Waits until all live slices of the mask arrive, checks them, and re-forms one gang. -/
  | regang (m : BitVec 8)
  /-- TRAP (R383): Raises the software trap SWT with imm24 as fault address. -/
  | trap (i : BitVec 24)
  /-- MCALL (R339): Runs a control-store macro with P1 and P2 substituted into its specifier fields. -/
  | mcall (m : BitVec 8) (p1 p2 : Operand)
  /-- SLEEP (R376): Stops the issuing gang from issuing for n core cycles. -/
  | sleep (n : BitVec 16)
  /-- SLEEP_EXPIRY (R376): The sleep count runs out and the gang becomes issuable again. -/
  | sleepExpiry (w sl : Nat)
  /-- MODEX (R347): Writes the enabled fields of MODE.X in every slice of the issuing gang. -/
  | modex (en : BitVec 5) (g : BitVec 5) (t : BitVec 4) (rm : BitVec 3) (sat : BitVec 1) (fe : BitVec 2)
  /-- MODEM (R347): Writes the enabled fields of MODE.M in every slice of the issuing gang. -/
  | modem (en : BitVec 4) (sc : BitVec 3) (ord : BitVec 3) (au : BitVec 3) (aot : BitVec 1)
  /-- MOV (R348): Copies a source to a destination of an admitted class. -/
  | mov (d a : Operand)
  /-- MOVI (R349): Writes a zero-extended 16-bit immediate. -/
  | movi (d : Operand) (i : BitVec 16)
  /-- MOVH (R349): Replaces bits 31–16 of the destination with a 16-bit immediate. -/
  | movh (d : Operand) (i : BitVec 16)
  /-- SEL (R373): Writes A where the guard is true and B elsewhere, in every active thread. -/
  | sel (d a b : Operand)
  /-- PROMO (R357): Expands an affine value into per-thread values of a varying register. -/
  | promo (d a : Operand)
  /-- MKAFF (R343): Builds an affine register from a uniform base and stride, setting OV on overflow. -/
  | mkaff (d a b : Operand)
  /-- SETB (R374): Writes a base register's 64-bit base and space tag. -/
  | setb (n : Fin 8) (sp : Fin 8) (lo hi : Operand)
  /-- RDSR (R360): Reads a system register into a uniform register under the view rules. -/
  | rdsr (d : Operand) (i : BitVec 16)
  /-- WRSR (R360): Writes a uniform value to a system register under the view rules. -/
  | wrsr (d : Operand) (i : BitVec 16)
  /-- THRCFG_WRITE (R221): A write to THRCFG takes effect whole only when HYST < T1 < T2 ≤ 200 and is otherwise ignored. -/
  | thrcfgWrite (cluster : Nat) (x : Word)
  /-- COLSTAT_WRITE (R361): A privileged write of 0 to COLSTAT.TEVT clears the throttle-event count. -/
  | colstatWrite (core : Nat) (x : Word)
  /-- ADD (R273): Adds element by element, or adds bases and strides for an affine destination. -/
  | add (d a b : Operand)
  /-- SUB (R351): Subtracts element by element, or subtracts bases and strides for an affine destination. -/
  | sub (d a b : Operand)
  /-- MUL (R335): Multiplies integer elements, with an affine form scaling base and stride. -/
  | mul (d a b : Operand)
  /-- MULH (R335): Writes the upper half of each element's double-width product. -/
  | mulh (d a b : Operand)
  /-- MAD (R335): Writes a × b + d for each integer element, reading D as addend. -/
  | mad (d a b : Operand)
  /-- NEG (R351): Negates each element, or base and stride for an affine destination. -/
  | neg (d a : Operand)
  /-- ABS (R272): Writes the magnitude of each integer element. -/
  | abs (d a : Operand)
  /-- MIN (R335): Writes the smaller of each pair of integer elements. -/
  | min (d a b : Operand)
  /-- MAX (R335): Writes the larger of each pair of integer elements. -/
  | max (d a b : Operand)
  /-- CLZ (R306): Counts leading zero bits of a 32-bit value. -/
  | clz (d a : Operand)
  /-- POPC (R356): Counts set bits of a 32-bit value. -/
  | popc (d a : Operand)
  /-- BREV (R295): Reverses the 32 bits of a value. -/
  | brev (d a : Operand)
  /-- AND (R274): Bitwise or predicate AND. -/
  | and (d a b : Operand)
  /-- OR (R354): Bitwise or predicate OR. -/
  | or (d a b : Operand)
  /-- XOR (R354): Bitwise or predicate XOR. -/
  | xor (d a b : Operand)
  /-- NOT (R354): Bitwise or predicate NOT. -/
  | not (d a : Operand)
  /-- SHL (R369): Shifts left, with an affine form shifting base and stride. -/
  | shl (d a b : Operand)
  /-- SHR (R369): Logical shift right. -/
  | shr (d a b : Operand)
  /-- SAR (R369): Arithmetic shift right. -/
  | sar (d a b : Operand)
  /-- ROT (R369): Rotates left by the amount modulo 32. -/
  | rot (d a b : Operand)
  /-- BFX (R292): Extracts a bit field, optionally sign-extended. -/
  | bfx (d a b : Operand)
  /-- BFI (R293): Inserts low bits of A into a field of D. -/
  | bfi (d a b : Operand)
  /-- FADD (R319): Floating-point add rounded once by MODE.RM. -/
  | fadd (d a b : Operand)
  /-- FSUB (R319): Floating-point subtract rounded once by MODE.RM. -/
  | fsub (d a b : Operand)
  /-- FMUL (R319): Floating-point multiply rounded once by MODE.RM. -/
  | fmul (d a b : Operand)
  /-- FMA (R319): Fused multiply-add with D as addend, rounded once. -/
  | fma (d a b : Operand)
  /-- FMIN (R319): minimumNumber with −0 below +0. -/
  | fmin (d a b : Operand)
  /-- FMAX (R319): maximumNumber with −0 below +0. -/
  | fmax (d a b : Operand)
  /-- FABS (R320): Clears the sign bit, canonicalising NaN. -/
  | fabs (d a : Operand)
  /-- FNEG (R320): Inverts the sign bit, canonicalising NaN. -/
  | fneg (d a : Operand)
  /-- CMP_EQ (R307): Integer compare for equality into a predicate pair. -/
  | cmpEq (d a b : Operand)
  /-- CMP_NE (R307): Integer compare for inequality into a predicate pair. -/
  | cmpNe (d a b : Operand)
  /-- CMP_LT (R307): Integer less-than compare into a predicate pair. -/
  | cmpLt (d a b : Operand)
  /-- CMP_LE (R307): Integer less-or-equal compare into a predicate pair. -/
  | cmpLe (d a b : Operand)
  /-- CMP_GT (R307): Integer greater-than compare into a predicate pair. -/
  | cmpGt (d a b : Operand)
  /-- CMP_GE (R307): Integer greater-or-equal compare into a predicate pair. -/
  | cmpGe (d a b : Operand)
  /-- FCMP_EQ (R321): Ordered floating-point equality compare. -/
  | fcmpEq (d a b : Operand)
  /-- FCMP_NE (R321): Unordered-or-unequal floating-point compare. -/
  | fcmpNe (d a b : Operand)
  /-- FCMP_LT (R321): Ordered floating-point less-than compare. -/
  | fcmpLt (d a b : Operand)
  /-- FCMP_LE (R321): Ordered floating-point less-or-equal compare. -/
  | fcmpLe (d a b : Operand)
  /-- FCMP_GT (R321): Ordered floating-point greater-than compare. -/
  | fcmpGt (d a b : Operand)
  /-- FCMP_GE (R321): Ordered floating-point greater-or-equal compare. -/
  | fcmpGe (d a b : Operand)
  /-- FCMP_UN (R321): True when either operand is NaN. -/
  | fcmpUn (d a b : Operand)
  /-- CVT (R313): Converts from type n to MODE.T under RM and SAT. -/
  | cvt (d a b : Operand)
  /-- CVT8 (R314): Converts F32 to E4M3 or E5M2 under a block scale. -/
  | cvt8 (d a b : Operand)
  /-- BSC (R298): Computes the E8M0 block scale of a wave's F32 values. -/
  | bsc (d a : Operand)
  /-- BSQ (R299): Quantises F32 values to BI8 or BI4 codes under a scale. -/
  | bsq (d a b : Operand)
  /-- EXP2 (R317): Computes 2^x per element. -/
  | exp2 (d a : Operand)
  /-- LOG2 (R334): Computes the base-2 logarithm per element. -/
  | log2 (d a : Operand)
  /-- RCP (R358): Computes 1/x per element. -/
  | rcp (d a : Operand)
  /-- RSQ (R358): Computes the reciprocal square root per element. -/
  | rsq (d a : Operand)
  /-- SQRT (R358): Correctly rounded square root per element. -/
  | sqrt (d a : Operand)
  /-- SIN (R358): Computes sin x per element. -/
  | sin (d a : Operand)
  /-- COS (R310): Computes cos x per element. -/
  | cos (d a : Operand)
  /-- TANH (R358): Computes tanh x per element. -/
  | tanh (d a : Operand)
  /-- SIGM (R358): Computes the logistic sigmoid per element. -/
  | sigm (d a : Operand)
  /-- SHFL_IDX (R375): Gives each thread the value of an indexed source thread. -/
  | shflIdx (d a b : Operand)
  /-- SHFL_UP (R375): Gives each thread the value of thread t − b. -/
  | shflUp (d a b : Operand)
  /-- SHFL_DN (R375): Gives each thread the value of thread t + b. -/
  | shflDn (d a b : Operand)
  /-- SHFL_XOR (R375): Gives each thread the value of thread t XOR b. -/
  | shflXor (d a b : Operand)
  /-- VOTE_ANY (R384): Sets a k predicate when any contributor's predicate is true. -/
  | voteAny (d a : Operand)
  /-- VOTE_ALL (R384): Sets a k predicate when every contributor's predicate is true. -/
  | voteAll (d a : Operand)
  /-- VOTE_BAL (R384): Writes the ballot mask of contributors with a true predicate. -/
  | voteBal (d a : Operand)
  /-- RED_ADD (R364): Sums contributors' values by the fixed tree into a uniform register. -/
  | redAdd (d a : Operand)
  /-- RED_MIN (R364): Reduces contributors' values to their minimum. -/
  | redMin (d a : Operand)
  /-- RED_MAX (R364): Reduces contributors' values to their maximum. -/
  | redMax (d a : Operand)
  /-- SCAN (R371): Inclusive Hillis–Steele scan across the wave. -/
  | scan (d a b : Operand)
  /-- SCANX (R372): Exclusive scan giving each lane its predecessor's scan result. -/
  | scanx (d a b : Operand)
  /-- MATCH (R337): Gives each contributing thread the mask of threads holding the same key. -/
  | matchKey (d a : Operand)
  /-- RDLANE (R359): Copies one thread's varying value into a uniform register. -/
  | rdlane (d a b : Operand)
  /-- WRLANE (R386): Writes a uniform value into one thread's varying register. -/
  | wrlane (d a b : Operand)
  /-- LD (R330): Loads bytes for each contributing thread, marking the destination empty until its sectors return. -/
  | ld (d o : Operand) (b : Fin 8) (sz : BitVec 3) (sx nt : Bool)
  /-- ST (R378): Stores each contributing thread's data bytes. -/
  | st (d o : Operand) (b : Fin 8) (sz : BitVec 3) (nt : Bool)
  /-- LDU (R333): Uniform load performed once for the wave. -/
  | ldu (d o : Operand) (b : Fin 8) (sz : BitVec 3) (sx nt : Bool)
  /-- STU (R381): Uniform store performed once for each issuing gang. -/
  | stu (d o : Operand) (b : Fin 8) (sz : BitVec 3) (sx nt : Bool)
  /-- PF (R355): Prefetches lines into the core data cache or L2 slice without trapping. -/
  | pf (o : Operand) (b : Fin 8) (sz : BitVec 3) (nt : Bool)
  /-- SECTOR_RETURN (R113): A sector of a load or atomic response returns, writes its bytes and counts down the full/empty counter. -/
  | sectorReturn (w acc k : Nat)
  /-- LDA (R331): Atomic 4-byte read with order, scope and use from MODE.M. -/
  | lda (d o : Operand) (b : Fin 8)
  /-- STA (R380): Atomic 4-byte write with order, scope and use from MODE.M. -/
  | sta (d o : Operand) (b : Fin 8)
  /-- ATOM_ADD (R276): Atomically adds to each element of a word and returns the old value. -/
  | atomAdd (d o : Operand) (b : Fin 8) (r : Fin 32)
  /-- ATOM_MIN (R276): Atomically stores the smaller element and returns the old value. -/
  | atomMin (d o : Operand) (b : Fin 8) (r : Fin 32)
  /-- ATOM_MAX (R276): Atomically stores the larger element and returns the old value. -/
  | atomMax (d o : Operand) (b : Fin 8) (r : Fin 32)
  /-- ATOM_AND (R276): Atomic bitwise AND returning the old value. -/
  | atomAnd (d o : Operand) (b : Fin 8) (r : Fin 32)
  /-- ATOM_OR (R276): Atomic bitwise OR returning the old value. -/
  | atomOr (d o : Operand) (b : Fin 8) (r : Fin 32)
  /-- ATOM_XOR (R276): Atomic bitwise XOR returning the old value. -/
  | atomXor (d o : Operand) (b : Fin 8) (r : Fin 32)
  /-- ATOM_XCHG (R276): Atomic exchange returning the old value. -/
  | atomXchg (d o : Operand) (b : Fin 8) (r : Fin 32)
  /-- ATOM_CAS (R277): Atomic compare-and-swap using an even data register pair. -/
  | atomCas (d o : Operand) (b : Fin 8) (r : Fin 32)
  /-- ATOM_FADD (R278): Atomic floating-point add rounded under RNE. -/
  | atomFadd (d o : Operand) (b : Fin 8) (r : Fin 32)
  /-- ATOM_INC (R276): Atomic wrapping increment bounded by the data value. -/
  | atomInc (d o : Operand) (b : Fin 8) (r : Fin 32)
  /-- CQ_POST (R312): Claims a copy-queue slot and posts a packet from 16 uniform registers into the open batch. -/
  | cqPost (k : Fin 4) (q : Operand) (f : Fin 32)
  /-- BAT_CLOSE (R290): Closes the open batch, returning its number. -/
  | batClose (d : Operand)
  /-- WAIT_BAT (R385): Blocks until a batch is complete and acquires its packets' completions. -/
  | waitBat (a : Operand)
  /-- HB_FILL (R153): Waits for a free handle and makes it filling, owned by the wave. -/
  | hbFill (a : Operand)
  /-- HB_ACQ (R153): Waits for a full handle and makes it draining, owned by the wave. -/
  | hbAcq (a : Operand)
  /-- HB_REL (R153): Frees a draining or orphaned filling handle, releasing its region. -/
  | hbRel (a : Operand)
  /-- HB_STATE (R153): Returns a handle's table entry. -/
  | hbState (d a : Operand)
  /-- HB_CFG (R323): Configures a free handle's space, offset and size and takes core-group ownership. -/
  | hbCfg (a b : Operand)
  /-- MMA_BI8 (R344): Queues a matrix word with BI8 activations and DW8 weights. -/
  | mmaBi8 (c a : Fin 32) (w : Fin 4) (v : Fin 64) (s : Fin 4) (rows : Fin 4) (acc : Bool)
  /-- MMA_BI4 (R344): Queues a matrix word with BI4 activations and DW8 weights. -/
  | mmaBi4 (c a : Fin 32) (w : Fin 4) (v : Fin 64) (s : Fin 4) (rows : Fin 4) (acc : Bool)
  /-- MMA_I8W (R344): Queues a matrix word with BI8 activations and INT8 weights. -/
  | mmaI8w (c a : Fin 32) (w : Fin 4) (v : Fin 64) (s : Fin 4) (rows : Fin 4) (acc : Bool)
  /-- MWAIT (R346): Blocks until every engine operation the wave queued has completed. -/
  | mwait
  /-- MZERO (R346): Queues zeroing of a tile. -/
  | mzero (a : Operand)
  /-- MNORM (R346): Queues normalisation of a tile and later writes its E and Q to sD. -/
  | mnorm (d a : Operand)
  /-- MWSEL (R346): Queues a bank load of the named W bank. -/
  | mwsel (a : Operand)
  /-- MFENCE (R342): Blocks until the wave's A stores and register writes are done. -/
  | mfence
  /-- BTON_TAKE (R301): Takes the core's baton or joins its waiters. -/
  | btonTake
  /-- BTON_PASS (R300): Hands the baton to the first waiter or frees it. -/
  | btonPass
  /-- BANK_LOAD_START (R155): A queued bank load starts once neither half-array is computing. -/
  | bankLoadStart (core : Nat)
  /-- BANK_LOAD_COMPLETE (R155): A bank load completes in its last load cycle and the image holds the bank. -/
  | bankLoadComplete (core : Nat)
  /-- MMA_WORD_START (R164): A word starts computing on its half-array once it is free, its bank is loaded and no load is ahead. -/
  | mmaWordStart (core half : Nat)
  /-- MMA_WORD_COMPLETE (R164): A word completes, updating and tagging its tile. -/
  | mmaWordComplete (core : Nat)
  /-- MZERO_COMPLETE (R164): A queued mzero completes 32 cycles after reaching the queue front. -/
  | mzeroComplete (core : Nat)
  /-- MNORM_COMPLETE (R164): A queued mnorm completes 40 cycles after reaching the queue front and fills sD. -/
  | mnormComplete (core : Nat)
  /-- REC_RUN (R180): Collectively starts a recursion run once every live wave of the core group waits at it. -/
  | recRun (a b : Operand)
  /-- REC_CHILD (R182): Reserves the next child frame of each active thread's frame. -/
  | recChild (d : Operand)
  /-- REC_RET (R183): Ends the routine for the active threads, ending the call when all have returned. -/
  | recRet (a : Operand)
  /-- REC_WAIT (R189): Waits for the core group's latest run and returns its status word. -/
  | recWait (d : Operand)
  /-- ROUTINE_CALL (R181): The unfolding engine starts a routine call on a wave's threads with frame registers set. -/
  | routineCall (core w : Nat)
  /-- SPAWN (R377): Creates a child wave on the parent's core if room exists. -/
  | spawn (d a b : Operand)
  /-- CJOIN (R304): Waits for all children to end and writes the kill status. -/
  | cjoin (d : Operand)
  /-- BAR_INIT (R284): Initialises a barrier for the core group's live waves. -/
  | barInit (b : Fin 32) (m : Operand)
  /-- BAR_ARRIVE (R285): Arrives at a barrier, completing the phase when the count is reached. -/
  | barArrive (b : Fin 32) (m : Operand)
  /-- BAR_WAIT (R286): Waits for the phase in which the wave arrived. -/
  | barWait (b : Fin 32) (m : Operand)
  /-- BAR_SYNC (R286): Arrives and waits at a barrier as one instruction. -/
  | barSync (b : Fin 32) (m : Operand)
  /-- BAR_INVAL (R287): Invalidates a barrier with no blocked waiter. -/
  | barInval (b : Fin 32) (m : Operand)
  /-- FENCE_ALL (R137): Orders every access before and after the fence at its scope. -/
  | fenceAll (sc : Fin 8)
  /-- FENCE_LOADS (R137): Acquire fence ordering earlier loads before later accesses. -/
  | fenceLoads (sc : Fin 8)
  /-- FENCE_STORES (R137): Release fence ordering earlier accesses before later stores. -/
  | fenceStores (sc : Fin 8)
  /-- FENCE_ENGINES (R169): Waits for the wave's engine operations and packets and acquires their completions. -/
  | fenceEngines (sc : Fin 8)
  /-- RGN (R239): Candidate point for taking a pending checkpoint attempt. -/
  | rgn
  /-- RGN_I (R239): Takes a checkpoint and opens an idempotent region when clean. -/
  | rgnI
  /-- RGN_E (R239): Closes the idempotent region, checkpointing or pinning the wave. -/
  | rgnE
  /-- CKPT (R305): Blocks until clean and takes a checkpoint unless the wave is in a macro, a call, holds the baton or has writing packets open. -/
  | ckpt
  /-- BAL_BURN (R280): Sets the wave's burn request amount and duration. -/
  | balBurn (a b : Operand)
  /-- BAL_SHUNT (R281): Requests a shunt reservation on the core's rails and returns the grants. -/
  | balShunt (d a : Operand)
  /-- BAL_STOP (R282): Clears the wave's burn request. -/
  | balStop
  /-- BURN_EXPIRY (R224): A burn request's remaining duration reaches 0 and the request clears. -/
  | burnExpiry (w : Nat)
  /-- ERET (R234): Resolves the trap by TRCAUSE.ACT: resume, skip, kill wave or kill run. -/
  | eret
  /-- HV (R328): Passes the wave's unresolved trap to the hypervisor and blocks the handler. -/
  | hv (i : BitVec 24)
  /-- MCS_WR (R341): Writes one operation word of the core's macro control store. -/
  | mcsWr (a b : Operand)
  /-- IINV (R329): Invalidates the core's instruction cache after earlier stores reach L2. -/
  | iinv
  /-- TLBINV (R382): Invalidates range-cache entries of a stage in the named caches. -/
  | tlbinv (a : Operand)
  /-- STARVATION_PRIORITY (R45): A ready wave or slice that waited 256 quad cycles without dispatch is chosen first. -/
  | starvationPriority (w sl : Nat)
  /-- HEADER_LINE_CHANGE (R149): A serving engine notices a queue header change and checks the write index. -/
  | headerLineChange (q : Nat)
  /-- COPY (R146): The copy engine takes a COPY packet and moves bytes between spaces. -/
  | copy (q : Nat)
  /-- FILL (R146): The copy engine takes a FILL packet and copies global bytes into a filling handle's region. -/
  | fill (q : Nat)
  /-- REDUCE_COPY (R174): The copy engine takes a REDUCE-COPY packet and atomically adds each element into TO. -/
  | reduceCopy (q : Nat)
  /-- COPY_SIGNAL (R146): After earlier packets complete, the engine stores or adds a value at TO as a release. -/
  | copySignal (q : Nat)
  /-- COPY_VOID (R146): A VOID copy packet completes when taken. -/
  | copyVoid (q : Nat)
  /-- PACKET_COMPLETE (R170): A copy packet completes as a release, advancing its wave's batch counters. -/
  | packetComplete (q : Nat) (idx : Word)
  /-- FILL_COMPLETE (R146): A FILL completes, making its handle full with no owner and serving an hb.acq waiter. -/
  | fillComplete (q : Nat) (idx : Word)
  /-- WORK_QUEUE_READ (R195): Trailhead clears a pending-kick bit and reads the queue header to take packets. -/
  | workQueueRead (q : Nat)
  /-- LAUNCH (R197): A LAUNCH work packet creates its core groups, reading parameters and the macro table. -/
  | launch (q : Nat)
  /-- WORK_SIGNAL (R197): A SIGNAL work packet stores its value as a release after earlier packets complete. -/
  | workSignal (q : Nat)
  /-- GLOAD (R203): A GLOAD packet copies a graph image into the partition's graph store. -/
  | gload (q : Nat)
  /-- WORK_VOID (R197): A VOID work packet completes when taken. -/
  | workVoid (q : Nat)
  /-- FORWARDING_QUEUE_PACKET (R201): Trailhead takes a forwarding-queue packet, checks the filter table and appends it to the target queue. -/
  | forwardingQueuePacket (q : Nat)
  /-- PLACEMENT_DECISION (R206): Trailhead places one core group on a fitting core by round robin and priority. -/
  | placementDecision
  /-- CORESIDENT_RESERVATION (R208): After 16 turns a waiting co-resident launch blocks placement of other launches in its partition. -/
  | coresidentReservation (launch : Nat)
  /-- LAUNCH_COMPLETE (R197): When a launch's last wave ends, Trailhead makes its completion store. -/
  | launchComplete (launch : Nat)
  /-- TRIG (R204): An 8-byte store to TRIG queues a graph run with its patch list, or is dropped. -/
  | trig (part : Nat) (x : DWord)
  /-- GRAPH_RUN_START (R205): A graph run starts, applying patches and releasing the parameter block. -/
  | graphRunStart (part gid : Nat)
  /-- GRAPH_NODE_START (R205): A node starts once every edge source has completed. -/
  | graphNodeStart (part gid node : Nat)
  /-- GRAPH_RUN_END (R205): A run ends when every node has completed, with the graph's completion store. -/
  | graphRunEnd (part gid : Nat)
  /-- QREG (R260): Registers a copy, work, forwarding or service queue after translating its ring, header and error record. -/
  | qreg (q : Nat)
  /-- QSET (R259): Changes a queue's state, keeping or skipping the failed slot. -/
  | qset (q : Nat)
  /-- PEEK (R388): Copies a parked wave's trap record and registers to a buffer. -/
  | peek (q : Nat)
  /-- RESOLVE (R259): Resolves a parked wave with an ACT value. -/
  | resolve (q : Nat)
  /-- KILL (R259): Kills every wave of a launch and completes it. -/
  | kill (q : Nat)
  /-- ZERO (R259): Starts background zeroing of an HBM range for the hypervisor. -/
  | zero (q : Nat)
  /-- ZERO_COMPLETE (R258): Background zeroing of a range finishes and the status is stored. -/
  | zeroComplete (i : Nat)
  /-- TIME_QUANTUM_EXPIRY (R246): A partition's quantum expires and Trailhead pre-empts its clusters, rolling back unpinned waves. -/
  | timeQuantumExpiry (part : Nat)
  /-- CISTERN_SWAP (R247): Once started packets complete, each core swaps its context with its Cistern. -/
  | cisternSwap (part : Nat)
  /-- PINNED_TIMEOUT (R246): Pinned waves unclean for 65,536 cycles are reported to the hypervisor. -/
  | pinnedTimeout (part : Nat)
  /-- TAKE_OVER (R211): The standby Trailhead replays the journal, rereads headers and releases held completions. -/
  | takeOver
  /-- CHECKPOINT_ATTEMPT (R238): The cycle count passes an interval multiple and each wave receives a pending attempt. -/
  | checkpointAttempt (core : Nat)
  /-- CHECKPOINT_ATTEMPT_TIMEOUT (R238): With no clean rgn within 1,024 cycles, the attempt is taken at the next clean boundary. -/
  | checkpointAttemptTimeout (w : Nat)
  /-- PINNED_CHECKPOINT (R241): A pinned wave reaching a clean point takes a checkpoint and unpins. -/
  | pinnedCheckpoint (w : Nat)
  /-- UCE_CONSUMED (R244): An uncorrectable error is consumed, rolling back, refetching or poisoning as its location gives. -/
  | uceConsumed (site : ErrSite)
  /-- CORRECTED_ERROR (R266): A corrected error adds 1 to its leaky bucket. -/
  | correctedError (b : Bucket)
  /-- LEAK (R266): Every LEAK milliseconds each leaky bucket drops by 1. -/
  | leak
  /-- AUDIT_REPLAY (R265): Lantern replays a picked auditable region and compares signatures, raising AUD on mismatch. -/
  | auditReplay (cluster i : Nat) (err : DWord) (third : Option Nat)
  /-- RAIL_READING (R214): A 256-cycle window ends and the mid-rail reading drives throttle, MST, balanced waiting and machine-check actions. -/
  | railReading (col rail : Nat) (r : Int)
  /-- THROTTLE (R218): 128 cycles after a reading the heavier neighbour's throttle engages at half rate. -/
  | throttle (col rail : Nat)
  /-- COLUMN_RESTART (R220): After rollback and the phase test, Basecamp restarts the column's clocks. -/
  | columnRestart (col : Nat)
  /-- PHASE_FAILURE (R229): Failed phases derate a rail or, above 2, retire the column. -/
  | phaseFailure (col rail : Nat)
  /-- COLUMN_GATE (R228): Trailhead power-gates an empty column with retention. -/
  | columnGate (col : Nat)
  /-- INRUSH_GRANT (R228): A wake step starts once the island manager grants its 0.50 A inrush. -/
  | inrushGrant (col : Nat)
  /-- WAKE_STEP_WAIT (R228): A wake step that waits 8 µs makes the island manager throttle the other column. -/
  | wakeStepWait (col : Nat)
  /-- ISLPT (R223): A write of ISLPT.REQ starts a change of the island's operating point. -/
  | islpt (isl : Nat) (x : Word)
  /-- ISLPT_CHANGE_DONE (R223): An operating-point change completes and CUR and BUSY update. -/
  | islptChangeDone (isl : Nat)
  /-- LAYSTG (R255): Stages a new layout generation by copying live layout registers to shadows. -/
  | laystg (x : Word)
  /-- LAYCMT (R255): Checks the staged layout and applies it or records the refusal. -/
  | laycmt (x : Word)
  /-- BASECAMP_RESTART (R256): Basecamp restarts, incrementing BOOTCNT, discarding staging and finishing a recorded commit. -/
  | basecampRestart
  /-- FABID (R254): Sets the package's endpoint number, taking effect when the ports are idle. -/
  | fabid (x : Word)
  /-- REGISTER_WRITE (R253): A write to an aperture register with no behaviour of its own stores its value. -/
  | registerWrite (pa n : Nat) (x : DWord)
  /-- SELF_TEST_DRAIN (R267): Every self-test interval Trailhead starts draining the next cluster. -/
  | selfTestDrain
  /-- SELF_TEST_PREEMPT (R267): 50 ms after draining begins, Trailhead pre-empts and moves remaining core groups. -/
  | selfTestPreempt
  /-- SCAN_SELF_TEST_DONE (R267): The scan self-test ends, returning the cluster to service or retiring it. -/
  | scanSelfTestDone (pass : Bool)
  /-- SPARE_REPLACEMENT (R268): A die's spare takes over a retired cluster's logical number and layout rows. -/
  | spareReplacement (x : Replaced)
  /-- ATTESTATION_REPORT (R262): Basecamp produces a signed attestation report for a hypervisor nonce. -/
  | attestationReport (nonce : List Byte)
  /-- OTP_MINIMUM_VERSION_RAISE (R261): On hypervisor command, a verified image raises the OTP minimum version. -/
  | otpMinimumVersionRaise (version : Nat)
  /-- PACKAGE_RESET (R261): Bring-up: Basecamp boots, trains memory, powers and scan-tests islands and loads Trailhead. -/
  | packageReset (pass : List Nat) (slotA slotB : ImgSlots)
  /-- ISLAND_POWER_UP (R221): An island powers up, resetting its configuration registers and arming its rails. -/
  | islandPowerUp (isl : Nat)
  /-- INBOUND_REQUEST (R264): An inbound fabric request is checked against the inbound window table and translated. -/
  | inboundRequest (req : Inbound)
  /-- UNREACHABLE (R263): A request unacknowledged 100 µs after its last retry counts as unreachable and raises TRF. -/
  | unreachable (w acc : Nat)
  /-- UNASSIGNED_OPCODE (R68): A fetched word whose opcode is unassigned, or whose reserved field or code is not zero, raises UDI before any effect. -/
  | unassignedOpcode (x : Word)
  /-- FETCH_FAULT (R294): A fetch at a PC that is misaligned, untranslated or lacks execute permission raises ALF, TRF or PMF with TRPC at that PC. -/
  | fetchFault
  /-- STORE_PERFORMED (R137): An issued store reaches its L2 slice or is acknowledged by a peer's home, unblocking fences, releases, iinv, tlbinv and clean points that wait on it. -/
  | storePerformed (w acc : Nat)
  /-- RANGE_WALK_COMPLETE (R120): A range-table search or radix walk of a cluster walker ends, filling range caches or faulting, and releasing the accesses joined to it and any tlbinv waiting on walks in flight. -/
  | rangeWalkComplete (cluster i : Nat)
  /-- WAKE_STEP_END (R228): A 125 ns wake step of a column ends, advancing COLPWR.STEP, asking for the next inrush grant, or completing the wake so waves may be dispatched. -/
  | wakeStepEnd (col : Nat)
  /-- COOLING_SHORTFALL (R223): When cooling falls short, Basecamp lowers an island's ISLPT and throttles islands or stops columns to protect the package. -/
  | coolingShortfall (isl : Nat) (point : Nat)
deriving DecidableEq, Repr

end Sys2Proof
end

