-- ==== Sys2Proof/Config.lean ====
section
/-! DEFINITION. The free values of the model: the values that the manual leaves open (R9, R86, R103). None has a body that a proof can
see, so what is proved holds whatever they are. Each is applied to a counter of the state, which the model advances at each use. -/

namespace Sys2Proof

/-- The value of a register that the manual calls undefined (R9; R155, R163, R189, R390). Log entry 6: DESIGN CHOICE. -/
opaque Config.freeWord : Nat → Word

/-- The value of one byte that the manual calls undefined (R9; R145, R155, R163, R390). Log entry 6: DESIGN CHOICE. -/
opaque Config.freeByte : Nat → Byte

/-- The draws of the stochastic generators (R86). Log entry 6: DESIGN CHOICE. -/
opaque Config.draw : Nat → BitVec 16

/-- What a special function answers for an ordinary operand; `Sfu` keeps of it only what lies within the bound of R103. The first
argument is a counter of the state, the second the operand's bits. Log entry 7: DESIGN CHOICE. -/
opaque Config.special : Nat → Word → Word

/-- The SHA-256 of the device's identity public key, byte by byte (R262). Log entry 49: DESIGN CHOICE. -/
opaque Config.identityByte : Nat → Byte

/-- The SHA-256 of an image of a pair, byte by byte, by the version of the image, none for no image (R262). Log entry 49: DESIGN CHOICE. -/
opaque Config.imageByte : ImgKind → Option Nat → Nat → Byte

end Sys2Proof
end

