-- ==== Sys2Proof/Machine/State.lean ====
section
/-! DEFINITION. The state of the machine: plain data, holding everything the manual gives the Thafel. A `Map` is a list of pairs sorted
by key. Memory of every kind is one `Map` of bytes, keyed by the location numbers of `Machine/Mem.lean`. -/

namespace Sys2Proof.Machine

/-- Sparse data by key: a list sorted by key, each key once. -/
abbrev Map (α : Type) := List (Nat × α)

/-- Bytes of memory by location; a byte not listed reads as zero (log entry 1, DESIGN CHOICE). -/
abbrev Mem := List Host.Cell

/-- An affine register: base, stride and the flag OV (R39). -/
structure Aff where
  /-- value of lane 0 -/
  base : Word
  /-- difference between lanes -/
  stride : Word
  /-- overflow flag (R43) -/
  ov : Bool
deriving DecidableEq, Repr, Inhabited

/-- An address base register: 64-bit base and space tag (R39, R57). -/
structure BReg where
  /-- base address -/
  base : DWord
  /-- space tag: 0 global, 1 S, 2 A, 3 C.f32, 4 C.raw -/
  tag : BitVec 3
deriving DecidableEq, Repr, Inhabited

/-- The registers of a wave (R39, R44). -/
structure Regs where
  /-- v0 to v63, 32 threads each -/
  v : Vector (Vector Word 32) 64
  /-- s0 to s31 -/
  s : Vector Word 32
  /-- a0 to a15 -/
  a : Vector Aff 16
  /-- p0 to p6, a bit a thread; p7 is hard-wired and its place here is never read -/
  p : Vector Lanes 8
  /-- k0 to k2; k3 is hard-wired and its place here is never read -/
  k : Vector Bool 4
  /-- b0 to b7 -/
  b : Vector BReg 8
  /-- bit n set: vn is empty -/
  vEmpty : BitVec 64
  /-- bit n set: sn is empty -/
  sEmpty : BitVec 32
deriving DecidableEq, Repr, Inhabited

/-- One entry of a reconvergence stack (R36). -/
structure StackEnt where
  /-- saved program counter -/
  pc : DWord
  /-- saved threads of the slice -/
  mask : BitVec 4
  /-- kind bit: false a path entry, true a join entry -/
  join : Bool
deriving DecidableEq, Repr, Inhabited

/-- A gang's place inside a control-store sequence run by `mcall` (R76, R77, R339). -/
structure MacPos where
  /-- number of the sequence, 0 to 63 -/
  m : Nat
  /-- specifier P1 -/
  p1 : Byte
  /-- specifier P2 -/
  p2 : Byte
  /-- index of the next operation -/
  i : Nat
deriving DecidableEq, Repr, Inhabited

/-- Why a slice is not issuing although it is unfinished and its wave not parked. -/
inductive Wait where
  /-- its instruction found a condition unmet (an empty register, an unfinished batch, a full queue ...) and issues again later -/
  | stall
  /-- has stalled and may try again (the model's own) -/
  | retry
  /-- waits at `regang` with this mask (R35) -/
  | regang (m : BitVec 8)
  /-- waits at `rec.run` with these operand values (R180) -/
  | recRun (a b : Word)
  /-- waits at a barrier (R286) -/
  | barrier (b : Nat)
  /-- waits for a handle (R153) -/
  | handle (h : Nat)
  /-- waits for the baton (R159) -/
  | baton
  /-- a handler that passed its trap to the hypervisor (R328) -/
  | hyper
  /-- waits at `ckpt` for a clean point (R305) -/
  | ckpt
  /-- has executed `rec.ret`, or has no frame, in the routine call in progress (R181, R183) -/
  | returned
deriving DecidableEq, Repr, Inhabited

/-- A slice (R28). -/
structure Slice where
  /-- virtual address of the next instruction -/
  pc : DWord
  /-- thread mask -/
  mask : BitVec 4
  /-- reconvergence stack, top first (R36) -/
  stack : List StackEnt
  /-- MODE.X (R62) -/
  modex : Word
  /-- MODE.M (R63) -/
  modem : Word
  /-- lowest slice of the slice's gang (R33) -/
  gang : Nat
  /-- remaining core cycles of `sleep` (R376) -/
  sleep : Nat
  /-- what the slice waits for -/
  wait : Option Wait
  /-- inside `mcall`: the place in the control store -/
  mac : Option MacPos
deriving DecidableEq, Repr, Inhabited

/-- The trap causes that reach a wave (R231). -/
inductive Cause where
  | udi | opc | uwp | afo | fet | mbf | mmf | sov | trf | pmf | alf | spf | btf | hbf | bri | rdo | rff | spn | mst | uce | swt | prv | mcs
deriving DecidableEq, Repr, Inhabited

/-- Where a trap goes (R231): an in-wave handler, the partition's system software, the hypervisor. -/
inductive Route where
  | w | p | h
deriving DecidableEq, Repr, Inhabited

/-- What delivery saves of one member of the trapping gang (R232). -/
structure SavedSlice where
  /-- slice number -/
  sl : Nat
  /-- program counter -/
  pc : DWord
  /-- thread mask -/
  mask : BitVec 4
  /-- stack depth -/
  depth : Nat
  /-- MODE.X -/
  modex : Word
  /-- MODE.M -/
  modem : Word
  /-- control-store place -/
  mac : Option MacPos
  /-- gang -/
  gang : Nat
  /-- a wait that an asynchronous cause found it in and that outlasts the trap: at a barrier, or returned from a routine call (R232, R250) -/
  wait : Option Wait
  /-- that wait has ended meanwhile, and its instruction is complete -/
  past : Bool
deriving DecidableEq, Repr, Inhabited

/-- An unresolved trap of a wave (R232 to R236). -/
structure TrapSt where
  /-- where it went -/
  route : Route
  /-- the trapping gang as it stood at the first delivery -/
  saved : List SavedSlice
  /-- a handler gang exists: the first delivery went to an in-wave handler -/
  handler : Bool
  /-- the handler gang issues: true in the handler, false while parked for system software -/
  running : Bool
  /-- code of the cause of the first delivery: the trap that a handler's `eret` resolves -/
  cause : Nat
deriving DecidableEq, Repr, Inhabited

/-- Threads of a wave that an event happens before: from their access of a number on (R133). -/
structure Seen where
  /-- number of the event -/
  ev : Nat
  /-- the threads -/
  ts : Lanes
  /-- number of the first access that it happens before -/
  since : Nat
deriving DecidableEq, Repr, Inhabited

/-- An agent as R127, R165 and R170 place it: its wave, and the cores in whose instances it lies; none for an agent outside every core. -/
structure Place where
  /-- wave -/
  wave : Option Nat
  /-- cores -/
  cores : List Nat
deriving DecidableEq, Repr, Inhabited

/-- A release write that stands at a location, the head of a release sequence: who made it, at which scope, and the events that happen before
it (R133). -/
structure Sync where
  /-- first location -/
  loc : Nat
  /-- bytes -/
  n : Nat
  /-- the agent -/
  who : Place
  /-- its scope -/
  scope : Nat
  /-- numbers of the events -/
  evs : List Nat
deriving DecidableEq, Repr, Inhabited

/-- A release fence of a wave, which its later relaxed atomic writes carry (R133). -/
structure RelFence where
  /-- the threads -/
  ts : Lanes
  /-- scope -/
  scope : Nat
  /-- number of the next access -/
  since : Nat
  /-- numbers of the events that happen before it -/
  evs : List Nat
deriving DecidableEq, Repr, Inhabited

/-- A release write whose value threads of a wave read with a relaxed atomic: a later acquire fence of theirs acquires it (R133). -/
structure Heard where
  /-- the threads -/
  ts : Lanes
  /-- the release write -/
  sync : Sync
deriving DecidableEq, Repr, Inhabited

/-- The state of a wave that a checkpoint holds and a rollback restores (R50, R237). -/
structure WaveCore where
  /-- registers of every class with full/empty bits and OV -/
  regs : Regs
  /-- the eight slices -/
  slices : Vector Slice 8
  /-- live set (R29) -/
  live : Lanes
  /-- depth (R47) -/
  depth : Nat
  /-- numbers of the live children (R50) -/
  children : List Nat
  /-- children that a handler killed since the last `cjoin` (R48) -/
  killed : Nat
  /-- batch counter OPEN (R150) -/
  opn : BitVec 16
  /-- batch counter DONE (R150) -/
  dne : BitVec 16
  /-- packets posted to the open batch since it opened (R147) -/
  openCnt : Nat
  /-- one of them writes global or peer memory: the open batch holds it until the next `batch` (R239, R305) -/
  openGlob : Bool
  /-- PWRCTL (R219) -/
  pwrctl : Word
  /-- TRCAUSE (R230) -/
  trcause : Word
  /-- TRPC -/
  trpc : Word
  /-- TRMASK -/
  trmask : Word
  /-- TRFALO -/
  trfalo : Word
  /-- TRFAHI -/
  trfahi : Word
  /-- TVECLO -/
  tveclo : Word
  /-- TVECHI -/
  tvechi : Word
  /-- HSCR0 -/
  hscr0 : Word
  /-- HSCR1 -/
  hscr1 : Word
  /-- TXLO (R198) -/
  txlo : Word
  /-- TXHI -/
  txhi : Word
  /-- the unresolved trap -/
  trap : Option TrapSt
  /-- burn request, in 0.10 A (R224) -/
  burn : Nat
  /-- remaining cycles of the burn request; 0 with a non-zero request means until `bal.stop` -/
  burnLeft : Nat
  /-- an idempotent region is open (R239) -/
  region : Bool
  /-- events that happen before what its threads do (R133) -/
  seen : List Seen
  /-- its release fences (R133) -/
  fences : List RelFence
  /-- release writes that relaxed reads of its threads found (R133) -/
  heard : List Heard
  /-- events that happen before the end of its children, for `cjoin` (R304) -/
  ofChildren : List Nat
  /-- number of the access that follows its latest `mfence` (R163) -/
  mfenceAt : Nat
  /-- events that happen before that `mfence` -/
  mfenceSeen : List Nat
deriving DecidableEq, Repr, Inhabited

/-- A register that a load writes and that full/empty bits guard (R44). -/
inductive Dst where
  /-- vn -/
  | v (n : Nat)
  /-- sn -/
  | s (n : Nat)
deriving DecidableEq, Repr, Inhabited

/-- A quantum atomic of one thread: wave, number of the access, and thread (R135). -/
abbrev QName := Nat × Nat × Nat

/-- One thread's part of an access: n bytes from a location on (R112, R113). -/
structure Piece where
  /-- thread; 0 for a uniform access -/
  t : Nat
  /-- first location -/
  loc : Nat
  /-- virtual or buffer address, for fault addresses -/
  va : Nat
  /-- bytes -/
  n : Nat
  /-- data of a store or atomic, compare value of `atom.cas`, low bytes first -/
  data : Nat
  /-- second datum: the new value of `atom.cas` -/
  data2 : Nat
  /-- the location may be held in the core data cache: not NC, not a peer (R115) -/
  cache : Bool
  /-- first register of the destination that it fills: the second half of a q access fills the third and fourth (R129) -/
  word : Nat
  /-- what a load read before its sector returned: the parts of an access are performed in no fixed order (R129) -/
  got : Option Nat
  /-- of a quantum atomic whose read has been chosen: the quantum atomics that come before it in the interleaving that gives it (R135) -/
  saw : List QName
deriving DecidableEq, Repr, Inhabited

/-- The atomic operations (R276). -/
inductive AtomOp where
  | read | write | add | min | max | and | or | xor | xchg | cas | fadd | inc
deriving DecidableEq, Repr, Inhabited

/-- What an access in flight does when its pieces are performed. -/
inductive AccOp where
  /-- ordinary load; sign extension, non-temporal, cacheable -/
  | load (sx nt : Bool)
  /-- ordinary store; non-temporal -/
  | store (nt : Bool)
  /-- atomic of an element type, with its use as MODE.AU when it is relaxed, else 0 (R128, R135) -/
  | atomic (op : AtomOp) (ty use : Nat)
deriving DecidableEq, Repr, Inhabited

/-- A load, store or atomic that has issued and is not yet performed in whole (R44, R113, R131). -/
structure Access where
  /-- number within the wave, rising with program order -/
  id : Nat
  /-- what it does -/
  op : AccOp
  /-- first destination register, and how many -/
  dst : Option Dst
  /-- registers of the destination -/
  nreg : Nat
  /-- pieces not yet performed -/
  pieces : List Piece
  /-- the issuing threads -/
  threads : Lanes
  /-- scope, as MODE.SC -/
  scope : Nat
  /-- acquire -/
  acq : Bool
  /-- release -/
  rel : Bool
  /-- seq_cst -/
  sc : Bool
  /-- performed once for its threads together, standing in the program order of each (R126) -/
  uni : Bool
  /-- threads before whose next accesses it happens: the issuing ones, and those that a uniform access has joined to them since (R126) -/
  reach : Lanes := threads
  /-- what is left of a store has reached the cluster's L2 slice on its way to a peer's home, which has not acknowledged it: its place in the order of
  such sendings (R167) -/
  sent : Option Nat
  /-- lowest poisoned address that it has read so far (R390) -/
  hurt : Option Nat
  /-- address of its instruction, for a fault that comes late (R168) -/
  pc : DWord
  /-- its place in the control store, when a macro issued it -/
  mac : Option MacPos
  /-- lowest slice of the gang that issued it -/
  lead : Nat
deriving DecidableEq, Repr, Inhabited

/-- An event that decides what other agents read, until it happens before their reads: a write of a relaxed unpaired atomic (R134, R135), or a
write to the A buffer (R163, R172). Operations of the matrix engine have numbers of the same count (R172). -/
structure Ev where
  /-- its number -/
  id : Nat
  /-- first location -/
  loc : Nat
  /-- bytes -/
  n : Nat
  /-- the wave; none for a packet -/
  src : Option Nat
  /-- its threads that made it -/
  ts : Lanes
  /-- number of its access within the wave -/
  acc : Nat
  /-- the agent -/
  who : Place
  /-- scope of an atomic -/
  scope : Nat
deriving DecidableEq, Repr, Inhabited

/-- A read that was given an undefined value for a race with an unpaired atomic write still to come (R135): the write that the agenda owes it. -/
structure Owed where
  /-- its number among events -/
  id : Nat
  /-- first location -/
  loc : Nat
  /-- bytes -/
  n : Nat
  /-- the wave that reads -/
  src : Nat
  /-- its threads that read -/
  ts : Lanes
  /-- number of its access within the wave -/
  acc : Nat
  /-- of an `atom.*`: its place and scope -/
  rmw : Option (Place × Nat)
deriving DecidableEq, Repr, Inhabited

/-- An atomic of the use quantum that has been performed at a location, or a read that found those there (R135). -/
structure QOp where
  /-- its number among events -/
  id : Nat
  /-- its wave, access and thread; thread 0 of a uniform access -/
  name : QName
  /-- the threads it stands for (R126) -/
  ts : Lanes
  /-- first location -/
  loc : Nat
  /-- bytes -/
  n : Nat
  /-- operation -/
  op : AtomOp
  /-- element type -/
  ty : Nat
  /-- datum, or compare value -/
  data : Nat
  /-- second datum -/
  data2 : Nat
  /-- what the location held before it -/
  old : Nat
  /-- events that happen before it -/
  knows : List Nat
  /-- quantum atomics that come before it in the interleaving that its read takes -/
  saw : List QName
deriving DecidableEq, Repr, Inhabited

/-- The scale register of a queued word: whether it was written since the issue (R163). -/
structure Watch where
  /-- number of the operation within the wave -/
  id : Nat
  /-- the varying register -/
  v : Nat
  /-- written since -/
  hit : Bool
deriving DecidableEq, Repr, Inhabited

/-- A packet of a wave that has not completed (R150, R152). -/
structure Posted where
  /-- copy queue -/
  q : Nat
  /-- index in the queue -/
  idx : Word
  /-- batch -/
  batch : BitVec 16
  /-- registration of the queue that it was posted to -/
  reg : Nat
  /-- SCOPE -/
  scope : Nat
  /-- the packet writes global or peer memory (R237, R305) -/
  glob : Bool
deriving DecidableEq, Repr, Inhabited

/-- A completed packet as a `wait.bat` acquires it (R152): its batch, its SCOPE, its agent and the events that happen before its completion. -/
structure Done where
  /-- batch -/
  batch : Nat
  /-- SCOPE -/
  scope : Nat
  /-- the packet agent -/
  who : Place
  /-- numbers of the events -/
  evs : List Nat
deriving DecidableEq, Repr, Inhabited

/-- A register of a wave, as the register undo log names it (R240). -/
inductive RegId where
  | v (n : Nat) | s (n : Nat) | a (n : Nat) | p (n : Nat) | k (n : Nat) | b (n : Nat)
deriving DecidableEq, Repr, Inhabited

/-- A C tile row in the undo log: its first location, old bytes, old tag, and the tile's old E and Q (R240). -/
structure TileLog where
  /-- row of the C buffer, 0 to 127 -/
  row : Nat
  /-- its bytes -/
  old : List Byte
  /-- its tag -/
  tag : Option Nat
  /-- handle whose E and Q follow -/
  c : Nat
  /-- E; none when the handle is empty -/
  e : Option Int
  /-- Q -/
  q : Bool
  /-- its sectors that were poisoned -/
  poison : List Nat
deriving DecidableEq, Repr, Inhabited

/-- An entry of a memory or buffer undo log: old bytes of those the wave wrote, by location, and poisoned sectors among them (R240). -/
structure LogEnt where
  /-- line of 128 bytes, or sector of 32 -/
  key : Nat
  /-- old bytes -/
  old : Mem
  /-- sectors of them that were poisoned -/
  poison : List Nat
deriving DecidableEq, Repr, Inhabited

/-- A wave. -/
structure Wave where
  /-- the state a rollback restores -/
  st : WaveCore
  /-- the checkpoint (R237) -/
  ck : WaveCore
  /-- core, 0 to 511 -/
  core : Nat
  /-- quad -/
  quad : Nat
  /-- wave slot -/
  slot : Nat
  /-- core group -/
  group : Nat
  /-- parent, for a spawned wave -/
  parent : Option Nat
  /-- varying registers allocated (R61) -/
  valloc : Nat
  /-- accesses in flight, oldest first -/
  inflight : List Access
  /-- number of the next access -/
  nextAcc : Nat
  /-- packets posted and not completed -/
  posted : List Posted
  /-- the completed packets that a `wait.bat` acquires (R152) -/
  done : List Done
  /-- held asynchronous causes with their fault addresses (R233), and UNR -/
  held : List (Cause × DWord × Bool)
  /-- the checkpoint was taken during a run and holds its state (R191) -/
  ckRun : Bool
  /-- pinned (R241) -/
  pinned : Bool
  /-- pending checkpoint attempt: cycles since it arose (R238) -/
  attempt : Option Nat
  /-- number of the access that followed the checkpoint -/
  ckAcc : Nat
  /-- entries of the register undo log -/
  regLog : List RegId
  /-- entries of the memory undo log, newest first -/
  memLog : List LogEnt
  /-- entries of the buffer undo log, newest first -/
  bufLog : List LogEnt
  /-- tile rows in the undo log, newest first -/
  tileLog : List TileLog
  /-- every slice finished; ends once its accesses are performed (R213, R316) -/
  ending : Bool
  /-- killed by a resolution or by KILL (R236) -/
  killedBy : Bool
  /-- halves of a quad cycle waited without dispatch, by slice (R45, R218) -/
  starved : Map Nat
  /-- index of the Lantern copy that audits the open region (R265) -/
  lantern : Option Nat
  /-- the open region counts as auditable so far (R265) -/
  counted : Bool
  /-- of a child, before it starts: its parent, the number of the parent's next access at the `spawn`, and the threads whose accesses before that
  are performed first (R377) -/
  after : Option (Nat × Nat × Lanes)
  /-- a hidden wave, which replays Lantern's copy of this number (R265) -/
  hidden : Option Nat
  /-- scale registers of its queued words (R163) -/
  watch : List Watch
  /-- a Trailhead processor's own context (R70): its number -/
  tp : Option Nat
deriving DecidableEq, Repr, Inhabited

/-- An entry of a range cache (R119 to R121): a range of input addresses of one stage and address space. -/
structure RcEnt where
  /-- stage, 1 or 2 -/
  stage : Nat
  /-- partition -/
  part : Nat
  /-- stage 1: address of the context descriptor; stage 2: 0 -/
  desc : Nat
  /-- first input address -/
  lo : Nat
  /-- last input address -/
  hi : Nat
  /-- output address of the first -/
  tgt : Nat
  /-- fabric peer -/
  peer : Bool
  /-- kept out of the core data cache -/
  nc : Bool
  /-- permissions: bit 3 read, 2 write, 1 execute, 0 atomic -/
  perm : BitVec 4
deriving DecidableEq, Repr, Inhabited

/-- A walk of a cluster walker (R120): the range or page it will put into the range caches, and the accesses joined to it. -/
structure Walk where
  /-- what it found -/
  ent : RcEnt
  /-- cores whose range caches it fills: those of the joined accesses and fetches -/
  cores : List Nat
  /-- waves and access numbers joined to it -/
  joined : List (Nat × Nat)
deriving DecidableEq, Repr, Inhabited

/-- States of a buffer-table handle (R153). -/
inductive HState where
  | free | filling | full | draining
deriving DecidableEq, Repr, Inhabited

/-- A handle of the buffer table (R153). -/
structure Handle where
  /-- true for A, false for S -/
  sp : Bool
  /-- region offset in 256-byte units -/
  off : BitVec 10
  /-- region size in 256-byte units, minus 1 -/
  szm1 : BitVec 10
  /-- wave owner -/
  owner : Option Nat
  /-- FILLs naming the handle that have started and not completed (R146) -/
  fills : Nat
  /-- state -/
  st : HState
  /-- core-group owner -/
  grp : Option Nat
  /-- waiters, oldest first: wave, gang, and true for `hb.fill` -/
  waiters : List (Nat × Nat × Bool)
  /-- events that happen before its latest FILL's completion, or its latest `hb.rel` (R171) -/
  evs : List Nat
deriving DecidableEq, Repr, Inhabited

/-- A hardware barrier (R283). -/
structure Barrier where
  /-- VAL -/
  val : Bool
  /-- OWN -/
  own : Nat
  /-- EXP -/
  exp : Nat
  /-- CNT -/
  cnt : Nat
  /-- MASK -/
  mask : Lanes
  /-- PSN -/
  psn : Bool
  /-- ARR: waves that have arrived in the current phase -/
  arr : List Nat
  /-- PART -/
  part : List Nat
  /-- waiters: wave and gang -/
  waiters : List (Nat × Nat)
  /-- events that happen before the arrivals of the current phase (R285) -/
  evs : List Nat
deriving DecidableEq, Repr, Inhabited

/-- The operations of a matrix engine's queue (R155, R160, R162). -/
inductive EngKind where
  /-- a bank load; true when `mwsel` queued it -/
  | load (bank : Nat) (sel : Bool)
  /-- a word: kind 0 BI8, 1 BI4, 2 INT8 weights; C handle, A handle, bank, byte select, rows, accumulate, scale bytes' register -/
  | word (kind c h bank sel rows : Nat) (acc : Bool) (v : Nat)
  /-- zero a tile -/
  | zero (c : Nat)
  /-- normalise a tile and write sD -/
  | norm (c sD : Nat)
deriving DecidableEq, Repr, Inhabited

/-- An operation of the engine's queue (R160, R163, R164). -/
structure EngOp where
  /-- wave that queued it -/
  wave : Nat
  /-- core group of that wave -/
  grp : Nat
  /-- its number within the wave -/
  id : Nat
  /-- what it is -/
  kind : EngKind
  /-- started: computing, or loading -/
  started : Bool
  /-- a word whose last compute cycle has passed: its half-array is free (R164) -/
  computed : Bool
  /-- its operands were touched between issue and completion, so its results are undefined (R163) -/
  taint : Bool
  /-- region of the A operand: first location and length -/
  aLoc : Nat
  /-- bytes of the A operand -/
  aLen : Nat
  /-- the scale register as it stood at issue, by thread; its rows' threads alone matter -/
  scale : List Word
deriving DecidableEq, Repr, Inhabited

/-- A frame of a recursion run (R181, R184). -/
structure Frame where
  /-- arena offset -/
  off : Nat
  /-- depth, the root being 0 -/
  depth : Nat
  /-- offset of the first child -/
  kid : Nat
  /-- children reserved -/
  cnt : Nat
  /-- stride between children -/
  stride : Nat
deriving DecidableEq, Repr, Inhabited

/-- The routines (R178). -/
inductive Rout where
  | divide | base | combine
deriving DecidableEq, Repr, Inhabited

/-- A routine that a thread has still to run on a frame. -/
structure Task where
  /-- routine -/
  rout : Rout
  /-- frame -/
  frame : Frame
deriving DecidableEq, Repr, Inhabited

/-- A core-group thread's part of a run: routines still to run, next first, and occupied slots of its stack (R186). -/
structure RThread where
  /-- routines still to run -/
  tasks : List Task
  /-- slots in use -/
  top : Nat
deriving DecidableEq, Repr, Inhabited

/-- A routine call in progress on a wave (R181). -/
structure RCall where
  /-- routine -/
  rout : Rout
  /-- frame of each thread in the call, by thread of the wave -/
  frames : Map Frame
  /-- threads that have executed `rec.ret` -/
  returned : Lanes
deriving DecidableEq, Repr, Inhabited

/-- The phases of a run (R184 to R188). -/
inductive RPhase where
  /-- divide pass over level d -/
  | div
  /-- base pass over level d -/
  | bas
  /-- depth phase -/
  | depth
  /-- combine phase at level d -/
  | comb
deriving DecidableEq, Repr, Inhabited

/-- The snapshot of a wave at `rec.run` (R180). -/
structure RSnap where
  /-- the wave -/
  w : Nat
  /-- s registers -/
  s : Vector Word 32
  /-- k predicates -/
  k : Vector Bool 4
  /-- a registers -/
  a : Vector Aff 16
  /-- b registers -/
  b : Vector BReg 8
  /-- slice 0's MODE.X -/
  modex : Word
  /-- slice 0's MODE.M -/
  modem : Word
  /-- address after the `rec.run` -/
  pc : DWord
  /-- the unresolved trap in whose handler it was issued -/
  trap : Option TrapSt
deriving DecidableEq, Repr, Inhabited

/-- A recursion run (R178 to R191). -/
structure RunSt where
  /-- core group -/
  grp : Nat
  /-- location-independent address of the descriptor: space tag and address -/
  dtag : BitVec 3
  /-- address of the descriptor -/
  daddr : DWord
  /-- DIV -/
  div : Word
  /-- BAS -/
  bas : Word
  /-- COM -/
  com : Word
  /-- F -/
  fan : Nat
  /-- frame size in bytes -/
  fb : Nat
  /-- D -/
  dmax : Nat
  /-- L -/
  lsw : Nat
  /-- ASP: true for S -/
  asp : Bool
  /-- ABASE -/
  abase : DWord
  /-- ASIZE -/
  asize : Nat
  /-- SSP: true for S -/
  ssp : Bool
  /-- STAT -/
  stat : DWord
  /-- the snapshots, in wave order -/
  snaps : List RSnap
  /-- phase -/
  phase : RPhase
  /-- level worked -/
  level : Nat
  /-- arena offset at which the level's array ends -/
  levelEnd : Nat
  /-- frames of the levels 0 up to the one worked, by rank, as their routines left them -/
  levels : List (List Frame)
  /-- B_b, the end of the frontier's array (R185) -/
  bb : Nat
  /-- core-group threads with work -/
  threads : Map RThread
  /-- calls in progress, by wave -/
  calls : Map RCall
  /-- frames whose last routine ended -/
  ended : Nat
  /-- events that happen before the routines that depend on a frame, by its arena offset (R173) -/
  outs : Map (List Nat)
  /-- events that happen before the end of some routine of the run -/
  evs : List Nat
  /-- no new call starts: a checkpoint is awaited (R191) -/
  hold : Bool
  /-- killed with this code (R189) -/
  killed : Option Nat
deriving DecidableEq, Repr, Inhabited

/-- What a swap exchanges with the Cistern (R247). -/
structure Context where
  /-- the waves of the core by number -/
  waves : List (Nat × Wave)
  /-- typed buffers, W buffer and W image, by location within the core's window -/
  bytes : Mem
  /-- poisoned sectors of the same, by sector within the core's window -/
  poison : List Nat
  /-- row tags -/
  tags : Map Nat
  /-- E of the C handles that are not empty -/
  ce : Map Int
  /-- C handles whose Q is 1 -/
  cq : List Nat
  /-- loaded bank -/
  image : Option Nat
  /-- C rows with the wave and the number of their latest operation (R172) -/
  unsync : List (Nat × Nat × Nat)
  /-- buffer table -/
  handles : Map Handle
  /-- barriers -/
  bars : Map Barrier
  /-- baton -/
  baton : Option Nat
  /-- its waiters -/
  batonQ : List (Nat × Nat)
  /-- unfolding engine -/
  run : Option RunSt
  /-- the runs that checkpoints hold -/
  runCk : Map RunSt
  /-- core groups in line for the engine -/
  runQ : List Nat
  /-- core groups whose held run is taken up again -/
  runBack : List Nat
  /-- latest status words by core group -/
  status : Map Word
  /-- events that happen before the routines of each core group's latest run -/
  runEvs : Map (List Nat)
  /-- events in its buffers, by location within the core's window (R134, R163) -/
  evs : List Ev
  /-- release writes there (R133) -/
  syncs : List Sync
  /-- grant above -/
  shuntUp : Nat
  /-- grant below -/
  shuntDn : Nat
  /-- control store -/
  macs : Map Word
  /-- CKPTCFG.INTERVAL -/
  interval : BitVec 8
  /-- THRCFG of the cluster, held in the Cistern of its lowest core -/
  thrcfg : Word
  /-- BALCFG of the cluster, likewise -/
  balcfg : Word
  /-- address space of the last core group placed -/
  space : Option (Nat × Nat)
  /-- partition whose context it is -/
  part : Nat
deriving DecidableEq, Repr, Inhabited

/-- A core (R16). Its typed buffers, W buffer and W image are windows of `State.mem`. -/
structure CoreSt where
  /-- tag of each row of the C buffer that has one (R157) -/
  tags : Map Nat
  /-- E of each C handle that is not empty (R97, R156) -/
  ce : Map Int
  /-- C handles whose Q is 1 -/
  cq : List Nat
  /-- loaded bank (R155) -/
  image : Option Nat
  /-- offsets of the image that a copy overlapped during the running load (R155) -/
  imgTaint : List Nat
  /-- engine queue, front first -/
  eng : List EngOp
  /-- C rows with their latest operation: row, issuing wave, and the operation's number among events (R172) -/
  unsync : List (Nat × Nat × Nat)
  /-- holder of the baton (R159) -/
  baton : Option Nat
  /-- its waiters in order: wave and gang -/
  batonQ : List (Nat × Nat)
  /-- buffer table; a handle not listed is free and unowned -/
  handles : Map Handle
  /-- barriers; one not listed is uninitialised -/
  bars : Map Barrier
  /-- control store: operation words by 32 × number + index -/
  macs : Map Word
  /-- core data cache: sectors of global memory by location ÷ 32 (R115) -/
  dcache : Map (BitVec 256)
  /-- instruction cache: words by location (R329) -/
  icache : Map Word
  /-- core range caches of both stages (R120) -/
  rc : List RcEnt
  /-- the unfolding engine's run -/
  run : Option RunSt
  /-- the run of each core group as its waves' checkpoints hold it (R191) -/
  runCk : Map RunSt
  /-- core groups whose waves all wait at `rec.run` while another run goes on, in the order in which their last wave reached it (R180) -/
  runQ : List Nat
  /-- those of them whose waves a rollback put back into the run that their checkpoints hold (R191) -/
  runBack : List Nat
  /-- latest status word of each core group (R189) -/
  status : Map Word
  /-- events that happen before the routines of each core group's latest run, for `rec.wait` (R173) -/
  runEvs : Map (List Nat)
  /-- cycle count, CCHI and CCLO (R209) -/
  cycles : DWord
  /-- COLSTAT.TEVT (R221) -/
  tevt : Nat
  /-- shunt reservation: units granted on the rail above (R226) -/
  shuntUp : Nat
  /-- units granted on the rail below -/
  shuntDn : Nat
  /-- waiting burn in 0.10 A (R222) -/
  waitBurn : Nat
  /-- source, when the core is a mirror (R217) -/
  mirror : Option Nat
  /-- throttled for the rail above (R218) -/
  thrUp : Bool
  /-- throttled for the rail below -/
  thrDn : Bool
  /-- throttle to engage for the rail above -/
  pendUp : Bool
  /-- throttle to engage for the rail below -/
  pendDn : Bool
  /-- throttled by the island manager for a wake of the other column (R228) -/
  thrWake : Bool
  /-- throttled for a shortfall of the cooling (R27), which ends when Basecamp says that cooling is back (log entry 35, DESIGN CHOICE) -/
  thrCool : Bool
  /-- the count passed a multiple of INTERVAL × 1,024 and its waves have not yet got their attempts (R238) -/
  attemptDue : Bool
  /-- CKPTCFG.INTERVAL (R238) -/
  interval : BitVec 8
  /-- the Cistern (R247) -/
  cistern : Option Context
  /-- address space of the last core group placed: partition and stage-1 descriptor (R206, R258) -/
  space : Option (Nat × Nat)
deriving DecidableEq, Repr, Inhabited

/-- A region picked by Lantern (R265). -/
structure LantCopy where
  /-- wave -/
  w : Nat
  /-- its checkpoint -/
  ck : WaveCore
  /-- signature of the records so far -/
  sig : DWord
  /-- stores of each thread so far -/
  stores : Map Nat
  /-- the region has closed at `rgn.e` -/
  closed : Bool
  /-- core on which it ran -/
  core : Nat
  /-- varying registers of the wave -/
  valloc : Nat
  /-- its core group, whose address space the replay uses -/
  group : Nat
  /-- the hidden wave that replays it -/
  replay : Option Nat
  /-- signature of the replay so far, with what an error adds to it -/
  resig : DWord
  /-- stores of each thread in the replay so far -/
  restores : Map Nat
  /-- the replay that disagreed with the region's own run: its core and signature -/
  second : Option (Nat × DWord)
deriving DecidableEq, Repr, Inhabited

/-- A cluster (R15). Its L2 slice is coherent and is `State.mem` itself. -/
structure ClusterSt where
  /-- THRCFG (R221) -/
  thrcfg : Word
  /-- BALCFG -/
  balcfg : Word
  /-- cluster range caches of both stages (R120) -/
  rc : List RcEnt
  /-- walks in order; the first 32 are outstanding, and the others wait for a place -/
  walks : List Walk
  /-- read copies of peer sectors by location ÷ 32 (R166) -/
  peers : Map (BitVec 256)
  /-- auditable regions opened since the last pick (R265) -/
  lantCount : Nat
  /-- Lantern's copies -/
  lant : Map LantCopy
  /-- LANTCFG.PERIOD (R254) -/
  lantPeriod : BitVec 16
  /-- physical cluster behind the logical number; none when no cluster has it (R19) -/
  phys : Option Nat
  /-- Trailhead places nothing here: draining or under self-test (R267) -/
  draining : Bool
  /-- retired (R267, R268) -/
  retired : Bool
  /-- ISLPT: BUSY, CUR, REQ (R223) -/
  islBusy : Bool
  /-- point in force -/
  islCur : BitVec 2
  /-- point requested -/
  islReq : BitVec 2
  /-- request kept while BUSY -/
  islNext : Option Word
  /-- the island's own counter, which Basecamp alone reads (R209) -/
  islCtr : Nat
  /-- being reassigned or pre-empted: its waves do not issue (R246, R255) -/
  halted : Bool
  /-- version of the control-store image of its copy engine (R261, R269) -/
  copyFw : Option Nat
  /-- version of the control-store image of its unfolding engines -/
  unfoldFw : Option Nat
deriving DecidableEq, Repr, Inhabited

/-- A mid-rail (R20, R214). -/
structure Rail where
  /-- latest reading, layer m minus layer m + 1, in 10 mA -/
  reading : Int
  /-- armed for MST (R218) -/
  armed : Bool
  /-- consecutive readings above the machine-check limit -/
  above : Nat
  /-- failed phases (R229) -/
  failed : Nat
deriving DecidableEq, Repr, Inhabited

/-- Power states of a column (R228). -/
inductive ColPower where
  | on | gated | waking | retired
deriving DecidableEq, Repr, Inhabited

/-- A column. -/
structure ColSt where
  /-- rails 0 to 2 -/
  rails : Vector Rail 3
  /-- COLPWR.STATE -/
  power : ColPower
  /-- COLPWR.STEP -/
  step : Nat
  /-- COLPWR.WAKE_PENDING -/
  wakePending : Bool
  /-- latest column current in 10 mA, for inrush grants -/
  current : Nat
  /-- clocks stopped by a machine check (R220) -/
  stopped : Bool
  /-- calibration of its Spillways (R269) -/
  calib : Nat
deriving DecidableEq, Repr, Inhabited

/-- A core group (R22, R107, R206). -/
structure Group where
  /-- core; none before placement and while swapped to memory -/
  core : Nat
  /-- launch -/
  launch : Nat
  /-- index within the launch -/
  index : Nat
  /-- S allocation: first byte and length -/
  sOff : Nat
  /-- bytes -/
  sLen : Nat
  /-- A allocation -/
  aOff : Nat
  /-- bytes -/
  aLen : Nat
  /-- C allocation: first unit of 1,024 slots -/
  cUnit : Nat
  /-- units -/
  cLen : Nat
  /-- W banks -/
  banks : List Nat
  /-- macros of its launch that are still to be written, its waves waiting for them (R389) -/
  macWait : List Nat
deriving DecidableEq, Repr, Inhabited

/-- Where the completion of a launch or copy node reports to. -/
inductive Origin where
  /-- a work queue's packet: queue and index -/
  | queue (q : Nat) (idx : Word)
  /-- a node of a graph run: partition, graph, node -/
  | node (part gid n : Nat)
deriving DecidableEq, Repr, Inhabited

/-- A launch (R196, R197). -/
structure Launch where
  /-- the packet's 64 bytes -/
  bytes : List Byte
  /-- partition -/
  part : Nat
  /-- address of the stage-1 descriptor, the address space -/
  space : Nat
  /-- handler address written to TVEC -/
  tvec : DWord
  /-- parameter words 0 to 7 -/
  params : List Word
  /-- words of the macro table by 32 × number + index (R389) -/
  macs : Map Word
  /-- physical location of CADDR; none for no completion store -/
  cloc : Option Nat
  /-- where it came from -/
  origin : Origin
  /-- core groups placed -/
  placed : Nat
  /-- core groups that have not ended -/
  running : Nat
  /-- killed: nothing more is placed (R259) -/
  killed : Bool
  /-- turns of its partition that a co-resident launch has waited (R208) -/
  turns : Nat
  /-- its partition places nothing else before it -/
  reserved : Bool
deriving DecidableEq, Repr, Inhabited

/-- States of a queue (R140). -/
inductive QState where
  | run | stop | error
deriving DecidableEq, Repr, Inhabited

/-- A packet that a copy engine has started and not completed (R143, R170). -/
structure Job where
  /-- index -/
  idx : Word
  /-- bytes of the packet -/
  bytes : List Byte
  /-- it fills this handle of this core -/
  fill : Option (Nat × Nat)
  /-- graph node that posted it -/
  node : Option (Nat × Nat × Nat)
  /-- its effect is done; completion remains -/
  acted : Bool
  /-- location of a SIGNAL's target -/
  loc : Nat
  /-- the launch that a LAUNCH packet made -/
  launch : Option Nat
  /-- events that happen before the packet's completion (R170) -/
  evs : List Nat
deriving DecidableEq, Repr, Inhabited

/-- A registered queue: copy, work, forwarding or service (R140, R194, R201, R259). -/
structure Queue where
  /-- owning partition; 32 for the hypervisor -/
  owner : Nat
  /-- number of its registration, which tells it from an earlier queue of its number -/
  reg : Nat
  /-- location of slot 0 -/
  ring : Nat
  /-- slots -/
  size : Nat
  /-- location of the header line -/
  hdr : Nat
  /-- location of the error record -/
  err : Nat
  /-- address of the stage-1 descriptor -/
  space : Nat
  /-- state -/
  st : QState
  /-- internal RIDX -/
  ridx : Word
  /-- packets started and not completed -/
  jobs : List Job
  /-- indices of packets quarantined (R149) -/
  quarantine : List Word
  /-- PRIO (R194) -/
  prio : Nat
  /-- effective priority (R202) -/
  eff : Nat
  /-- decisions that passed the advanceable head over -/
  passed : Nat
  /-- FWD: destination of a forwarding queue (R201) -/
  fwd : Option Nat
  /-- handler address (R232) -/
  tvec : DWord
  /-- forwarded packets that joined this queue: source queue, index, bytes -/
  joined : List (Nat × Word × List Byte)
  /-- event ring of a service queue: location and records (R260) -/
  evRing : Option (Nat × Nat)
  /-- WIDX as Trailhead last read it, of a work queue (R195) -/
  seen : Word
  /-- the packet that stopped the queue is a forwarded one -/
  badJoined : Bool
  /-- graph nodes whose packet stands at an index of this copy queue: index, partition, graph, node -/
  nodes : List (Word × Nat × Nat × Nat)
  /-- events that happen before the completion of its earlier packets, for a SIGNAL (R143, R170) -/
  evs : List Nat
deriving DecidableEq, Repr, Inhabited

/-- A run of a graph (R205). -/
structure GraphRun where
  /-- patches: offset and value -/
  patches : List (Nat × Word)
  /-- nodes started -/
  started : List Nat
  /-- nodes completed -/
  done : List Nat
deriving DecidableEq, Repr, Inhabited

/-- A loaded graph (R203). -/
structure Graph where
  /-- the image as loaded, patches applied to its parameter block -/
  image : List Byte
  /-- address space of the GLOAD's queue -/
  space : Nat
  /-- handler address of the GLOAD's queue -/
  tvec : DWord
  /-- the GLOAD's queue -/
  q : Nat
  /-- the run in progress -/
  run : Option GraphRun
  /-- patch lists of the pending runs, oldest first -/
  pending : List (List (Nat × Word))
deriving DecidableEq, Repr, Inhabited

/-- A layout register set: live or shadow (R251). -/
structure Layout where
  /-- CLUSPART by cluster -/
  cluspart : Map Word
  /-- CONNMAT by cluster -/
  connmat : Map (BitVec 128)
  /-- PARTCFG by partition -/
  partcfg : Map Word
  /-- stage-2 descriptor of each partition (R118) -/
  stage2 : Map Nat
deriving DecidableEq, Repr, Inhabited

/-- A zeroing in progress (R258, R259). -/
structure Zeroing where
  /-- first location -/
  base : Nat
  /-- bytes -/
  len : Nat
  /-- location of the response, if its address translates -/
  resp : Option Nat
deriving DecidableEq, Repr, Inhabited

/-- What the journal records (R210). -/
inductive JRec where
  /-- a queue's RIDX and state: kind, queue, RIDX, state -/
  | queue (kind q : Nat) (ridx : Word) (st : QState)
  /-- start of a launch -/
  | launch (n : Nat)
  /-- start of a graph run -/
  | run (part gid : Nat)
  /-- placement of a core group -/
  | place (group core : Nat)
  /-- a completion store -/
  | complete (loc : Nat)
  /-- the completion of a launch -/
  | launchEnd (n : Nat)
  /-- the completion of a graph run -/
  | runEnd (part gid : Nat)
deriving DecidableEq, Repr, Inhabited

/-- What the hypervisor and Basecamp are told (R218, R229, R244, R263 to R266). -/
inductive Event where
  /-- a throttle engaged on a core -/
  | throttle (core : Nat)
  /-- a bucket reached its mark -/
  | predictive (b : Bucket)
  /-- phases of a rail failed -/
  | phase (col rail : Nat)
  /-- an error that rolled waves back -/
  | error (site : ErrSite)
  /-- an audit found a mismatch (R265) -/
  | aud (cluster : Nat)
  /-- an endpoint is unreachable -/
  | unreachable (loc : Nat)
  /-- an inbound request was refused -/
  | refusedIn (src addr : Nat)
  /-- a machine check -/
  | machineCheck (col : Nat)
  /-- pinned waves hold a pre-emption up -/
  | pinned (part : Nat)
  /-- the attestation report, signed outside the model -/
  | report (bytes : List Byte)
  /-- the answer to an inbound read -/
  | answer (src : Nat) (bytes : List Byte)
  /-- the package is ready (bring-up) -/
  | ready
deriving DecidableEq, Repr, Inhabited

/-- What happens next: the order in which the agents of the machine act, and what the outside does, as data (log entry 3, DESIGN CHOICE). -/
inductive Next where
  /-- a happening of the opcode table -/
  | event (i : Instr)
  /-- the gang led by a slice of a wave issues -/
  | issue (w sl : Nat)
  /-- an island counts core cycles -/
  | cycles (cluster n : Nat)
  /-- Trailhead's counter counts units of a partition's quantum (R209) -/
  | quantum (part n : Nat)
  /-- the current of a column, in 10 mA -/
  | current (col x : Nat)
  /-- a sector leaves a core data cache -/
  | evict (core sector : Nat)
  /-- a read copy of a peer sector leaves a cluster -/
  | evictPeer (cluster sector : Nat)
  /-- an instruction word leaves an instruction cache -/
  | evictI (core loc : Nat)
  /-- an entry leaves the range caches of a core and its cluster -/
  | evictRc (core i : Nat)
  /-- a quantum atomic in flight, for its piece in place k, reads what an interleaving of the racing quantum atomics gives: that in which the
  atomics `via`, performed or in flight, come before it in this order (R135) -/
  | quantumRead (w acc k : Nat) (via : List QName)
  /-- the piece in place k of an ordinary access in flight is performed ahead of the others: a store's reaches its home, and a load's is
  read, to be written when its sector returns (R113, R129) -/
  | piece (w acc k : Nat)
  /-- a read of an access in flight, for its piece in place k, races with an unpaired atomic write that is still to come, which the agenda owes
  it from now on (R135) -/
  | raced (w acc k : Nat)
  /-- the endpoint of a peer acknowledges no request from now on, or acknowledges them again (R263) -/
  | deaf (ep : Nat) (b : Bool)
  /-- the endpoint of a peer that the head packet of a copy queue reaches does not acknowledge its requests (R263) -/
  | packetUnreachable (q : Nat)
  /-- a store to a peer that Trailhead holds is made, or its endpoint does not acknowledge it (R263) -/
  | held (i : Nat) (ok : Bool)
  /-- the last compute cycle of the engine's operation in place i has passed (R164) -/
  | computed (core i : Nat)
  /-- a peer's own agents write bytes of its memory: by a read-modify-write or not, as an acquire, as a release -/
  | extern (loc : Nat) (bytes : List Byte) (rmw acq rel : Bool)
  /-- Basecamp writes the record of a commit, whose apply is still to come (R255, R256) -/
  | layRecord (x : Word)
  /-- Basecamp prepares the stage-2 descriptor that a partition gets at the next layout commit (R118) -/
  | stage2 (part desc : Nat)
  /-- an image is written into a slot of a pair: its version if it verifies, and true for slot B (R261, R269) -/
  | image (k : ImgKind) (slotB : Bool) (version : Option Nat)
  /-- Basecamp loads the verified Trailhead image into the standby processor (R211) -/
  | loadStandby
  /-- Basecamp loads the verified control-store images of the engines of a drained cluster (R269) -/
  | loadEngines (cluster : Nat)
  /-- the Spillways of a column of a drained cluster are calibrated (R269) -/
  | calibrate (col x : Nat)
  /-- the hypervisor's own service queue comes into being (log entry 30, DESIGN CHOICE) -/
  | hyperQueue (x : Queue)
deriving DecidableEq, Repr

/-- The machine. -/
structure State where
  /-- every byte of memory by location: HBM, peers, typed buffers, W buffers and images -/
  mem : Mem
  /-- poisoned sectors by location ÷ 32 (R390) -/
  poison : List Nat
  /-- waves by number, which is creation order -/
  waves : Map Wave
  /-- number of the next wave -/
  nextWave : Nat
  /-- cores; one not listed is as at island power-up -/
  cores : Map CoreSt
  /-- clusters -/
  clusters : Map ClusterSt
  /-- columns -/
  cols : Map ColSt
  /-- core groups by number -/
  groups : Map Group
  /-- number of the next core group -/
  nextGroup : Nat
  /-- launches by number -/
  launches : Map Launch
  /-- number of the next launch -/
  nextLaunch : Nat
  /-- copy queues -/
  copyQs : Map Queue
  /-- work and forwarding queues -/
  workQs : Map Queue
  /-- service queues; 32 is the hypervisor's -/
  svcQs : Map Queue
  /-- pending-kick bitmap: the queues whose bit is set (R195) -/
  kicks : List Nat
  /-- graphs by 2^16 × partition + graph id -/
  graphs : Map Graph
  /-- message filter table (R201) -/
  filter : Map Word
  /-- partition whose turn it is in the round robin, and decisions left (R202) -/
  turn : Nat
  /-- decisions left in the turn -/
  decisions : Nat
  /-- partitions being pre-empted, each with the cycle count of its lowest core when that began (R246) -/
  preempt : Map Nat
  /-- contexts that Trailhead keeps in HBM (R247, R267) -/
  stored : List Context
  /-- quantum counters by partition, in units (R209) -/
  quanta : Map Nat
  /-- active Trailhead processor (R211) -/
  active : Nat
  /-- a take-over is replaying the journal -/
  takeover : Bool
  /-- Trailhead's stores held back, during a take-over or for a peer, oldest first: location and value -/
  heldStores : List (Nat × DWord)
  /-- TRIG stores held back: partition and value -/
  heldTrigs : List (Nat × DWord)
  /-- records for event rings that lie with a peer which the ports do not reach, oldest first: owner and record (R254, R260) -/
  heldRecs : List (Nat × List Byte)
  /-- endpoints that acknowledge no request (R263) -/
  deaf : List Nat
  /-- journal, newest first (R210) -/
  journal : List JRec
  /-- zeroing in progress -/
  zeroing : List Zeroing
  /-- live layout registers -/
  live : Layout
  /-- shadow layout registers -/
  shadow : Layout
  /-- LAYGEN.GEN (R255) -/
  gen : BitVec 16
  /-- LAYGEN.SGEN -/
  sgen : BitVec 16
  /-- LAYGEN.STAG -/
  stag : BitVec 16
  /-- LAYGEN.BOOTCNT -/
  bootcnt : BitVec 14
  /-- LAYGEN.RES -/
  res : BitVec 2
  /-- a commit record has been written and its apply has not ended (R256) -/
  commitRec : Bool
  /-- FABID (R254) -/
  fabid : Word
  /-- a write of FABID that waits for idle ports (R254) -/
  fabNext : Option Word
  /-- LBCFG -/
  lbcfg : Word
  /-- inbound window table (R264) -/
  inwin : Map (BitVec 128)
  /-- leaky buckets that are not zero, with their numbers (R266) -/
  buckets : List (Bucket × Nat)
  /-- buckets whose event may not be raised again yet -/
  raised : List Bucket
  /-- cluster whose self-test drains it (R267) -/
  testing : Option Nat
  /-- next cluster in the self-test order -/
  testNext : Nat
  /-- the unused spare of each die that has one: its physical number (R19, R268) -/
  spares : Map Nat
  /-- minimum version in OTP (R261) -/
  otpMin : Nat
  /-- version of the running image; none while Basecamp stays in reset -/
  booted : Option Nat
  /-- versions of the images that verify, in slots A and B of each pair (R261) -/
  images : Images
  /-- version of the firmware loaded into each Trailhead processor (R211, R261) -/
  tpFw : Map Nat
  /-- upper-tree indices whose fuse is burnt (R262) -/
  fuses : Nat
  /-- monotonic counter of the lower tree -/
  hss : Nat
  /-- the ports carry requests -/
  portsUp : Bool
  /-- registers of the Trailhead space that firmware defines, by processor × 65,536 + number (R360) -/
  tpRegs : Map Word
  /-- event log, newest first -/
  events : List Event
  /-- what happens next; empty for the default order (log entry 3, DESIGN CHOICE) -/
  agenda : List Next
  /-- the default order's turn: a happening that is due comes next (the model's own; log entry 3, DESIGN CHOICE) -/
  evTurn : Bool
  /-- the acting gang of the instruction being run: wave and slice -/
  act : Option (Nat × Nat)
  /-- queue registrations so far, which numbers them -/
  regs : Nat
  /-- stores sent on towards peers so far, which numbers them -/
  sends : Nat
  /-- the events that agents may still read without being ordered after them (R134, R135, R163) -/
  evs : List Ev
  /-- events so far, which numbers them -/
  nextEv : Nat
  /-- release writes by location (R133) -/
  syncs : List Sync
  /-- events that happen before what Trailhead does (R205, R213) -/
  thSeen : List Nat
  /-- events that happen before what hosts and peers do, by their endpoints (R165) -/
  outSeen : Map (List Nat)
  /-- quantum atomics by location, in the order in which they were performed since the location was last written otherwise (R135) -/
  quants : List QOp
  /-- racing writes that the agenda owes: a run of the machine is one at whose end it owes none (R135; log entry 22, DEDUCED) -/
  owed : List Owed
  /-- uses of the free values so far (the model's own) -/
  freeCtr : Nat
  /-- uses of the stochastic generators and special functions so far (the model's own) -/
  drawCtr : Nat
deriving DecidableEq, Repr, Inhabited

/-- Registers all zero and full (R49, R258). -/
def Regs.init : Regs :=
  { v := Vector.replicate 64 (Vector.replicate 32 0), s := Vector.replicate 32 0, a := Vector.replicate 16 ⟨0, 0, false⟩,
    p := Vector.replicate 8 0, k := Vector.replicate 4 false, b := Vector.replicate 8 ⟨0, 0⟩, vEmpty := 0, sEmpty := 0 }

/-- MODE.X at wave start: guard p7 not negated, i32, RNE, no saturation, both policies block (R49, R62). -/
def modexInit : Word := 0x00003800

/-- MODE.M at wave start: scope `.core`, relaxed, unpaired, AOT 0 (R49, R63). -/
def modemInit : Word := 0x00000090

/-- A slice at wave start (R49). -/
def Slice.init (pc : DWord) : Slice :=
  { pc := pc, mask := 0xF, stack := [], modex := modexInit, modem := modemInit, gang := 0, sleep := 0, wait := none, mac := none }

/-- The checkpointed state of a wave whose registers are all zero, at an address, with a text base and a handler (R47, R49, R230). -/
def WaveCore.init (pc tx tvec : DWord) : WaveCore :=
  { regs := Regs.init, slices := Vector.replicate 8 (Slice.init pc), live := 0xFFFFFFFF, depth := 0, children := [], killed := 0,
    opn := 1, dne := 0, openCnt := 0, openGlob := false, pwrctl := 1, trcause := 0, trpc := 0, trmask := 0, trfalo := 0, trfahi := 0,
    tveclo := tvec.extractLsb' 0 32, tvechi := tvec.extractLsb' 32 32, hscr0 := 0, hscr1 := 0,
    txlo := tx.extractLsb' 0 32, txhi := tx.extractLsb' 32 32, trap := none, burn := 0, burnLeft := 0, region := false,
    seen := [], fences := [], heard := [], ofChildren := [], mfenceAt := 0, mfenceSeen := [] }

/-- A wave just created: its creation is its first checkpoint (R237). -/
def Wave.init (st : WaveCore) (core quad slot group : Nat) (parent : Option Nat) (valloc : Nat) : Wave :=
  { st := st, ck := st, core := core, quad := quad, slot := slot, group := group, parent := parent, valloc := valloc, inflight := [],
    nextAcc := 0, posted := [], done := [], held := [], ckRun := false, pinned := false, attempt := none, ckAcc := 0, regLog := [], memLog := [],
    bufLog := [], tileLog := [], ending := false, killedBy := false, starved := [], lantern := none, counted := false, after := none, hidden := none,
    watch := [], tp := none }

/-- A Trailhead processor's context at reset: every register zero, one slice (R70; log entry 10, DESIGN CHOICE). -/
def Wave.trailhead (n : Nat) : Wave :=
  { Wave.init { WaveCore.init 0 0 0 with live := 1 } 512 0 n 0 none 0 with tp := some n }

/-- A handle that no core group has configured (R153, R258, R324). -/
def Handle.init : Handle :=
  { sp := false, off := 0, szm1 := 0, owner := none, fills := 0, st := .free, grp := none, waiters := [], evs := [] }

/-- A barrier that nothing has initialised (R283). -/
def Barrier.init : Barrier :=
  { val := false, own := 0, exp := 0, cnt := 0, mask := 0, psn := false, arr := [], part := [], waiters := [], evs := [] }

/-- A core at island power-up (R209, R221, R238). -/
def CoreSt.init : CoreSt :=
  { tags := [], ce := [], cq := [], image := none, imgTaint := [], eng := [], baton := none, batonQ := [], handles := [], bars := [],
    macs := [], unsync := [], dcache := [], icache := [], rc := [], run := none, runCk := [], runQ := [], runBack := [], status := [], runEvs := [], cycles := 0, tevt := 0, shuntUp := 0,
    shuntDn := 0, waitBurn := 0, mirror := none, thrUp := false, thrDn := false, pendUp := false, pendDn := false, thrWake := false, thrCool := false,
    attemptDue := false, interval := 16, cistern := none, space := none }

/-- A cluster at island power-up (R221, R223, R254); no physical cluster has the number before bring-up (R19). -/
def ClusterSt.init : ClusterSt :=
  { thrcfg := 0x0064AF19, balcfg := 0x00000132, rc := [], walks := [], peers := [], lantCount := 0, lant := [], lantPeriod := 0,
    phys := none, draining := false, retired := false, islBusy := false, islCur := 2, islReq := 2, islNext := none, islCtr := 0, halted := false,
    copyFw := none, unfoldFw := none }

/-- A rail at island power-up: armed, no reading yet (R218). -/
def Rail.init : Rail := { reading := 0, armed := true, above := 0, failed := 0 }

/-- A column at package reset: gated (R228). -/
def ColSt.init : ColSt :=
  { rails := Vector.replicate 3 Rail.init, power := .gated, step := 0, wakePending := false, current := 0, stopped := false, calib := 0 }

/-- Layout registers at package reset; a register not listed is at its reset value (R251). -/
def Layout.init : Layout := { cluspart := [], connmat := [], partcfg := [], stage2 := [] }

/-- The machine right after package reset, before bring-up (R254, R255, R261, R269). -/
def State.reset : State :=
  { mem := [], poison := [], waves := [(0, Wave.trailhead 0), (1, Wave.trailhead 1)], nextWave := 2, cores := [], clusters := [],
    cols := [], groups := [], nextGroup := 1, launches := [], nextLaunch := 0, copyQs := [], workQs := [], svcQs := [], kicks := [],
    graphs := [], filter := [], turn := 0, decisions := 0, preempt := [], stored := [], quanta := [], active := 0, takeover := false, heldStores := [],
    heldTrigs := [], heldRecs := [], deaf := [], journal := [], zeroing := [], live := Layout.init, shadow := Layout.init, gen := 0, sgen := 0, stag := 0,
    bootcnt := 0, res := 0, commitRec := false, fabid := 0, fabNext := none, lbcfg := 0x00640010, inwin := [], buckets := [], raised := [],
    testing := none, testNext := 0, spares := [], otpMin := 0, booted := none, images := Images.empty, tpFw := [], fuses := 0, hss := 0, portsUp := false, tpRegs := [],
    events := [], agenda := [], evTurn := false, act := none, regs := 0, sends := 0, evs := [], nextEv := 0, syncs := [], thSeen := [], outSeen := [], quants := [], owed := [], freeCtr := 0, drawCtr := 0 }

/-- Why the model stops. -/
inductive Fault where
  /-- raised by `Sys2Proof.Machine.exec` alone, when it is given an instruction word's meaning while no gang is acting: `step` never
  does this. Safe: nothing of the manual runs into it. -/
  | noActingGang
deriving DecidableEq, Repr

/-- Why the model has no meaning for an instruction. -/
inductive Refusal where
  /-- raised by an arm of `exec` whose instruction has no meaning yet. Safe: nothing is proved about it. -/
  | notModelled (mnemonic : String)
deriving DecidableEq, Repr

end Sys2Proof.Machine
end

