-- ==== Sys2Proof/Machine/Mem.lean ====
section
/-! DEFINITION. Sparse maps, bytes of memory, and the location numbers that give every byte of the machine one name: HBM, the peers, the
typed buffers of R106, the W buffer and the W image of R154 and R155, and Trailhead's own memory. -/

namespace Sys2Proof.Machine

/-- The value at a key. -/
def Map.find? {α : Type} : Map α → Nat → Option α
  | [], _ => none
  | (k, v) :: r, n => if k = n then some v else Map.find? r n

/-- Gives a key a value, in its place in the order. -/
def Map.insert {α : Type} : Map α → Nat → α → Map α
  | [], n, x => [(n, x)]
  | (k, v) :: r, n, x =>
    if n < k then (n, x) :: (k, v) :: r else if n = k then (n, x) :: r else (k, v) :: Map.insert r n x

/-- Takes a key away. -/
def Map.erase {α : Type} (m : Map α) (n : Nat) : Map α := m.filter (fun e => e.1 ≠ n)

/-- Gives or takes away. -/
def Map.set {α : Type} (m : Map α) (n : Nat) (x : Option α) : Map α :=
  match x with
  | some v => m.insert n v
  | none => m.erase n

/-- Keys strictly rise. -/
def Map.sorted {α : Type} : Map α → Bool
  | [] => true
  | [_] => true
  | (k, _) :: (k', v') :: r => decide (k < k') && Map.sorted ((k', v') :: r)

/-- Canonical form of memory: locations strictly rise and no listed byte is zero, the value an unlisted byte has. -/
def Memory.wf (m : Mem) : Bool := Map.sorted m && m.all (fun c => c.2 ≠ 0)

/-- What a byte that nothing has written reads as (log entry 1, DESIGN CHOICE). -/
def unlistedByte : Byte := 0

/-- One byte. -/
def Mem.read (m : Mem) (l : Nat) : Byte := (Map.find? m l).getD unlistedByte

/-- The cells of consecutive bytes, in canonical form. -/
def cellsFrom (l : Nat) : List Byte → Mem
  | [] => []
  | b :: r => if b = 0 then cellsFrom (l + 1) r else (l, b) :: cellsFrom (l + 1) r

/-- Writes consecutive bytes. -/
def Mem.writeBytes (m : Mem) (l : Nat) (bs : List Byte) : Mem :=
  m.filter (fun c => c.1 < l) ++ cellsFrom l bs ++ m.filter (fun c => l + bs.length ≤ c.1)

/-- Writes one byte. -/
def Mem.write (m : Mem) (l : Nat) (b : Byte) : Mem := m.writeBytes l [b]

/-- Zeroes a range. -/
def Mem.zeroRange (m : Mem) (l n : Nat) : Mem := m.filter (fun c => c.1 < l || l + n ≤ c.1)

/-- Lays sparse bytes out: n bytes from l on, given the cells from l on. -/
def layOut : Nat → Mem → Nat → List Byte
  | 0, _, _ => []
  | n + 1, [], l => unlistedByte :: layOut n [] (l + 1)
  | n + 1, (k, b) :: r, l =>
    if k = l then b :: layOut n r (l + 1) else unlistedByte :: layOut n ((k, b) :: r) (l + 1)

/-- n consecutive bytes. -/
def Mem.bytes (m : Mem) (l n : Nat) : List Byte := layOut n (m.filter (fun c => l ≤ c.1)) l

/-- A list of bytes as a number, the first the least significant (R4). -/
def leNat : List Byte → Nat
  | [] => 0
  | b :: r => b.toNat + 256 * leNat r

/-- The n low bytes of a number, the least significant first (R4). -/
def natLe : Nat → Nat → List Byte
  | 0, _ => []
  | n + 1, x => BitVec.ofNat 8 x :: natLe n (x / 256)

/-- n bytes as a number, little-endian (R4). -/
def Mem.readN (m : Mem) (l : Nat) : Nat → Nat
  | 0 => 0
  | n + 1 => (m.read l).toNat + 256 * Mem.readN m (l + 1) n

/-- The n low bytes of a number, little-endian (R4). -/
def Mem.writeN (m : Mem) (l n x : Nat) : Mem := m.writeBytes l (natLe n x)

/-! ### Locations -/

/-- Bytes of HBM (R117): 384 GiB. -/
def hbmBytes : Nat := 384 * 2 ^ 30
/-- Location of address 0 of the peers' 52-bit space: endpoint × 2^42 + peer address (R119). -/
def peerBase : Nat := 2 ^ 60
/-- Location of the window of core 0. -/
def bufBase : Nat := 2 ^ 61
/-- Location of the C.f32 view of core 0 (R108). -/
def cf32Base : Nat := 2 ^ 61 + 2 ^ 32
/-- Location of the C.raw view of core 0 (R108). -/
def crawBase : Nat := 2 ^ 61 + 2 ^ 33
/-- Location of the memory of Trailhead processor 0 (R194). -/
def tpBase : Nat := 2 ^ 62

/-- Location of a core's S byte 0. -/
def locS (core : Nat) : Nat := bufBase + core * 2 ^ 22
/-- Location of a core's A byte 0. -/
def locA (core : Nat) : Nat := bufBase + core * 2 ^ 22 + 0x80000
/-- Location of a core's W byte 0 (R154). -/
def locW (core : Nat) : Nat := bufBase + core * 2 ^ 22 + 0x100000
/-- Location of a core's C byte 0: slot n at 6n (R156). -/
def locC (core : Nat) : Nat := bufBase + core * 2 ^ 22 + 0x180000
/-- Location of a core's W image: cells, then the scale row (R155). -/
def locImg (core : Nat) : Nat := bufBase + core * 2 ^ 22 + 0x200000
/-- Location of address 0 of a core's C.f32 view. -/
def locF32 (core : Nat) : Nat := cf32Base + core * 2 ^ 18
/-- Location of address 0 of a core's C.raw view. -/
def locRaw (core : Nat) : Nat := crawBase + core * 2 ^ 18
/-- Bytes of a core's window of typed buffers, W buffer and image. -/
def coreWindow : Nat := 2 ^ 22

/-- Sector of a location (R113). -/
abbrev sectorOf (l : Nat) : Nat := l / 32

/-- The sectors that n bytes from l on touch. -/
def sectorsOf (l n : Nat) : List Nat :=
  if n = 0 then [] else (List.range ((l + n - 1) / 32 + 1 - l / 32)).map (· + l / 32)

/-- The peers' space. -/
def isPeer (l : Nat) : Bool := decide (peerBase ≤ l ∧ l < peerBase + 2 ^ 52)

/-- HBM. -/
def isHbm (l : Nat) : Bool := decide (l < hbmBytes)

/-! ### The parts of the state by number -/

/-- A wave. -/
def State.wave? (s : State) (u : Nat) : Option Wave := Map.find? s.waves u
/-- Stores a wave. -/
def State.setWave (s : State) (u : Nat) (w : Wave) : State := { s with waves := Map.insert s.waves u w }
/-- Changes a wave, if there is one of that number. -/
def State.updWave (s : State) (u : Nat) (f : Wave → Wave) : State :=
  match s.wave? u with
  | some w => s.setWave u (f w)
  | none => s
/-- A wave of a core group: neither a Trailhead processor's context nor a hidden wave. -/
def Wave.plain (w : Wave) : Bool := w.tp.isNone && w.hidden.isNone
/-- Takes a wave away. -/
def State.dropWave (s : State) (u : Nat) : State := { s with waves := Map.erase s.waves u }
/-- A core. -/
def State.core (s : State) (c : Nat) : CoreSt := (Map.find? s.cores c).getD CoreSt.init
/-- Stores a core. -/
def State.setCore (s : State) (c : Nat) (x : CoreSt) : State := { s with cores := Map.insert s.cores c x }
/-- Changes a core. -/
def State.updCore (s : State) (c : Nat) (f : CoreSt → CoreSt) : State := s.setCore c (f (s.core c))
/-- A cluster. -/
def State.cluster (s : State) (c : Nat) : ClusterSt := (Map.find? s.clusters c).getD ClusterSt.init
/-- Stores a cluster. -/
def State.setCluster (s : State) (c : Nat) (x : ClusterSt) : State := { s with clusters := Map.insert s.clusters c x }
/-- Changes a cluster. -/
def State.updCluster (s : State) (c : Nat) (f : ClusterSt → ClusterSt) : State := s.setCluster c (f (s.cluster c))
/-- A column. -/
def State.col (s : State) (c : Nat) : ColSt := (Map.find? s.cols c).getD ColSt.init
/-- Stores a column. -/
def State.setCol (s : State) (c : Nat) (x : ColSt) : State := { s with cols := Map.insert s.cols c x }
/-- A core group. -/
def State.group? (s : State) (g : Nat) : Option Group := Map.find? s.groups g
/-- A launch. -/
def State.launch? (s : State) (l : Nat) : Option Launch := Map.find? s.launches l

/-- Column of a core (R18). -/
abbrev colOf (core : Nat) : Nat := core / 4
/-- Layer of a core (R18). -/
abbrev layerOf (core : Nat) : Nat := core % 4
/-- Package cluster of a core: 16 × die + logical cluster (R18, R140). -/
abbrev clusterOf (core : Nat) : Nat := core / 8
/-- Cores of a cluster. -/
def coresOf (cluster : Nat) : List Nat := (List.range 8).map (· + 8 * cluster)
/-- Home stack of a package cluster (R23). -/
def homeOf (cluster : Nat) : Nat := 2 * (cluster / 16) + (if cluster % 16 < 8 then 0 else 1)

/-- The partition that a cluster is assigned to (R251). -/
def State.partOf (s : State) (cluster : Nat) : Option Nat :=
  let r := (Map.find? s.live.cluspart cluster).getD 0
  if r.getLsbD 31 then some (r.extractLsb' 0 5).toNat else none

/-! ### Free values -/

/-- An undefined 32-bit value (R9). Log entry 6: DESIGN CHOICE. -/
def State.free (s : State) : Word × State := (Config.freeWord s.freeCtr, { s with freeCtr := s.freeCtr + 1 })

/-- n undefined bytes. Log entry 6: DESIGN CHOICE. -/
def State.freeBytes (s : State) (n : Nat) : List Byte × State :=
  ((List.range n).map (fun i => Config.freeByte (s.freeCtr + i)), { s with freeCtr := s.freeCtr + n })

/-- Makes n bytes undefined. -/
def State.scramble (s : State) (l n : Nat) : State :=
  { s with mem := s.mem.writeBytes l (s.freeBytes n).1, freeCtr := s.freeCtr + n }

/-! ### Bits as numbers -/

/-- The integer whose two's-complement n-bit form is the low n bits of x (R79). -/
def signExt (x : Nat) (n : Nat) : Int :=
  let y := x % 2 ^ n
  if 2 * y < 2 ^ n then (y : Int) else (y : Int) - (2 ^ n : Nat)

/-- An integer reduced modulo 2^32, as a bit pattern (R79). -/
abbrev trunc32 (x : Int) : Word := BitVec.ofInt 32 x

/-- Threads 4s to 4s + 3 of a set of threads. -/
def sliceBits (m : Lanes) (sl : Nat) : BitVec 4 := m.extractLsb' (4 * sl) 4

/-- A slice's four threads as a set of threads of the wave. -/
def ofSlice (m : BitVec 4) (sl : Nat) : Lanes := (m.zeroExtend 32) <<< (4 * sl)

/-- The threads of a set, in increasing order (R79). -/
def threadsOf (m : Lanes) : List Nat := (List.range 32).filter (fun t => m.getLsbD t)

/-- The lanes for which a condition holds. -/
def lanesWhere (f : Nat → Bool) : Lanes :=
  (List.range 32).foldl (fun m t => if f t then m ||| ((1 : Lanes) <<< t) else m) 0

end Sys2Proof.Machine
end

