-- ==== Sys2Proof/Machine/Flags.lean ====
section
/-! DEFINITION. MODE fields, predicates and guards, gangs and active sets, and the flag OV of affine registers. -/

namespace Sys2Proof.Machine

/-! ### MODE (R62 to R64) -/

/-- MODE.G. -/
abbrev modeG (mx : Word) : BitVec 5 := mx.extractLsb' 10 5
/-- MODE.T, coded as R64 gives. -/
abbrev modeT (mx : Word) : Nat := (mx.extractLsb' 6 4).toNat
/-- MODE.RM. -/
abbrev modeRM (mx : Word) : Nat := (mx.extractLsb' 3 3).toNat
/-- MODE.SAT. -/
abbrev modeSAT (mx : Word) : Bool := mx.getLsbD 2
/-- MODE.FE bit 0: the policy for source A. -/
abbrev modeFEa (mx : Word) : Bool := mx.getLsbD 0
/-- MODE.FE bit 1: the policy for every other read. -/
abbrev modeFEo (mx : Word) : Bool := mx.getLsbD 1
/-- MODE.SC. -/
abbrev modeSC (mm : Word) : Nat := (mm.extractLsb' 7 3).toNat
/-- MODE.ORD. -/
abbrev modeORD (mm : Word) : Nat := (mm.extractLsb' 4 3).toNat
/-- MODE.AU. -/
abbrev modeAU (mm : Word) : Nat := (mm.extractLsb' 1 3).toNat
/-- MODE.AOT. -/
abbrev modeAOT (mm : Word) : Bool := mm.getLsbD 0

/-- A guard of kind k with a number from 4 to 7 is reserved (R64). -/
def guardReserved (mx : Word) : Bool := (modeG mx).getLsbD 4 && (modeG mx).getLsbD 3
/-- A reserved code in MODE.M: SC and AU have five codes, ORD six (R64). -/
def modemReserved (mm : Word) : Bool := decide (modeSC mm > 4) || decide (modeORD mm > 5) || decide (modeAU mm > 4)

/-- A field of a word replaced by the low bits of another, kept when not enabled (R67). -/
def putField (x : Word) (lo len : Nat) (en : Bool) (y : Nat) : Word :=
  if en then (x &&& ~~~((BitVec.ofNat 32 (2 ^ len - 1)) <<< lo)) ||| ((BitVec.ofNat 32 (y % 2 ^ len)) <<< lo) else x

/-! ### Slices, gangs, active sets (R28 to R33) -/

/-- A slice of a wave. -/
def WaveCore.slice (w : WaveCore) (i : Nat) : Slice := w.slices.getD i (Slice.init 0)
/-- Stores a slice. -/
def WaveCore.setSlice (w : WaveCore) (i : Nat) (x : Slice) : WaveCore := { w with slices := w.slices.setIfInBounds i x }
/-- Live threads of a slice. -/
def WaveCore.liveBits (w : WaveCore) (i : Nat) : BitVec 4 := sliceBits w.live i
/-- A slice with no live thread (R29). -/
def WaveCore.finished (w : WaveCore) (i : Nat) : Bool := decide (w.liveBits i = 0)
/-- The unfinished slices. -/
def WaveCore.unfinished (w : WaveCore) : List Nat := (List.range 8).filter (fun i => !w.finished i)
/-- The members of a slice's gang: the unfinished slices that name the same lowest slice (R33). -/
def WaveCore.gangOf (w : WaveCore) (sl : Nat) : List Nat :=
  (List.range 8).filter (fun i => !w.finished i && decide ((w.slice i).gang = (w.slice sl).gang))
/-- Changes every slice of a list. -/
def WaveCore.updSlices (w : WaveCore) (is : List Nat) (f : Nat → Slice → Slice) : WaveCore :=
  { w with slices := Vector.ofFn (fun i => if is.contains i.val then f i.val w.slices[i] else w.slices[i]) }

/-- The in-wave handler of the wave runs (R232). -/
def WaveCore.inHandler (w : WaveCore) : Bool :=
  match w.trap with
  | some t => t.handler && t.running
  | none => false
/-- The slices against which membership is judged: the handler gang's while a handler runs, else the wave's (R232). -/
def WaveCore.scopeSlices (w : WaveCore) : List Nat :=
  match w.trap with
  | some t => if t.handler && t.running then (t.saved.map (·.sl)).filter (fun i => !w.finished i) else w.unfinished
  | none => w.unfinished
/-- The live threads of a list of slices. -/
def WaveCore.liveOf (w : WaveCore) (is : List Nat) : Lanes := is.foldl (fun m i => m ||| ofSlice (w.liveBits i) i) 0
/-- The live set that membership is judged against: `LiveThreads(w)`. -/
def WaveCore.liveSet (w : WaveCore) : Lanes := w.liveOf w.scopeSlices
/-- The active set of an instruction that a gang issues (R30): `ActiveThreads(w)`. -/
def WaveCore.active (w : WaveCore) (sl : Nat) : Lanes :=
  (w.gangOf sl).foldl (fun m i => m ||| ofSlice ((w.slice i).mask &&& w.liveBits i) i) 0
/-- Ganged: the live slices form one gang (R33). -/
def WaveCore.ganged (w : WaveCore) (sl : Nat) : Bool := decide (w.scopeSlices = w.gangOf sl)
/-- Full live membership (R42). -/
def WaveCore.fullMember (w : WaveCore) (sl : Nat) : Bool := w.ganged sl && decide (w.active sl = w.liveSet)
/-- The privileged view: inside a handler (R257). -/
abbrev WaveCore.privileged (w : WaveCore) : Bool := w.inHandler

/-! ### Predicates and guards (R39, R41, R79) -/

/-- pn as a set of threads; p7 reads as true. -/
def Regs.pred (r : Regs) (n : Nat) : Lanes := if n = 7 then BitVec.allOnes 32 else r.p.getD n 0
/-- kn; k3 reads as true. -/
def Regs.kpred (r : Regs) (n : Nat) : Bool := if n = 3 then true else r.k.getD n false
/-- Writes pn; a write to p7 is ignored. -/
def Regs.setPred (r : Regs) (n : Nat) (x : Lanes) : Regs := if n = 7 then r else { r with p := r.p.setIfInBounds n x }
/-- Writes kn; a write to k3 is ignored. -/
def Regs.setK (r : Regs) (n : Nat) (x : Bool) : Regs := if n = 3 then r else { r with k := r.k.setIfInBounds n x }

/-- The threads for which a condition holds: kind, number, negate; a k condition has one value in every thread. -/
def condMask (r : Regs) (isK : Bool) (n : Nat) (neg : Bool) : Lanes :=
  let m := if isK then (if r.kpred n then BitVec.allOnes 32 else 0) else r.pred n
  if neg then ~~~m else m
/-- `Cond(t)` of a format C word (R54). -/
def condOf (c : Cond) (r : Regs) : Lanes := condMask r c.isK c.n.val c.neg
/-- `Guard(t)` of MODE.G. -/
def guardMask (r : Regs) (mx : Word) : Lanes :=
  condMask r ((modeG mx).getLsbD 4) ((modeG mx).extractLsb' 1 3).toNat ((modeG mx).getLsbD 0)
/-- MODE.G names a p predicate other than p7 not negated (R41). -/
def guardIsP (mx : Word) : Bool := !(modeG mx).getLsbD 4 && decide (modeG mx ≠ 0b01110)
/-- The guard of an instruction that obeys only a k guard. -/
def guardK (r : Regs) (mx : Word) : Bool := decide (guardMask r mx ≠ 0)

/-! ### Affine values and OV (R39, R43) -/

/-- The value of a lane: (base + lane × stride) mod 2^32. -/
def Aff.lane (a : Aff) (t : Nat) : Word := a.base + BitVec.ofNat 32 t * a.stride
/-- An affine value from base and stride by an operation whose exact result for lane l is `exact l`: OV is set when a source has it, or
when some lane's exact signed result differs from the 32-bit value that the register gives that lane. -/
def affResult (base stride : Word) (srcOv : Bool) (exact : Nat → Int) : Aff :=
  { base := base, stride := stride,
    ov := srcOv || (List.range 32).any (fun l => decide (exact l ≠ ((base + BitVec.ofNat 32 l * stride).toInt))) }

end Sys2Proof.Machine
end

