-- ==== Sys2Proof/WellFormed.lean ====
section
/-! DEFINITION. Which terms of `Instr` are words of the instruction set: the conditions that the word alone decides and whose breach
raises UDI (R53 to R60, R64, R71). A term that `Instr.wf` refuses is no word; a meaning that meets one raises UDI. -/

namespace Sys2Proof

/-- A specifier that R60 allows as a destination. -/
def Operand.isDest : Operand → Bool
  | .v _ | .s _ | .a _ | .p _ | .k _ => true
  | .zero | .lane | .par1 | .par2 | .imm _ => false

/-- A specifier that may stand in a source field outside a macro body: any but the two parameters (R60, R77). -/
def Operand.isSource : Operand → Bool
  | .par1 | .par2 => false
  | .v _ | .s _ | .a _ | .p _ | .k _ | .zero | .lane | .imm _ => true

/-- An immediate must lie below n; a register passes, its class being checked at issue (R313, R372). -/
def Operand.immIn (o : Operand) (n : Nat) : Bool :=
  match o with
  | .imm x => decide (x.toNat < n)
  | .v _ | .s _ | .a _ | .p _ | .k _ | .zero | .lane | .par1 | .par2 => true

/-- The destination of a compare names the lower register of a predicate pair: p0, p2, p4, p6, k0 or k2 (R307). -/
def Operand.isPairBase (o : Operand) : Bool :=
  match o with
  | .p n => decide (n.val % 2 = 0)
  | .k n => decide (n.val % 2 = 0)
  | .v _ | .s _ | .a _ | .zero | .lane | .par1 | .par2 | .imm _ => true

/-- The number of 32-bit registers that a size code moves (R55). -/
def sizeRegs (sz : BitVec 3) : Nat :=
  if sz = 4#3 then 4 else if sz = 3#3 then 2 else 1

/-- The register of a d access is even and that of a q access a multiple of 4 (R55, R330, R333). -/
def Operand.aligned (o : Operand) (sz : BitVec 3) : Bool :=
  match o with
  | .v n => decide (n.val % sizeRegs sz = 0)
  | .s n => decide (n.val % sizeRegs sz = 0)
  | .a _ | .p _ | .k _ | .zero | .lane | .par1 | .par2 | .imm _ => true

/-- Size codes 5 to 7 are reserved, and sign extension belongs to b and h (R55). -/
def sizeOk (sz : BitVec 3) (sx : Bool) : Bool :=
  decide (sz.toNat < 5) && (!sx || decide (sz.toNat < 2))

/-- The conditions on a term that the word alone decides. A happening of the table has no word and none. -/
def Instr.wf : Instr → Bool
  | .nop => true
  | .br _ => true
  | .bru n _ _ => decide (n.val < 4)
  | .brv c _ => !c.isK || decide (c.n.val < 4)
  | .cnv => true
  | .call _ => true
  | .callr a => a.isSource
  | .ret => true
  | .exit => true
  | .waveEnd _ => true
  | .regang _ => true
  | .trap _ => true
  | .mcall m p1 p2 => decide (m.toNat < 64) && p1.isSource && p2.isSource
  | .sleep _ => true
  | .sleepExpiry _ _ => true
  | .modex _ _ _ _ _ _ => true
  | .modem _ _ _ _ _ => true
  | .mov d a => d.isDest && a.isSource
  | .movi d _ => d.isDest
  | .movh d _ => d.isDest
  | .sel d a b => d.isDest && a.isSource && b.isSource
  | .promo d a => d.isDest && a.isSource
  | .mkaff d a b => d.isDest && a.isSource && b.isSource
  | .setb _ sp lo hi => decide (sp.val < 5) && lo.isSource && hi.isSource
  | .rdsr d _ => d.isDest
  | .wrsr d _ => d.isSource
  | .thrcfgWrite _ _ => true
  | .colstatWrite _ _ => true
  | .add d a b => d.isDest && a.isSource && b.isSource
  | .sub d a b => d.isDest && a.isSource && b.isSource
  | .mul d a b => d.isDest && a.isSource && b.isSource
  | .mulh d a b => d.isDest && a.isSource && b.isSource
  | .mad d a b => d.isDest && a.isSource && b.isSource
  | .neg d a => d.isDest && a.isSource
  | .abs d a => d.isDest && a.isSource
  | .min d a b => d.isDest && a.isSource && b.isSource
  | .max d a b => d.isDest && a.isSource && b.isSource
  | .clz d a => d.isDest && a.isSource
  | .popc d a => d.isDest && a.isSource
  | .brev d a => d.isDest && a.isSource
  | .and d a b => d.isDest && a.isSource && b.isSource
  | .or d a b => d.isDest && a.isSource && b.isSource
  | .xor d a b => d.isDest && a.isSource && b.isSource
  | .not d a => d.isDest && a.isSource
  | .shl d a b => d.isDest && a.isSource && b.isSource
  | .shr d a b => d.isDest && a.isSource && b.isSource
  | .sar d a b => d.isDest && a.isSource && b.isSource
  | .rot d a b => d.isDest && a.isSource && b.isSource
  | .bfx d a b => d.isDest && a.isSource && b.isSource
  | .bfi d a b => d.isDest && a.isSource && b.isSource
  | .fadd d a b => d.isDest && a.isSource && b.isSource
  | .fsub d a b => d.isDest && a.isSource && b.isSource
  | .fmul d a b => d.isDest && a.isSource && b.isSource
  | .fma d a b => d.isDest && a.isSource && b.isSource
  | .fmin d a b => d.isDest && a.isSource && b.isSource
  | .fmax d a b => d.isDest && a.isSource && b.isSource
  | .fabs d a => d.isDest && a.isSource
  | .fneg d a => d.isDest && a.isSource
  | .cmpEq d a b => d.isDest && d.isPairBase && a.isSource && b.isSource
  | .cmpNe d a b => d.isDest && d.isPairBase && a.isSource && b.isSource
  | .cmpLt d a b => d.isDest && d.isPairBase && a.isSource && b.isSource
  | .cmpLe d a b => d.isDest && d.isPairBase && a.isSource && b.isSource
  | .cmpGt d a b => d.isDest && d.isPairBase && a.isSource && b.isSource
  | .cmpGe d a b => d.isDest && d.isPairBase && a.isSource && b.isSource
  | .fcmpEq d a b => d.isDest && d.isPairBase && a.isSource && b.isSource
  | .fcmpNe d a b => d.isDest && d.isPairBase && a.isSource && b.isSource
  | .fcmpLt d a b => d.isDest && d.isPairBase && a.isSource && b.isSource
  | .fcmpLe d a b => d.isDest && d.isPairBase && a.isSource && b.isSource
  | .fcmpGt d a b => d.isDest && d.isPairBase && a.isSource && b.isSource
  | .fcmpGe d a b => d.isDest && d.isPairBase && a.isSource && b.isSource
  | .fcmpUn d a b => d.isDest && d.isPairBase && a.isSource && b.isSource
  | .cvt d a b => d.isDest && a.isSource && b.isSource && b.immIn 13
  | .cvt8 d a b => d.isDest && a.isSource && b.isSource
  | .bsc d a => d.isDest && a.isSource
  | .bsq d a b => d.isDest && a.isSource && b.isSource
  | .exp2 d a => d.isDest && a.isSource
  | .log2 d a => d.isDest && a.isSource
  | .rcp d a => d.isDest && a.isSource
  | .rsq d a => d.isDest && a.isSource
  | .sqrt d a => d.isDest && a.isSource
  | .sin d a => d.isDest && a.isSource
  | .cos d a => d.isDest && a.isSource
  | .tanh d a => d.isDest && a.isSource
  | .sigm d a => d.isDest && a.isSource
  | .shflIdx d a b => d.isDest && a.isSource && b.isSource
  | .shflUp d a b => d.isDest && a.isSource && b.isSource
  | .shflDn d a b => d.isDest && a.isSource && b.isSource
  | .shflXor d a b => d.isDest && a.isSource && b.isSource
  | .voteAny d a => d.isDest && a.isSource
  | .voteAll d a => d.isDest && a.isSource
  | .voteBal d a => d.isDest && a.isSource
  | .redAdd d a => d.isDest && a.isSource
  | .redMin d a => d.isDest && a.isSource
  | .redMax d a => d.isDest && a.isSource
  | .scan d a b => d.isDest && a.isSource && b.isSource && b.immIn 3
  | .scanx d a b => d.isDest && a.isSource && b.isSource && b.immIn 3
  | .matchKey d a => d.isDest && a.isSource
  | .rdlane d a b => d.isDest && a.isSource && b.isSource
  | .wrlane d a b => d.isDest && a.isSource && b.isSource
  | .ld d o _ sz sx _ => d.isDest && o.isSource && sizeOk sz sx && d.aligned sz
  | .st d o _ sz _ => d.isSource && o.isSource && sizeOk sz false && d.aligned sz
  | .ldu d o _ sz sx _ => d.isDest && o.isSource && sizeOk sz sx && d.aligned sz
  | .stu d o _ sz sx _ => d.isSource && o.isSource && sizeOk sz sx && !sx && d.aligned sz
  | .pf o _ sz _ => o.isSource && sizeOk sz false
  | .sectorReturn _ _ _ => true
  | .lda d o _ => d.isDest && o.isSource
  | .sta d o _ => d.isSource && o.isSource
  | .atomAdd d o _ _ => d.isDest && o.isSource
  | .atomMin d o _ _ => d.isDest && o.isSource
  | .atomMax d o _ _ => d.isDest && o.isSource
  | .atomAnd d o _ _ => d.isDest && o.isSource
  | .atomOr d o _ _ => d.isDest && o.isSource
  | .atomXor d o _ _ => d.isDest && o.isSource
  | .atomXchg d o _ _ => d.isDest && o.isSource
  | .atomCas d o _ r => d.isDest && o.isSource && decide (r.val % 2 = 0)
  | .atomFadd d o _ _ => d.isDest && o.isSource
  | .atomInc d o _ _ => d.isDest && o.isSource
  | .cqPost _ q f => q.isSource && decide (f.val ≤ 16)
  | .batClose d => d.isDest
  | .waitBat a => a.isSource
  | .hbFill a => a.isSource
  | .hbAcq a => a.isSource
  | .hbRel a => a.isSource
  | .hbState d a => d.isDest && a.isSource
  | .hbCfg a b => a.isSource && b.isSource
  | .mmaBi8 _ _ _ _ s rows _ => decide (s.val < 2) && decide (rows.val < 3)
  | .mmaBi4 _ _ _ _ s rows _ => decide (s.val < 2) && decide (rows.val < 3)
  | .mmaI8w _ _ _ _ s rows _ => decide (s.val < 2) && decide (rows.val < 3)
  | .mwait => true
  | .mzero a => a.isSource
  | .mnorm d a => d.isDest && a.isSource
  | .mwsel a => a.isSource
  | .mfence => true
  | .btonTake => true
  | .btonPass => true
  | .bankLoadStart _ => true
  | .bankLoadComplete _ => true
  | .mmaWordStart _ _ => true
  | .mmaWordComplete _ => true
  | .mzeroComplete _ => true
  | .mnormComplete _ => true
  | .recRun a b => a.isSource && b.isSource
  | .recChild d => d.isDest
  | .recRet a => a.isSource
  | .recWait d => d.isDest
  | .routineCall _ _ => true
  | .spawn d a b => d.isDest && a.isSource && b.isSource
  | .cjoin d => d.isDest
  | .barInit _ m => m.isSource
  | .barArrive _ m => m.isSource
  | .barWait _ m => m.isSource
  | .barSync _ m => m.isSource
  | .barInval _ m => m.isSource
  | .fenceAll sc => decide (sc.val < 5)
  | .fenceLoads sc => decide (sc.val < 5)
  | .fenceStores sc => decide (sc.val < 5)
  | .fenceEngines sc => decide (sc.val < 5)
  | .rgn => true
  | .rgnI => true
  | .rgnE => true
  | .ckpt => true
  | .balBurn a b => a.isSource && b.isSource
  | .balShunt d a => d.isDest && a.isSource
  | .balStop => true
  | .burnExpiry _ => true
  | .eret => true
  | .hv _ => true
  | .mcsWr a b => a.isSource && b.isSource
  | .iinv => true
  | .tlbinv a => a.isSource
  | .starvationPriority _ _ => true
  | .headerLineChange _ => true
  | .copy _ => true
  | .fill _ => true
  | .reduceCopy _ => true
  | .copySignal _ => true
  | .copyVoid _ => true
  | .packetComplete _ _ => true
  | .fillComplete _ _ => true
  | .workQueueRead _ => true
  | .launch _ => true
  | .workSignal _ => true
  | .gload _ => true
  | .workVoid _ => true
  | .forwardingQueuePacket _ => true
  | .placementDecision => true
  | .coresidentReservation _ => true
  | .launchComplete _ => true
  | .trig _ _ => true
  | .graphRunStart _ _ => true
  | .graphNodeStart _ _ _ => true
  | .graphRunEnd _ _ => true
  | .qreg _ => true
  | .qset _ => true
  | .peek _ => true
  | .resolve _ => true
  | .kill _ => true
  | .zero _ => true
  | .zeroComplete _ => true
  | .timeQuantumExpiry _ => true
  | .cisternSwap _ => true
  | .pinnedTimeout _ => true
  | .takeOver => true
  | .checkpointAttempt _ => true
  | .checkpointAttemptTimeout _ => true
  | .pinnedCheckpoint _ => true
  | .uceConsumed _ => true
  | .correctedError _ => true
  | .leak => true
  | .auditReplay _ _ _ _ => true
  | .railReading _ _ _ => true
  | .throttle _ _ => true
  | .columnRestart _ => true
  | .phaseFailure _ _ => true
  | .columnGate _ => true
  | .inrushGrant _ => true
  | .wakeStepWait _ => true
  | .islpt _ _ => true
  | .islptChangeDone _ => true
  | .laystg _ => true
  | .laycmt _ => true
  | .basecampRestart => true
  | .fabid _ => true
  | .registerWrite _ _ _ => true
  | .selfTestDrain => true
  | .selfTestPreempt => true
  | .scanSelfTestDone _ => true
  | .spareReplacement _ => true
  | .attestationReport _ => true
  | .otpMinimumVersionRaise _ => true
  | .packageReset _ _ _ => true
  | .islandPowerUp _ => true
  | .inboundRequest _ => true
  | .unreachable _ _ => true
  | .unassignedOpcode _ => true
  | .fetchFault => true
  | .storePerformed _ _ => true
  | .rangeWalkComplete _ _ => true
  | .wakeStepEnd _ => true
  | .coolingShortfall _ _ => true

end Sys2Proof
end

