-- ==== Sys2Proof/Machine/Operands.lean ====
section
/-! DEFINITION. Operands: their classes (R39, R40), their values (R79), reads under the full/empty policy and writes (R44), and the
checks that every instruction shares, in the order of R71. -/

namespace Sys2Proof.Machine

/-- Why an issuing instruction does not take effect: it raises a trap, with the threads meeting the cause, the fault address and the
stage-2 mark; or it waits and issues again later. -/
inductive Stop where
  /-- raises a trap -/
  | trap (c : Cause) (mask : Lanes) (fa : DWord) (s2 : Bool)
  /-- waits -/
  | wait (w : Wait)
deriving DecidableEq, Repr

/-- A computation that may stop the instruction. -/
abbrev Chk (α : Type) := Except Stop α

/-- An issuing instruction's surroundings: the machine, the wave, and the leading slice of the issuing gang. -/
structure Ctx where
  /-- the machine -/
  s : State
  /-- number of the wave -/
  u : Nat
  /-- the wave -/
  w : Wave
  /-- a slice of the issuing gang -/
  sl : Nat

/-- The wave's registers. -/
abbrev Ctx.r (c : Ctx) : Regs := c.w.st.regs
/-- MODE.X of the issuing slice. Log entry 17: DESIGN CHOICE. -/
abbrev Ctx.mx (c : Ctx) : Word := (c.w.st.slice c.sl).modex
/-- MODE.M of the issuing slice. -/
abbrev Ctx.mm (c : Ctx) : Word := (c.w.st.slice c.sl).modem
/-- `ActiveThreads(w)`. -/
abbrev Ctx.act (c : Ctx) : Lanes := c.w.st.active c.sl
/-- `LiveThreads(w)`. -/
abbrev Ctx.live (c : Ctx) : Lanes := c.w.st.liveSet
/-- The active threads whose guard is true. -/
abbrev Ctx.hit (c : Ctx) : Lanes := c.act &&& guardMask c.r c.mx
/-- The guard of a uniform instruction. -/
abbrev Ctx.kOn (c : Ctx) : Bool := guardK c.r c.mx
/-- The core. -/
abbrev Ctx.core (c : Ctx) : CoreSt := c.s.core c.w.core

/-- Raises a trap that every active thread meets, with fault address 0. -/
def Ctx.raise {α : Type} (c : Ctx) (x : Cause) : Chk α := .error (.trap x c.act 0 false)
/-- Raises a trap with a fault address. -/
def Ctx.raiseAt {α : Type} (c : Ctx) (x : Cause) (fa : DWord) : Chk α := .error (.trap x c.act fa false)
/-- Raises a trap when a condition fails. -/
def Ctx.need (c : Ctx) (ok : Bool) (x : Cause) : Chk Unit := if ok then .ok () else c.raise x
/-- Waits when a condition fails. -/
def Ctx.until (_c : Ctx) (ok : Bool) : Chk Unit := if ok then .ok () else .error (.wait .stall)

/-! ### Classes and values -/

/-- The classes of R39 as operands meet them. -/
inductive Cls where
  | vary | uni | aff | vpred | upred
deriving DecidableEq, Repr

/-- The class of an operand: `zero` and immediates are uniform, `lane` is affine (R39). A parameter left over outside a macro body has
raised UDI before its class is asked for. -/
def clsOf : Operand → Cls
  | .v _ => .vary
  | .s _ => .uni
  | .a _ => .aff
  | .p _ => .vpred
  | .k _ => .upred
  | .zero => .uni
  | .lane => .aff
  | .par1 => .uni
  | .par2 => .uni
  | .imm _ => .uni

/-- A uniform source: an s register, an immediate or `zero`. -/
abbrev isUni (o : Operand) : Bool := decide (clsOf o = .uni)
/-- A varying or uniform source. -/
abbrev isVaryUni (o : Operand) : Bool := decide (clsOf o = .vary ∨ clsOf o = .uni)
/-- An s register. -/
def isS : Operand → Bool
  | .s _ => true
  | .v _ | .a _ | .p _ | .k _ | .zero | .lane | .par1 | .par2 | .imm _ => false

/-- The value of an immediate (R60). -/
def immWord (x : BitVec 7) : Word := x.signExtend 32

/-- `Src(f, t)` (R79): the operand's value for thread t. A predicate gives its bit. -/
def Regs.src (r : Regs) (o : Operand) (t : Nat) : Word :=
  match o with
  | .v n => (r.v.getD n.val (Vector.replicate 32 0)).getD t 0
  | .s n => r.s.getD n.val 0
  | .a n => (r.a.getD n.val ⟨0, 0, false⟩).lane t
  | .p n => if (r.pred n.val).getLsbD t then 1 else 0
  | .k n => if r.kpred n.val then 1 else 0
  | .zero | .par1 | .par2 => 0
  | .lane => BitVec.ofNat 32 t
  | .imm x => immWord x

/-- The value of a uniform operand. -/
abbrev Regs.uni (r : Regs) (o : Operand) : Word := r.src o 0

/-- An operand as an affine value: a uniform one has stride 0 (R273). -/
def Regs.aff (r : Regs) (o : Operand) : Aff :=
  match o with
  | .a n => r.a.getD n.val ⟨0, 0, false⟩
  | .lane => ⟨0, 1, false⟩
  | .v _ | .s _ | .p _ | .k _ | .zero | .par1 | .par2 | .imm _ => ⟨r.uni o, 0, false⟩

/-- The register behind an operand that full/empty bits guard. -/
def dstOf : Operand → Option Dst
  | .v n => some (.v n.val)
  | .s n => some (.s n.val)
  | .a _ | .p _ | .k _ | .zero | .lane | .par1 | .par2 | .imm _ => none

/-- The register is empty (R44). -/
def Regs.empty (r : Regs) : Dst → Bool
  | .v n => r.vEmpty.getLsbD n
  | .s n => r.sEmpty.getLsbD n
/-- No register is empty. -/
def Regs.allFull (r : Regs) : Bool := decide (r.vEmpty = 0) && decide (r.sEmpty = 0)
/-- Marks a register empty or full. -/
def Regs.mark (r : Regs) (d : Dst) (e : Bool) : Regs :=
  match d with
  | .v n => { r with vEmpty := if e then r.vEmpty ||| (1#64 <<< n) else r.vEmpty &&& ~~~(1#64 <<< n) }
  | .s n => { r with sEmpty := if e then r.sEmpty ||| (1#32 <<< n) else r.sEmpty &&& ~~~(1#32 <<< n) }
/-- The k registers from a register on. -/
def Dst.span (d : Dst) (k : Nat) : List Dst :=
  match d with
  | .v n => (List.range k).map (fun i => .v (n + i))
  | .s n => (List.range k).map (fun i => .s (n + i))

/-! ### Checks in the order of R71 -/

/-- The word is well formed (R53); on a Trailhead processor it belongs to the uniform subset and its operands are uniform registers, k
predicates, immediates or `zero` (R70, R270); p7, a varying predicate, is none of these and raises UDI there. Log entry 10: DESIGN CHOICE. -/
def Ctx.start (c : Ctx) (i : Instr) (uniform : Bool) (ops : List Operand) : Chk Unit :=
  c.need (i.wf && (c.w.tp.isNone || (uniform && ops.all (fun o => clsOf o = .uni || clsOf o = .upred)))) .udi

/-- Every v register named lies within the allocation (R61). -/
def Ctx.alloc (c : Ctx) (ops : List Operand) : Chk Unit :=
  c.need (ops.all (fun o => match o with
    | .v n => decide (n.val < c.w.valloc)
    | .s _ | .a _ | .p _ | .k _ | .zero | .lane | .par1 | .par2 | .imm _ => true)) .opc

/-- MODE.G, consulted, must not be reserved (R64). -/
def Ctx.guardOk (c : Ctx) : Chk Unit := c.need (!guardReserved c.mx) .udi
/-- A uniform or affine instruction raises OPC under a p guard (R41). -/
def Ctx.noPGuard (c : Ctx) : Chk Unit := c.need (!guardIsP c.mx) .opc
/-- A write of a uniform or affine register needs the whole live set (R42). -/
def Ctx.uwp (c : Ctx) : Chk Unit := c.need (decide (c.act = c.live)) .uwp
/-- Full live membership, or MBF (R42). -/
def Ctx.full (c : Ctx) : Chk Unit := c.need (c.w.st.fullMember c.sl) .mbf
/-- An instruction on shared core or engine state raises MBF in a handler whose gang does not hold every live slice (R232). -/
def Ctx.shared (c : Ctx) : Chk Unit :=
  c.need (!c.w.st.inHandler || decide (c.w.st.scopeSlices = c.w.st.unfinished)) .mbf

/-- Reads registers under MODE.FE: with each operand, whether it stands in field A (R44). FET comes before blocking (log entry 12, DEDUCED). -/
def Ctx.reads (c : Ctx) (ops : List (Operand × Bool)) : Chk Unit :=
  let emp := ops.filter (fun p => match dstOf p.1 with
    | some d => c.r.empty d
    | none => false)
  if emp.any (fun p => if p.2 then modeFEa c.mx else modeFEo c.mx) then c.raise .fet
  else c.until emp.isEmpty

/-- Operands of an instruction that consults no MODE field: it waits for their registers, whatever MODE.FE says (R65, R224, R283, R343; log
entry 40, DEDUCED). -/
def Ctx.readsFull (c : Ctx) (ops : List Operand) : Chk Unit :=
  c.until (ops.all (fun o => match dstOf o with
    | some d => !c.r.empty d
    | none => true))

/-- A writer of an empty register waits until it is full (R44). -/
def Ctx.free (c : Ctx) (ds : List Dst) : Chk Unit := c.until (ds.all (fun d => !c.r.empty d))

/-! ### Writes -/

/-- Logs the first write of a register after the checkpoint; a pinned wave logs nothing (R240, R241). -/
def Wave.logReg (w : Wave) (x : RegId) : Wave :=
  if w.pinned || w.regLog.contains x then w else { w with regLog := x :: w.regLog }

/-- A write of vn in some threads meets the scale registers of the wave's queued words (R163). -/
def Wave.watchV (w : Wave) (n : Nat) (m : Lanes) : Wave :=
  { w with watch := w.watch.map (fun x => if x.v = n ∧ m ≠ 0 then { x with hit := true } else x) }

/-- Replaces the registers. -/
def Wave.setRegs (w : Wave) (r : Regs) : Wave := { w with st := { w.st with regs := r } }

/-- Writes vn in the threads of a mask. -/
def Regs.setV (r : Regs) (n : Nat) (m : Lanes) (f : Nat → Word) : Regs :=
  let old := r.v.getD n (Vector.replicate 32 0)
  { r with v := r.v.setIfInBounds n (Vector.ofFn (fun t => if m.getLsbD t.val then f t.val else old.getD t.val 0)) }

/-- Writes vn in the threads of a mask. -/
def Wave.putV (w : Wave) (n : Nat) (m : Lanes) (f : Nat → Word) : Wave :=
  ((w.logReg (.v n)).watchV n m).setRegs (w.st.regs.setV n m f)
/-- Writes sn. -/
def Wave.putS (w : Wave) (n : Nat) (x : Word) : Wave :=
  (w.logReg (.s n)).setRegs { w.st.regs with s := w.st.regs.s.setIfInBounds n x }
/-- Writes an. -/
def Wave.putA (w : Wave) (n : Nat) (x : Aff) : Wave :=
  (w.logReg (.a n)).setRegs { w.st.regs with a := w.st.regs.a.setIfInBounds n x }
/-- Writes bn. -/
def Wave.putB (w : Wave) (n : Nat) (x : BReg) : Wave :=
  (w.logReg (.b n)).setRegs { w.st.regs with b := w.st.regs.b.setIfInBounds n x }
/-- Writes pn in the threads of a mask; a write to p7 is ignored. -/
def Wave.putP (w : Wave) (n : Nat) (m x : Lanes) : Wave :=
  if n = 7 then w else (w.logReg (.p n)).setRegs (w.st.regs.setPred n ((w.st.regs.pred n &&& ~~~m) ||| (x &&& m)))
/-- Writes kn; a write to k3 is ignored. -/
def Wave.putK (w : Wave) (n : Nat) (x : Bool) : Wave :=
  if n = 3 then w else (w.logReg (.k n)).setRegs (w.st.regs.setK n x)

end Sys2Proof.Machine
end

