-- ==== Sys2Proof/Machine/Ops.lean ====
section
/-! DEFINITION. The operations that instructions share: moving past an instruction, blocking, taking an exception (R230 to R235), the
return from one (R234), event rings (R260), and the frame in which every meaning runs. -/

namespace Sys2Proof.Machine

/-! ### Moving on -/

/-- At operation i of a control-store sequence; after operation 31 the sequence is over, and the slice is past its `mcall` (R339). -/
def Slice.atOp (x : Slice) (m : MacPos) (i : Nat) : Slice :=
  if i < 32 then { x with mac := some { m with i := i }, wait := none } else { x with pc := x.pc + 4, mac := none, wait := none }

/-- Past the instruction: to the next operation inside a control-store sequence (R339), else to PC + 4. -/
def Slice.advance (x : Slice) : Slice :=
  match x.mac with
  | some m => x.atOp m (m.i + 1)
  | none => { x with pc := x.pc + 4, wait := none }

/-- The slices of a gang move past their instruction. -/
def WaveCore.advance (w : WaveCore) (is : List Nat) : WaveCore := w.updSlices is (fun _ x => x.advance)

/-- The wave with the members of a slice's gang moved past their instruction. -/
def Wave.advance (w : Wave) (sl : Nat) : Wave := { w with st := w.st.advance (w.st.gangOf sl) }

/-- A slice's gang waits. -/
def WaveCore.setWait (w : WaveCore) (sl : Nat) (x : Option Wait) : WaveCore :=
  w.updSlices (w.gangOf sl) (fun _ y => { y with wait := x })

/-- A gang waits and will issue its instruction again, or is released by the event it waits for. Log entry 59: DEDUCED. -/
def State.block (s : State) (u sl : Nat) (x : Wait) : State :=
  s.updWave u (fun w => { w with st := w.st.setWait sl (some x) })

/-- A slice of a trapped gang waits for something behind its trap, where its handler may wait for another thing. -/
def WaveCore.waitsBehind (w : WaveCore) (sl : Nat) (x : Wait) : Bool :=
  match w.trap with
  | some t => t.saved.any (fun y => decide (y.sl = sl) && decide (y.wait = some x))
  | none => false

/-- The wait behind a trap is over; `past` when its instruction is complete, else it issues again after the trap. -/
def WaveCore.endBehind (w : WaveCore) (past : Bool) : WaveCore :=
  { w with trap := w.trap.map (fun t => { t with saved := t.saved.map (fun y => if y.wait.isSome then { y with wait := none, past := past } else y) }) }

/-- A gang that another agent's action releases from a wait completes its instruction: it moves past it, after the trap that it has meanwhile
taken when the wait stands behind that. -/
def State.release (s : State) (u sl : Nat) (x : Wait) : State :=
  s.updWave u (fun w => if w.st.waitsBehind sl x then { w with st := w.st.endBehind true } else w.advance sl)

/-- An atomic of the use non-ordering (R135). -/
def Access.nonOrdering (a : Access) : Bool :=
  match a.op with
  | .atomic _ _ use => decide (use = 2)
  | .load _ _ | .store _ => false

/-- A release or a fence at a scope leaves an access in flight behind: one that happens before no access of its threads (R126), a non-ordering atomic, which passes both (R135), or a
store that has set out for a peer, whose acknowledgement only a release at `.fab` waits for (R167). -/
def Access.leftBehind (a : Access) (act : Lanes) (sc : Nat) : Bool :=
  decide (a.reach &&& act = 0) || a.nonOrdering || (a.sent.isSome && decide (sc ≠ 4))

/-- A child may start: the accesses of the threads that spawned it, before the `spawn`, have been performed (R377). -/
def State.born (s : State) (w : Wave) : Bool :=
  match w.after with
  | none => true
  | some (p, id, m) => match s.wave? p with
    | none => true
    | some x => x.inflight.all (fun a => decide (id ≤ a.id) || a.leftBehind m 1)

/-! ### Event rings -/

/-- Partition of a wave: its launch's. -/
def State.partOfWave (s : State) (w : Wave) : Nat :=
  match s.group? w.group with
  | some g => match s.launch? g.launch with
    | some l => l.part
    | none => 0
  | none => 0

/-- Stage-1 descriptor of a wave's address space: its launch's. -/
def State.spaceOfWave (s : State) (w : Wave) : Nat :=
  match s.group? w.group with
  | some g => match s.launch? g.launch with
    | some l => l.space
    | none => 0
  | none => 0

/-- The ports carry requests (R254, R261). -/
def State.fabricUp (s : State) : Bool := s.portsUp && s.fabid.getLsbD 31

/-- A request to a location is carried to a peer whose endpoint does not acknowledge it (R263). -/
def State.deafAt (s : State) (l : Nat) : Bool := isPeer l && s.fabricUp && s.deaf.contains ((l - peerBase) / 2 ^ 42)

/-- A request to a location is carried and answered: it lies in the package, or the ports carry requests and the peer acknowledges them (R254,
R263). -/
def State.reach (s : State) (l : Nat) : Bool := !isPeer l || (s.fabricUp && !s.deafAt l)

/-- Writes a 32-byte record to an owner's event ring; a full ring counts it as dropped (R259, R260). A record for a ring that the ports do not
reach is held until they do (R254). -/
def State.postEvent (s : State) (owner : Nat) (rec : List Byte) : State :=
  match Map.find? s.svcQs owner with
  | none => s
  | some q => match q.evRing with
    | none => s
    | some (loc, n) =>
      if !s.reach loc then { s with heldRecs := s.heldRecs ++ [(owner, rec)] } else
      let widx := s.mem.readN loc 4
      let ridx := s.mem.readN (loc + 64) 4
      if (widx + 2 ^ 32 - ridx) % 2 ^ 32 ≥ n then
        { s with mem := s.mem.writeN (loc + 8) 4 (s.mem.readN (loc + 8) 4 + 1) }
      else
        { s with mem := (s.mem.writeBytes (loc + 128 + 32 * (widx % n)) rec).writeN loc 4 (widx + 1) }

/-- The record of a park: core, quad and slot, TRCAUSE, TRPC, fault address (R259; the layout is log entry 13, DESIGN CHOICE). -/
def parkRecord (w : Wave) (cause pc : Word) (fa : DWord) : List Byte :=
  natLe 2 w.core ++ natLe 1 w.quad ++ natLe 1 w.slot ++ natLe 4 cause.toNat ++ natLe 4 pc.toNat ++ natLe 4 0 ++ natLe 8 fa.toNat ++ natLe 8 0

/-! ### Taking an exception -/

/-- Code of a cause in TRCAUSE (R231). -/
def causeCode : Cause → Nat
  | .udi => 0x01 | .opc => 0x02 | .uwp => 0x03 | .afo => 0x04 | .fet => 0x05 | .mbf => 0x06 | .mmf => 0x07 | .sov => 0x08
  | .trf => 0x10 | .pmf => 0x11 | .alf => 0x12 | .spf => 0x13 | .btf => 0x18 | .hbf => 0x19 | .bri => 0x1A
  | .rdo => 0x20 | .rff => 0x21 | .spn => 0x22 | .mst => 0x30 | .uce => 0x40 | .swt => 0x50 | .prv => 0x60 | .mcs => 0x61

/-- Route of a cause (R231): translation faults by stage, UCE to the partition, every other to an in-wave handler. -/
def routeOf (x : Cause) (s2 : Bool) : Route :=
  match x with
  | .trf | .pmf => if s2 then .h else .p
  | .uce => .p
  | .udi | .opc | .uwp | .afo | .fet | .mbf | .mmf | .sov | .alf | .spf | .btf | .hbf | .bri | .rdo | .rff | .spn | .mst | .swt | .prv
  | .mcs => .w

/-- A 64-bit value from its two registers. -/
abbrev pair (hi lo : Word) : DWord := hi ++ lo
/-- The wave's text base. -/
abbrev WaveCore.tx (w : WaveCore) : DWord := pair w.txhi w.txlo
/-- The wave's handler address. -/
abbrev WaveCore.tvec (w : WaveCore) : DWord := pair w.tvechi w.tveclo

/-- What is known of a trap when it is delivered. -/
structure TrapInfo where
  /-- cause -/
  cause : Cause
  /-- threads meeting it -/
  mask : Lanes
  /-- fault address -/
  fa : DWord
  /-- stage 2 -/
  s2 : Bool
  /-- asynchronous -/
  asy : Bool
  /-- the wave cannot be rolled back -/
  unr : Bool

/-- The route a trap takes: P inside a handler; P for a W cause when the wave has no handler; a Trailhead processor always enters its own
(R231, R232, R235, R383). -/
def trapRoute (w : Wave) (t : TrapInfo) : Route :=
  if w.tp.isSome then .w
  else if w.st.inHandler then .p
  else if routeOf t.cause t.s2 = .w && decide (w.st.tvec = 0) then .p
  else routeOf t.cause t.s2

/-- TRCAUSE at delivery (R230): ACT is reset to 0. -/
def trapCause (w : WaveCore) (sl : Nat) (t : TrapInfo) : Word :=
  let mac := (w.slice sl).mac
  BitVec.ofNat 32 (causeCode t.cause + (if t.unr then 2 ^ 17 else 0) + (w.gangOf sl).headD sl % 8 * 2 ^ 18
    + (match mac with
       | some m => m.i % 32 * 2 ^ 21 + 2 ^ 26
       | none => 0)
    + (if w.inHandler then 2 ^ 27 else 0) + (if t.asy then 2 ^ 28 else 0) + (if t.s2 then 2 ^ 29 else 0))

/-- TRPC at delivery: the instruction, or its `mcall`; the next instruction for SWT (R231). Log entry 8: DEDUCED. -/
def trapPc (w : WaveCore) (sl : Nat) (t : TrapInfo) : Word :=
  ((w.slice sl).pc - w.tx).truncate 32 + (if t.cause = .swt then 4 else 0)

/-- The trap record written (R230). -/
def WaveCore.setRecord (w : WaveCore) (sl : Nat) (t : TrapInfo) : WaveCore :=
  { w with trcause := trapCause w sl t, trpc := trapPc w sl t, trmask := t.mask,
           trfalo := t.fa.extractLsb' 0 32, trfahi := t.fa.extractLsb' 32 32 }

/-- A wait that an asynchronous cause leaves standing behind the trap: its instruction has issued, and cannot issue again without losing what it
did or its place (R153, R159, R232, R250; log entry 26, DEDUCED). -/
def Wait.lasting : Wait → Bool
  | .barrier _ | .returned | .handle _ | .baton => true
  | .stall | .retry | .regang _ | .recRun _ _ | .hyper | .ckpt => false

/-- What delivery saves of the trapping gang (R232). -/
def saveGang (w : WaveCore) (sl : Nat) (asy : Bool) : List SavedSlice :=
  (w.gangOf sl).map (fun i =>
    let x := w.slice i
    { sl := i, pc := x.pc, mask := x.mask, depth := x.stack.length, modex := x.modex, modem := x.modem, mac := x.mac, gang := x.gang,
      wait := x.wait.filter (fun y => asy && y.lasting), past := false })

/-- The trapping gang becomes the handler gang: every live thread active, MODE at launch values, at the handler's address, in the
privileged view (R232). -/
def WaveCore.enterHandler (w : WaveCore) (sl : Nat) : WaveCore :=
  w.updSlices (w.gangOf sl) (fun i x =>
    { x with pc := w.tvec, mask := w.liveBits i, modex := modexInit, modem := modemInit, sleep := 0, wait := none, mac := none })

/-- Delivery of a trap to the gang of a slice (R232, R235). -/
def WaveCore.deliver (w : WaveCore) (sl : Nat) (t : TrapInfo) (route : Route) : WaveCore :=
  let r := w.setRecord sl t
  match w.trap with
  | some old => { (r.setWait sl none) with trap := some { old with route := route, running := false } }
  | none =>
    let tr : TrapSt := { route := route, saved := saveGang w sl t.asy, handler := decide (route = .w), running := decide (route = .w), cause := causeCode t.cause }
    if route = .w then { r.enterHandler sl with trap := some tr } else { (r.setWait sl none) with trap := some tr }

/-- TAKING AN EXCEPTION: the record is written, and the gang continues in its handler, or the wave is parked for system software and its
owner's event ring is told (R230 to R236, R259). A hidden wave takes none: its replay is given up (R265; log entry 39, DEDUCED). -/
def State.takeTrap (s : State) (u sl : Nat) (t : TrapInfo) : State :=
  match s.wave? u with
  | none => s
  | some w =>
    if w.hidden.isSome then s.setWave u { w with ending := true }
    else
    let route := trapRoute w t
    let st := w.st.deliver sl t route
    let s' := s.setWave u { w with st := st }
    match route with
    | .w => s'
    | .p => s'.postEvent (s.partOfWave w) (parkRecord w st.trcause st.trpc t.fa)
    | .h => s'.postEvent 32 (parkRecord w st.trcause st.trpc t.fa)

/-- THE RETURN FROM AN EXCEPTION for ACT 0 (resume) and 1 (skip) (R234): the saved gang continues at TRPC, or past it, or at operation
MOP, or past it, of its `mcall`; the wave is unparked. -/
def WaveCore.resume (w : WaveCore) (skip : Bool) : WaveCore :=
  match w.trap with
  | none => w
  | some t =>
    let past := skip && !w.trcause.getLsbD 28
    let mv := w.trcause.getLsbD 26
    let mop := (w.trcause.extractLsb' 21 5).toNat
    let pc := w.tx + w.trpc.zeroExtend 64 + (if past && !mv then 4 else 0)
    { w.updSlices (t.saved.map (·.sl)) (fun i x =>
        match t.saved.find? (fun y => y.sl == i) with
        | some y =>
          let z := { x with pc := pc, mask := y.mask &&& w.liveBits i, modex := y.modex, modem := y.modem, gang := y.gang, sleep := 0,
                            wait := y.wait, mac := none }
          match (if mv then y.mac else none) with
          | some m => { z.atOp m (mop + (if past || y.past then 1 else 0)) with wait := y.wait }
          | none => if y.past then { z with pc := pc + 4 } else z
        | none => x)
      with trap := none }

/-- The resolution of a nested trap with ACT 0 or 1 (R235): the handler gang continues in the privileged view, and NEST is cleared. -/
def WaveCore.resumeNested (w : WaveCore) (skip : Bool) : WaveCore :=
  match w.trap with
  | none => w
  | some t =>
    let past := skip && !w.trcause.getLsbD 28
    let mv := w.trcause.getLsbD 26
    let mop := (w.trcause.extractLsb' 21 5).toNat
    let pc := w.tx + w.trpc.zeroExtend 64 + (if past && !mv then 4 else 0)
    let sl := (w.trcause.extractLsb' 18 3).toNat
    { w.updSlices (w.gangOf sl) (fun _ x =>
        match (if mv then x.mac else none) with
        | some m => { x with pc := pc }.atOp m (mop + (if past then 1 else 0))
        | none => { x with pc := pc, wait := none, mac := none })
      with trap := some { t with route := .w, running := true }, trcause := w.trcause &&& ~~~(1#32 <<< 27) }

/-- Every handler slice stands at its entry depth (R234). -/
def WaveCore.atEntryDepth (w : WaveCore) : Bool :=
  match w.trap with
  | none => false
  | some t => t.saved.all (fun y => w.finished y.sl || decide ((w.slice y.sl).stack.length = y.depth))

/-- An asynchronous cause for a wave, held until its next instruction boundary (R233, R250). -/
def Wave.hold (w : Wave) (x : Cause) (fa : DWord) : Wave :=
  if w.held.contains (x, fa, false) then w else { w with held := w.held ++ [(x, fa, false)] }

/-! ### The frame of a meaning -/

/-- Runs a meaning for the acting gang: its next state, or the exception it raises, or its waiting. -/
def issueState (s : State) (f : Ctx → Chk State) : Host.Outcome State Fault Refusal :=
  match s.act with
  | none => .fault .noActingGang
  | some (u, sl) =>
    match s.wave? u with
    | none => .fault .noActingGang
    | some w =>
      match f { s := s, u := u, w := w, sl := sl } with
      | .ok s' => .next s'
      | .error (.trap c m fa s2) => .next (s.takeTrap u sl { cause := c, mask := m, fa := fa, s2 := s2, asy := false, unr := false })
      | .error (.wait x) => .next (s.block u sl x)

/-- The machine with the wave changed and the gang moved past the instruction. -/
def Ctx.put (c : Ctx) (w : Wave) : State := c.s.setWave c.u (w.advance c.sl)

/-- Runs a meaning that changes only its wave and moves on. -/
def issueWave (s : State) (f : Ctx → Chk Wave) : Host.Outcome State Fault Refusal :=
  issueState s (fun c => match f c with
    | .ok w => .ok (c.put w)
    | .error e => .error e)

end Sys2Proof.Machine
end

