-- ==== Sys2Proof/Machine/Xlate.lean ====
section
/-! DEFINITION. Translation of global addresses: context descriptors, range tables, radix walks, range caches, permissions and the
physical address map (R117 to R122, R251, R253). -/

namespace Sys2Proof.Machine

/-- Why an address does not translate. -/
inductive XErr where
  /-- TRF or PMF, and its stage -/
  | mk (pmf s2 : Bool)
  /-- none for now: the translation is undefined, by a range table that is unsorted or whose valid entries overlap (R10, R120), or a table lies
  with a peer and the ports carry no request (R254) -/
  | undef
deriving DecidableEq, Repr

/-- A failure as TRF (`pmf` false) or PMF. -/
def XErr.isAs (pmf : Bool) : XErr → Bool
  | .mk p _ => p == pmf
  | .undef => false

/-- A failure at stage 2. -/
def XErr.atS2 : XErr → Bool
  | .mk _ s => s
  | .undef => false

/-- What an address translates to. -/
structure XRes where
  /-- location -/
  loc : Nat
  /-- may be held in the core data cache -/
  cache : Bool
  /-- entries that no range cache held -/
  found : List RcEnt
deriving DecidableEq, Repr

/-- The permissions of R119, bit 3 read, 2 write, 1 execute, 0 atomic, that each kind of access needs (R122). -/
abbrev needRead : BitVec 4 := 0b1000
/-- A store. -/
abbrev needWrite : BitVec 4 := 0b0100
/-- An instruction fetch. -/
abbrev needExec : BitVec 4 := 0b0010
/-- An atomic. -/
abbrev needAtomic : BitVec 4 := 0b1101

/-- Reads n bytes at an address of a stage's tables. -/
abbrev TblRead := Nat → Nat → Except XErr Nat

/-- A context descriptor read (R118): range table, entry count, radix root. -/
structure Desc where
  /-- range table -/
  tbl : Nat
  /-- entries -/
  n : Nat
  /-- radix root, 0 for none -/
  root : Nat
deriving DecidableEq, Repr

/-- A context descriptor from its 32 bytes; one that breaks the rules of R118 is none. -/
def descOf (x : Nat) : Option Desc :=
  let tbl := x % 2 ^ 64
  let n := x / 2 ^ 64 % 2 ^ 16
  let root := x / 2 ^ 128 % 2 ^ 64
  if tbl % 16 = 0 ∧ root % 4096 = 0 ∧ n ≤ 4096 ∧ x / 2 ^ 80 % 2 ^ 48 = 0 ∧ x / 2 ^ 192 = 0 then some ⟨tbl, n, root⟩ else none

/-- A range table entry as the range it covers (R119); one with V = 0, or whose end passes 2^52, covers nothing. KIND is not looked at in
stage 1, where it is reserved. Log entry 60: DESIGN CHOICE. -/
def rangeOf (stage part desc : Nat) (x : Nat) : Option RcEnt :=
  let base := x / 2 ^ 92
  let len := x / 2 ^ 56 % 2 ^ 36
  let tgt := x / 2 ^ 20 % 2 ^ 36
  if x % 2 = 1 ∧ (base + len + 1) * 2 ^ 16 ≤ 2 ^ 52 then
    some { stage := stage, part := part, desc := desc, lo := base * 2 ^ 16, hi := (base + len + 1) * 2 ^ 16 - 1, tgt := tgt * 2 ^ 16,
           peer := decide (stage = 2) && decide (x / 2 ^ 19 % 2 = 1), nc := decide (x / 2 ^ 18 % 2 = 1),
           perm := BitVec.ofNat 4 (x / 2 ^ 14) }
  else none

/-- An entry covers an address. -/
def RcEnt.covers (e : RcEnt) (x : Nat) : Bool := decide (e.lo ≤ x ∧ x ≤ e.hi)

/-- Bisection for the last of entries [lo, hi) with BASE × 2^16 ≤ x (R120); at most `fuel` entries are read. The answer is the last entry
read that qualifies. -/
def bisect (rd : TblRead) (tbl x : Nat) : Nat → Nat → Nat → Option Nat → Except XErr (Option Nat)
  | 0, _, _, best => .ok best
  | fuel + 1, lo, hi, best =>
    if hi ≤ lo then .ok best
    else
      let mid := (lo + hi) / 2
      match rd (tbl + 16 * mid) 16 with
      | .error e => .error e
      | .ok v => if v / 2 ^ 92 * 2 ^ 16 ≤ x then bisect rd tbl x fuel (mid + 1) hi (some v) else bisect rd tbl x fuel lo mid best

/-- The entries of a range table that can be read, of its first n. -/
def tableEntries (rd : TblRead) (tbl n : Nat) : List Nat := (List.range n).filterMap (fun i => (rd (tbl + 16 * i) 16).toOption)

/-- The entries are sorted by BASE, and no two valid ones overlap (R119). Of sorted ranges, neighbours among the valid ones are enough. -/
def tableSound (l : List Nat) : Bool :=
  let bases := l.map (fun v => v / 2 ^ 92)
  let valid := (l.filter (fun v => v % 2 = 1)).map (fun v => (v / 2 ^ 92, v / 2 ^ 92 + v / 2 ^ 56 % 2 ^ 36))
  (bases.zip (bases.drop 1)).all (fun p => decide (p.1 ≤ p.2)) && (valid.zip (valid.drop 1)).all (fun p => decide (p.1.2 < p.2.1))

/-- A range table gives defined translations (R120): it is sound, judged by all of it that can be read. Log entry 58: DESIGN CHOICE. -/
def tableGood (rd : TblRead) (d : Desc) : Bool := tableSound (tableEntries rd d.tbl d.n)

/-- The radix walk from a table on, over the remaining levels' index positions (R121). Bits 8 to 3, which
have a meaning at level 4 only, are reserved above it. Log entry 60: DESIGN CHOICE. -/
def radix (rd : TblRead) (stage part desc x : Nat) : List Nat → Nat → Except XErr RcEnt
  | [], _ => .error (.mk false (decide (stage = 2)))
  | pos :: rest, tbl =>
    match rd (tbl + 8 * (x / 2 ^ pos % 512)) 8 with
    | .error e => .error e
    | .ok v =>
      let bad : Except XErr RcEnt := .error (.mk false (decide (stage = 2)))
      if v % 2 = 0 ∨ v / 2 ^ 52 ≠ 0 ∨ v / 2 ^ 9 % 8 ≠ 0 ∨ v / 2 % 4 ≠ 0 then bad
      else if rest.isEmpty then
        if v / 2 ^ 12 % 16 ≠ 0 ∨ (stage = 1 ∧ v / 2 ^ 8 % 2 = 1) then bad
        else .ok { stage := stage, part := part, desc := desc, lo := x / 2 ^ 16 * 2 ^ 16, hi := x / 2 ^ 16 * 2 ^ 16 + 65535,
                   tgt := v / 2 ^ 16 * 2 ^ 16, peer := decide (v / 2 ^ 8 % 2 = 1), nc := decide (v / 2 ^ 7 % 2 = 1),
                   perm := BitVec.ofNat 4 (v / 2 ^ 3) }
      else if v / 2 ^ 3 % 64 ≠ 0 then bad
      else radix rd stage part desc x rest (v / 2 ^ 12 * 2 ^ 12)

/-- A stage's tables searched for an address (R120, steps 3 and 4). -/
def searchTables (rd : TblRead) (stage part desc x : Nat) : Except XErr RcEnt :=
  let trf : XErr := .mk false (decide (stage = 2))
  match rd desc 32 with
  | .error e => .error e
  | .ok raw =>
    match descOf raw with
    | none => .error trf
    | some d =>
      if !tableGood rd d then .error .undef
      else match bisect rd d.tbl x 13 0 d.n none with
      | .error e => .error e
      | .ok best =>
        match best.bind (rangeOf stage part (if stage = 1 then desc else 0)) with
        | some e => if e.covers x then .ok e else
            if d.root = 0 then .error trf else radix rd stage part (if stage = 1 then desc else 0) x [43, 34, 25, 16] d.root
        | none =>
            if d.root = 0 then .error trf else radix rd stage part (if stage = 1 then desc else 0) x [43, 34, 25, 16] d.root

/-- A cached entry of a stage for an address (R120, steps 1 and 2). -/
def cached (cs : List RcEnt) (stage part desc x : Nat) : Option RcEnt :=
  cs.find? (fun e => decide (e.stage = stage) && decide (e.part = part) && decide (e.desc = desc) && e.covers x)

/-- Start of the Trailhead aperture (R253). -/
def apThead : Nat := 0xFFF0000000000
/-- Start of the Basecamp aperture. -/
def apBase : Nat := 0xFFF8000000000
/-- A location in a register aperture. -/
def isAperture (l : Nat) : Bool := decide (apThead ≤ l ∧ l < apThead + 2 ^ 24) || decide (apBase ≤ l ∧ l < apBase + 2 ^ 24)

/-- A register of the apertures, by 4-byte words. -/
inductive ApReg where
  /-- a word of the page of TRIG -/
  | trig (p off : Nat)
  /-- message filter table entry -/
  | filter (i : Nat)
  /-- COLPWR -/
  | colpwr (n : Nat)
  /-- a word of LAYGEN -/
  | laygen (k : Nat)
  | laystg | laycmt | fabid | lbcfg
  /-- CLUSPART, live or shadow -/
  | cluspart (sh : Bool) (c : Nat)
  | lantcfg (c : Nat)
  | islpt (c : Nat)
  /-- a word of a CONNMAT row -/
  | connmat (sh : Bool) (c k : Nat)
  | partcfg (sh : Bool) (p : Nat)
  /-- a word of an INWIN entry -/
  | inwin (i k : Nat)
  /-- no register -/
  | none
deriving DecidableEq, Repr

/-- The layout registers by their offset from the live copies. -/
def layReg (sh : Bool) (o : Nat) : ApReg :=
  if 0x1000 ≤ o ∧ o < 0x1100 then .cluspart sh ((o - 0x1000) / 4)
  else if 0x2000 ≤ o ∧ o < 0x2400 then .connmat sh ((o - 0x2000) / 16) (o / 4 % 4)
  else if 0x3000 ≤ o ∧ o < 0x3080 then .partcfg sh ((o - 0x3000) / 4)
  else .none

/-- The register at a location. -/
def apReg (l : Nat) : ApReg :=
  if apThead ≤ l ∧ l < apThead + 2 ^ 24 then
    let o := l - apThead
    if o < 0x20000 then .trig (o / 4096) (o % 4096)
    else if 0x100000 ≤ o ∧ o < 0x101000 then .filter ((o - 0x100000) / 4)
    else if 0x101000 ≤ o ∧ o < 0x101200 then .colpwr ((o - 0x101000) / 4)
    else .none
  else
    let o := l - apBase
    if o < 8 then .laygen (o / 4)
    else if o < 0xC then .laystg
    else if o < 0x10 then .laycmt
    else if o < 0x14 then .fabid
    else if o < 0x18 then .lbcfg
    else if 0x1100 ≤ o ∧ o < 0x1200 then .lantcfg ((o - 0x1100) / 4)
    else if 0x1200 ≤ o ∧ o < 0x1300 then .islpt ((o - 0x1200) / 4)
    else if 0x4000 ≤ o ∧ o < 0x5000 then .inwin ((o - 0x4000) / 16) (o / 4 % 4)
    else if o ≥ 0x8000 then layReg true (o - 0x8000)
    else layReg false o

/-- A register of view P has a byte among n bytes of an aperture, which an access of 4 or 8 bytes reaches (R6, R253). -/
def apPrivate (l n : Nat) : Bool :=
  isAperture l && decide ((n = 4 ∨ n = 8) ∧ l % n = 0) && (List.range (n / 4)).any (fun i => match apReg (l + 4 * i) with
    | .trig _ _ | .none => false
    | .filter _ | .colpwr _ | .laygen _ | .laystg | .laycmt | .fabid | .lbcfg | .cluspart _ _ | .lantcfg _ | .islpt _ | .connmat _ _ _
    | .partcfg _ _ | .inwin _ _ => true)

/-- A cluster has a granted port at a stack (R117, R251). -/
def State.portGranted (s : State) (cluster stack : Nat) : Bool :=
  decide (((Map.find? s.live.connmat cluster).getD 0).extractLsb' (16 * stack) 16 ≠ 0)

/-- A physical address of stage 2 as a location; none for an address that is not memory, or whose stack has no granted port for the
cluster (R117, R251). Trailhead's own accesses, of cluster 64, pass through no row. -/
def State.physLoc (s : State) (cluster pa : Nat) : Option Nat :=
  if pa < hbmBytes then (if cluster ≥ 64 || s.portGranted cluster (pa / (48 * 2 ^ 30)) then some pa else none)
  else if isAperture pa then some pa else none

/-- A read of stage-2 tables by a cluster's walker: of memory whose stack has a granted port (R251). -/
def State.tableRead (s : State) (cluster : Nat) : TblRead := fun a n =>
  match s.physLoc cluster a with
  | some l => if l + n ≤ hbmBytes then .ok (s.mem.readN l n) else .error (.mk false true)
  | none => .error (.mk false true)

/-- Stage 2 of a partition for an intermediate address: the entry, and whether a cache held it. -/
def State.stage2 (s : State) (cs : List RcEnt) (part cluster ipa : Nat) : Except XErr (RcEnt × Bool) :=
  match cached cs 2 part 0 ipa with
  | some e => .ok (e, true)
  | none =>
    match Map.find? s.live.stage2 part with
    | none => .error (.mk false true)
    | some d =>
      match searchTables (s.tableRead cluster) 2 part d ipa with
      | .ok e => .ok (e, false)
      | .error x => .error x

/-- An intermediate address with its needed permissions, as a location (R117, R122). An aperture is reached only through a range with NC
(R253). Bits of the sum above 51 count as R117 and R119 leave them: no stage's table covers them, and a peer's address drops them. A
permission that is missing is found before an address that is not memory. Log entry 60: DESIGN CHOICE. -/
def State.xlate2 (s : State) (cs : List RcEnt) (part cluster ipa : Nat) (need : BitVec 4) : Except XErr XRes :=
  match s.stage2 cs part cluster ipa with
  | .error e => .error e
  | .ok (e, hit) =>
    if e.perm &&& need ≠ need then .error (.mk true true)
    else
      let out := e.tgt + (ipa - e.lo)
      let found := if hit then [] else [e]
      if e.peer then .ok { loc := peerBase + out % 2 ^ 52, cache := false, found := found }
      else match s.physLoc cluster out with
        | some l =>
          if isAperture l && !e.nc then .error (.mk false true)
          else .ok { loc := l, cache := !e.nc && decide (l < hbmBytes), found := found }
        | none => .error (.mk false true)

/-- Reads n bytes of a stage-1 table, at an intermediate address, through stage 2, each 64 KiB unit by its own translation (R118, R119). Stage
2's permissions are not asked: a stage-2 PMF arises only when stage 1 grants what the access needs (R122). Bits 63 to 52 of an address that a
descriptor gives count as they do in a sum: no range covers them, and the radix index does not see them (log entry 60, DESIGN CHOICE). A table
that lies with a peer is read when the ports carry requests (R254), and one whose endpoint does not acknowledge is a stage-2 fault (R168, R263;
log entry 62, DESIGN CHOICE). -/
def State.ipaRead (s : State) (cs : List RcEnt) (part cluster : Nat) : TblRead := fun a n =>
  let one (a n : Nat) : Except XErr Nat := match s.xlate2 cs part cluster (a % 2 ^ 64) 0 with
    | .error e => .error e
    | .ok r =>
      if s.deafAt r.loc then .error (.mk false true)
      else if s.reach r.loc then .ok (s.mem.readN r.loc n)
      else .error .undef
  let k := 65536 - a % 65536
  if n ≤ k then one a n
  else match one a k, one (a + k) (n - k) with
    | .error e, _ => .error e
    | .ok _, .error e => .error e
    | .ok x, .ok y => .ok (x + 2 ^ (8 * k) * y)

/-- A virtual address of a partition's address space with its needed permissions, as a location (R118 to R122). The range caches given
are asked first. -/
def State.xlate (s : State) (cs : List RcEnt) (part space cluster va : Nat) (need : BitVec 4) : Except XErr XRes :=
  if 2 ^ 52 ≤ va then .error (.mk false false)
  else
    let e1 := match cached cs 1 part space va with
      | some e => Except.ok (e, true)
      | none => match searchTables (s.ipaRead cs part cluster) 1 part space va with
        | .ok e => .ok (e, false)
        | .error x => .error x
    match e1 with
    | .error x => .error x
    | .ok (e, hit) =>
      if e.perm &&& need ≠ need then .error (.mk true false)
      else match s.xlate2 cs part cluster (e.tgt + (va - e.lo)) need with
        | .error x => .error x
        | .ok r => .ok { r with cache := r.cache && !e.nc, found := if hit then r.found else e :: r.found }

/-- The range caches that a core's accesses ask, in the order of R120. -/
def State.rcOf (s : State) (core : Nat) : List RcEnt := (s.core core).rc ++ (s.cluster (clusterOf core)).rc

/-- A wave's virtual address as a location. A Trailhead processor reaches only its own memory (log entry 10, DESIGN CHOICE). -/
def State.xlateWave (s : State) (w : Wave) (va : Nat) (need : BitVec 4) : Except XErr XRes :=
  match w.tp with
  | some n => if va < 2 ^ 40 then .ok { loc := tpBase + n * 2 ^ 40 + va, cache := false, found := [] } else .error (.mk false false)
  | none => s.xlate (s.rcOf w.core) (s.partOfWave w) (s.spaceOfWave w) (clusterOf w.core) va need

/-- Puts an entry first in a range cache of the given size a stage (R120). -/
def fillRc (n : Nat) (rc : List RcEnt) (e : RcEnt) : List RcEnt :=
  let same := (e :: rc.filter (fun x => x ≠ e && decide (x.stage = e.stage))).take n
  same ++ rc.filter (fun x => decide (x.stage ≠ e.stage))

/-- Fills the range caches of a core and its cluster (R120). -/
def State.fillCaches (s : State) (core : Nat) (es : List RcEnt) : State :=
  es.foldl (fun s e =>
    (s.updCore core (fun x => { x with rc := fillRc 8 x.rc e })).updCluster (clusterOf core) (fun x => { x with rc := fillRc 128 x.rc e })) s

/-- A miss joins the walk in flight that returns its range or page, or begins one behind the walks there are (R120). -/
def joinWalks (ws : List Walk) (core : Nat) (who : List (Nat × Nat)) (e : RcEnt) : List Walk :=
  if ws.any (fun k => k.ent == e) then
    ws.map (fun k => if k.ent = e then { k with joined := who ++ k.joined, cores := if k.cores.contains core then k.cores else core :: k.cores } else k)
  else ws ++ [{ ent := e, cores := [core], joined := who }]

/-- Every miss of an access of a core, or of a fetch, which nothing waits for, joins or begins its walk. Log entry 18: DESIGN CHOICE. -/
def State.joinWalk (s : State) (core : Nat) (who : List (Nat × Nat)) (es : List RcEnt) : State :=
  if es.isEmpty then s
  else s.updCluster (clusterOf core) (fun k => { k with walks := es.foldl (fun ws e => joinWalks ws core who e) k.walks })

/-- A cache of n entries with one more: the lowest leaves when it is full. Replacement is not architectural (R115; log entry 11, DESIGN
CHOICE). -/
def Map.cached {α : Type} (m : Map α) (n k : Nat) (x : α) : Map α :=
  if m.length < n ∨ (Map.find? m k).isSome then Map.insert m k x else Map.insert (m.drop 1) k x

end Sys2Proof.Machine
end

