-- ==== Sys2Proof/Machine/Launching.lean ====
section
/-! DEFINITION. The state in which a launched wave starts (R49), and where a wave finds room on a core (R206). -/

namespace Sys2Proof.Machine

/-- Fields of a launch packet (R196), from its 64 bytes. -/
def pkField (b : List Byte) (off n : Nat) : Nat := leNat ((b.drop off).take n)

/-- The state of R49: registers, MODE, and the handler address of the queue (R230). -/
def launchCore (g : Group) (l : Launch) (widx : Nat) : WaveCore :=
  let text := BitVec.ofNat 64 (pkField l.bytes 8 8)
  let w := WaveCore.init text text l.tvec
  let sv : Nat → Word := fun i =>
    if i = 0 then BitVec.ofNat 32 g.index
    else if i = 1 then BitVec.ofNat 32 widx
    else if i = 2 then BitVec.ofNat 32 (pkField l.bytes 24 4)
    else if i = 3 then BitVec.ofNat 32 (pkField l.bytes 28 4 / 2 ^ 23 % 64 + 1)
    else if 4 ≤ i ∧ i ≤ 11 then l.params.getD (i - 4) 0
    else 0
  let bv : Nat → BReg := fun i =>
    if i = 0 then ⟨BitVec.ofNat 64 (pkField l.bytes 16 8), 0⟩
    else if i = 1 then ⟨BitVec.ofNat 64 g.sOff, 1⟩
    else if i = 2 then ⟨BitVec.ofNat 64 g.aOff, 2⟩
    else if i = 3 then ⟨BitVec.ofNat 64 (4096 * g.cUnit), 3⟩
    else if i = 4 then ⟨BitVec.ofNat 64 (8192 * g.cUnit), 4⟩
    else ⟨0, 0⟩
  { w with regs := { w.regs with s := Vector.ofFn (fun i => sv i.val), b := Vector.ofFn (fun i => bv i.val) } }

/-- The waves on a core. -/
def State.wavesOn (s : State) (core : Nat) : List (Nat × Wave) :=
  s.waves.filter (fun e => decide (e.2.core = core) && e.2.plain)

/-- The waves of a core as they use its quads: quad, slot and varying registers. -/
abbrev QuadUse := List (Nat × Nat × Nat)

/-- Free varying registers of a quad, out of 1,024 (R206). -/
def QuadUse.free (u : QuadUse) (quad : Nat) : Nat := 1024 - (u.filter (fun e => decide (e.1 = quad))).foldl (fun n e => n + e.2.2) 0

/-- Lowest free wave slot of a quad. -/
def QuadUse.slot (u : QuadUse) (quad : Nat) : Option Nat := (List.range 16).find? (fun k => !u.any (fun e => decide (e.1 = quad ∧ e.2.1 = k)))

/-- The quad and slot that a wave of an allocation gets: the quad with the most free varying registers among those with a free slot and
room, ties to the lowest (R206). -/
def QuadUse.room (u : QuadUse) (valloc : Nat) : Option (Nat × Nat) :=
  let ok := (List.range 4).filter (fun q => (u.slot q).isSome && decide (valloc ≤ u.free q))
  let best := ok.foldl (fun (b : Option Nat) q => match b with
    | none => some q
    | some p => if u.free q > u.free p then some q else b) none
  best.bind (fun q => (u.slot q).map (fun k => (q, k)))

/-- How a core's waves, hidden ones among them, use its quads. -/
def State.quadUse (s : State) (core : Nat) : QuadUse :=
  (s.waves.filter (fun e => decide (e.2.core = core) && e.2.tp.isNone)).map (fun e => (e.2.quad, e.2.slot, e.2.valloc))

/-- The quad and slot that a wave gets on a core. -/
def State.roomFor (s : State) (core valloc : Nat) : Option (Nat × Nat) := (s.quadUse core).room valloc

/-- Adds a wave; waves are numbered in creation order. -/
def State.addWave (s : State) (w : Wave) : State :=
  { s with waves := Map.insert s.waves s.nextWave w, nextWave := s.nextWave + 1 }

end Sys2Proof.Machine
end

