-- ==== Sys2Proof/Machine/Alu.lean ====
section
/-! DEFINITION. The integer, bit, logical, compare and move instructions (R271 to R274, R291 to R295, R306, R307, R335, R336, R343, R348,
R349, R351 to R357, R369, R370, R373, R374). -/

namespace Sys2Proof.Machine

/-! ### Elements of a packed type (R80 to R82) -/

/-- Width and signedness of the integer types, by the code of R64. -/
def intType (t : Nat) : Option (Nat × Bool) :=
  match t with
  | 0 => some (32, true)
  | 1 => some (32, false)
  | 7 => some (16, true)
  | 8 => some (16, false)
  | 9 => some (8, true)
  | 10 => some (8, false)
  | _ => none

/-- Element k of width n, as an integer. -/
def elem (n : Nat) (signed : Bool) (x : Word) (k : Nat) : Int :=
  let y := x.toNat / 2 ^ (n * k) % 2 ^ n
  if signed then signExt y n else (y : Int)

/-- A word from its elements of width n, each reduced modulo 2^n. -/
def packElems (n : Nat) (f : Nat → Int) : Word :=
  BitVec.ofNat 32 ((List.range (32 / n)).foldl (fun x k => x + (f k % (2 ^ n : Nat)).toNat * 2 ^ (n * k)) 0)

/-- Clamps an integer to an element's range (R81). -/
def clampElem (n : Nat) (signed : Bool) (x : Int) : Int :=
  let lo : Int := if signed then -(2 ^ (n - 1) : Nat) else 0
  let hi : Int := if signed then (2 ^ (n - 1) : Nat) - 1 else (2 ^ n : Nat) - 1
  if x < lo then lo else if hi < x then hi else x

/-- An operation element by element: exact, then clamped when saturating, else reduced (R81, R271). -/
def elemwise (ty : Nat) (sat : Bool) (op : Int → Int → Int → Int) (a b d : Word) : Word :=
  match intType ty with
  | none => 0
  | some (n, sg) =>
    packElems n (fun k =>
      let x := op (elem n sg a k) (elem n sg b k) (elem n sg d k)
      if sat then clampElem n sg x else x)

/-! ### Shapes of register instructions -/

/-- Writes a varying or uniform destination: each active thread whose guard is true, or once under the k guard (R271). -/
def Ctx.write (c : Ctx) (d : Operand) (f : Nat → Word) : Wave :=
  match d with
  | .v n => c.w.putV n.val c.hit f
  | .s n => if c.kOn then c.w.putS n.val (f 0) else c.w
  | .a _ | .p _ | .k _ | .zero | .lane | .par1 | .par2 | .imm _ => c.w

/-- Some thread of a varying instruction, or the k guard of a uniform one, lets it act: only then are registers read and written (R124,
R271, R378; log entry 12, DEDUCED). -/
def Ctx.acts (c : Ctx) (d : Operand) : Bool := if clsOf d = .vary ∨ clsOf d = .vpred then decide (c.hit ≠ 0) else c.kOn

/-- The checks of a register instruction before it reads, once its operands' classes are known to be admitted or not (R71): UDI, OPC, UWP. -/
def Ctx.regStart (c : Ctx) (i : Instr) (uniform : Bool) (d : Operand) (srcs : List Operand) (tOk clsOk : Bool) : Chk Unit := do
  c.start i uniform (d :: srcs)
  c.guardOk
  c.need tOk .udi
  c.need clsOk .opc
  c.alloc (d :: srcs)
  if clsOf d = .vary ∨ clsOf d = .vpred then pure () else do
    c.noPGuard
    c.uwp

/-- The checks of a register instruction (R71): those before it reads, FET, then the full/empty waits. `srcs` gives each register read and whether
it stands in field A. -/
def Ctx.regChecks (c : Ctx) (i : Instr) (uniform : Bool) (d : Operand) (srcs : List (Operand × Bool)) (tOk clsOk : Bool) : Chk Unit := do
  c.regStart i uniform d (srcs.map (·.1)) tOk clsOk
  if c.acts d then do
    c.reads srcs
    c.free (dstOf d).toList
  else pure ()

/-- The classes of R40 for a varying or uniform destination. -/
def varyUniOk (d : Operand) (srcs : List (Operand × Bool)) : Bool :=
  (decide (clsOf d = .vary) && srcs.all (fun p => isVaryUni p.1)) || (isS d && srcs.all (fun p => isUni p.1))

/-- A register instruction with a varying or uniform destination (R271). -/
def Ctx.regOp (c : Ctx) (i : Instr) (uniform : Bool) (d : Operand) (srcs : List (Operand × Bool)) (tOk : Bool) (f : Nat → Word) :
    Chk Wave := do
  c.regChecks i uniform d srcs tOk (varyUniOk d srcs)
  pure (c.write d f)

/-- Writes an affine destination under the k guard. -/
def Ctx.writeAff (c : Ctx) (d : Operand) (x : Aff) : Wave :=
  match d with
  | .a n => if c.kOn then c.w.putA n.val x else c.w
  | .v _ | .s _ | .p _ | .k _ | .zero | .lane | .par1 | .par2 | .imm _ => c.w

/-- A register instruction with an affine destination: the sources' classes are `clsOk`; the k guard gates the write (R41 to R43). -/
def Ctx.affOp (c : Ctx) (i : Instr) (d : Operand) (srcs : List (Operand × Bool)) (clsOk : Bool) (x : Aff) : Chk Wave := do
  c.regChecks i false d srcs true clsOk
  pure (c.writeAff d x)

/-- A source that an affine destination of `add`, `sub` and `neg` admits (R273). -/
def isAffUni (o : Operand) : Bool := decide (clsOf o = .aff ∨ clsOf o = .uni)

/-- An integer instruction of two sources without an affine form; `readD` for `mad`, which also reads D. -/
def Ctx.intOp (c : Ctx) (i : Instr) (d a b : Operand) (readD satOk : Bool) (op : Int → Int → Int → Int) : Chk Wave :=
  c.regOp i true d ([(a, true), (b, false)] ++ (if readD then [(d, false)] else [])) (intType (modeT c.mx)).isSome
    (fun t => elemwise (modeT c.mx) (satOk && modeSAT c.mx) op (c.r.src a t) (c.r.src b t) (c.r.src d t))

/-- An integer instruction of two sources with an affine form that works on base and stride alike (R273, R351, R352). -/
def Ctx.linOp (c : Ctx) (i : Instr) (d a b : Operand) (op : Int → Int → Int) : Chk Wave :=
  if clsOf d = .aff then
    let x := c.r.aff a
    let y := c.r.aff b
    c.affOp i d [(a, true), (b, false)] (isAffUni a && isAffUni b)
      (affResult (trunc32 (op x.base.toInt y.base.toInt)) (trunc32 (op x.stride.toInt y.stride.toInt)) (x.ov || y.ov)
        (fun l => op (x.lane l).toInt (y.lane l).toInt))
  else c.intOp i d a b false true (fun x y _ => op x y)

/-- An instruction of one source on 32 bits that no type or saturation touches. -/
def Ctx.bitOp (c : Ctx) (i : Instr) (d a : Operand) (f : Word → Word) : Chk Wave :=
  c.regOp i true d [(a, true)] true (fun t => f (c.r.src a t))

/-- An instruction of two sources on 32 bits that no type or saturation touches. -/
def Ctx.bitOp2 (c : Ctx) (i : Instr) (d a b : Operand) (f : Word → Word → Word) : Chk Wave :=
  c.regOp i true d [(a, true), (b, false)] true (fun t => f (c.r.src a t) (c.r.src b t))

/-! ### Integer arithmetic -/

/-- ADD (R273). -/
def execAdd (d a b : Operand) (s : State) : Host.Outcome State Fault Refusal :=
  issueWave s (fun c => c.linOp (.add d a b) d a b (· + ·))
/-- SUB (R351). -/
def execSub (d a b : Operand) (s : State) : Host.Outcome State Fault Refusal :=
  issueWave s (fun c => c.linOp (.sub d a b) d a b (· - ·))

/-- `mul` with an affine destination (R336): at least one source is uniform. -/
def Ctx.mulAff (c : Ctx) (d a b : Operand) : Chk Wave :=
  let x := if isUni a then c.r.aff b else c.r.aff a
  let u := if isUni a then c.r.uni a else c.r.uni b
  c.affOp (.mul d a b) d [(a, true), (b, false)] (isAffUni a && isAffUni b && (isUni a || isUni b))
    (affResult (x.base * u) (x.stride * u) x.ov (fun l => (x.lane l).toInt * u.toInt))

/-- MUL (R335, R336). -/
def execMul (d a b : Operand) (s : State) : Host.Outcome State Fault Refusal :=
  issueWave s (fun c => if clsOf d = .aff then c.mulAff d a b else c.intOp (.mul d a b) d a b false true (fun x y _ => x * y))
/-- MULH (R335): the upper half of the double-width product. -/
def execMulh (d a b : Operand) (s : State) : Host.Outcome State Fault Refusal :=
  issueWave s (fun c => c.intOp (.mulh d a b) d a b false false (fun x y _ =>
    x * y / (2 ^ ((intType (modeT c.mx)).getD (32, true)).1 : Nat)))
/-- MAD (R335). -/
def execMad (d a b : Operand) (s : State) : Host.Outcome State Fault Refusal :=
  issueWave s (fun c => c.intOp (.mad d a b) d a b true true (fun x y z => x * y + z))

/-- NEG (R351, R352). -/
def execNeg (d a : Operand) (s : State) : Host.Outcome State Fault Refusal :=
  issueWave s (fun c =>
    if clsOf d = .aff then
      let x := c.r.aff a
      c.affOp (.neg d a) d [(a, true)] (isAffUni a) (affResult (-x.base) (-x.stride) x.ov (fun l => -(x.lane l).toInt))
    else c.regOp (.neg d a) true d [(a, true)] (intType (modeT c.mx)).isSome
      (fun t => elemwise (modeT c.mx) (modeSAT c.mx) (fun x _ _ => -x) (c.r.src a t) 0 0))
/-- ABS (R272). -/
def execAbs (d a : Operand) (s : State) : Host.Outcome State Fault Refusal :=
  issueWave s (fun c => c.regOp (.abs d a) true d [(a, true)] (intType (modeT c.mx)).isSome
    (fun t => elemwise (modeT c.mx) (modeSAT c.mx) (fun x _ _ => x.natAbs) (c.r.src a t) 0 0))
/-- MIN (R335). -/
def execMin (d a b : Operand) (s : State) : Host.Outcome State Fault Refusal :=
  issueWave s (fun c => c.intOp (.min d a b) d a b false false (fun x y _ => if x ≤ y then x else y))
/-- MAX (R335). -/
def execMax (d a b : Operand) (s : State) : Host.Outcome State Fault Refusal :=
  issueWave s (fun c => c.intOp (.max d a b) d a b false false (fun x y _ => if x ≤ y then y else x))

/-! ### Bits -/

/-- Number of zero bits above the most significant set bit, 32 for 0 (R306). -/
def clz32 (x : Word) : Word := BitVec.ofNat 32 (((List.range 32).find? (fun k => x.getLsbD (31 - k))).getD 32)
/-- Number of set bits (R356). -/
def popc32 (x : Word) : Word := BitVec.ofNat 32 ((List.range 32).filter (fun k => x.getLsbD k)).length
/-- The bits in reverse order (R295). -/
def brev32 (x : Word) : Word := lanesWhere (fun k => x.getLsbD (31 - k))

/-- CLZ (R306). -/
def execClz (d a : Operand) (s : State) : Host.Outcome State Fault Refusal := issueWave s (fun c => c.bitOp (.clz d a) d a clz32)
/-- POPC (R356). -/
def execPopc (d a : Operand) (s : State) : Host.Outcome State Fault Refusal := issueWave s (fun c => c.bitOp (.popc d a) d a popc32)
/-- BREV (R295). -/
def execBrev (d a : Operand) (s : State) : Host.Outcome State Fault Refusal := issueWave s (fun c => c.bitOp (.brev d a) d a brev32)

/-- A predicate specifier. -/
def isPred (o : Operand) : Bool := decide (clsOf o = .vpred ∨ clsOf o = .upred)

/-- A predicate source as a set of threads (R274). -/
def Regs.predMask (r : Regs) (o : Operand) : Lanes :=
  match o with
  | .p n => r.pred n.val
  | .k n => if r.kpred n.val then BitVec.allOnes 32 else 0
  | .v _ | .s _ | .a _ | .zero | .lane | .par1 | .par2 | .imm _ => 0

/-- Writes a predicate destination: a p in the active threads whose guard is true, a k under the k guard. -/
def Ctx.writePred (c : Ctx) (w : Wave) (d : Operand) (x : Lanes) : Wave :=
  match d with
  | .p n => w.putP n.val c.hit x
  | .k n => if c.kOn then w.putK n.val (x.getLsbD 0) else w
  | .v _ | .s _ | .a _ | .zero | .lane | .par1 | .par2 | .imm _ => w

/-- A logical instruction (R274): on predicates or on 32 bits, never a mix. -/
def Ctx.logic (c : Ctx) (i : Instr) (d : Operand) (srcs : List (Operand × Bool)) (f : List Word → Word) : Chk Wave := do
  if isPred d || srcs.any (fun p => isPred p.1) then do
    c.regChecks i true d srcs true
      ((decide (clsOf d = .vpred) && srcs.all (fun p => isPred p.1)) || (decide (clsOf d = .upred) && srcs.all (fun p => decide (clsOf p.1 = .upred))))
    pure (c.writePred c.w d (f (srcs.map (fun p => c.r.predMask p.1))))
  else c.regOp i true d srcs true (fun t => f (srcs.map (fun p => c.r.src p.1 t)))

/-- AND (R274). -/
def execAnd (d a b : Operand) (s : State) : Host.Outcome State Fault Refusal :=
  issueWave s (fun c => c.logic (.and d a b) d [(a, true), (b, false)] (fun l => l.getD 0 0 &&& l.getD 1 0))
/-- OR (R354). -/
def execOr (d a b : Operand) (s : State) : Host.Outcome State Fault Refusal :=
  issueWave s (fun c => c.logic (.or d a b) d [(a, true), (b, false)] (fun l => l.getD 0 0 ||| l.getD 1 0))
/-- XOR (R354). -/
def execXor (d a b : Operand) (s : State) : Host.Outcome State Fault Refusal :=
  issueWave s (fun c => c.logic (.xor d a b) d [(a, true), (b, false)] (fun l => l.getD 0 0 ^^^ l.getD 1 0))
/-- NOT (R354). -/
def execNot (d a : Operand) (s : State) : Host.Outcome State Fault Refusal :=
  issueWave s (fun c => c.logic (.not d a) d [(a, true)] (fun l => ~~~(l.getD 0 0)))

/-- Left shift, 0 from an amount of 32 on (R369). -/
def shl32 (a b : Word) : Word := if b.toNat ≥ 32 then 0 else a <<< b.toNat
/-- Logical right shift (R369). -/
def shr32 (a b : Word) : Word := if b.toNat ≥ 32 then 0 else a >>> b.toNat
/-- Arithmetic right shift; every bit is bit 31 from an amount of 32 on (R369). -/
def sar32 (a b : Word) : Word := a.sshiftRight (if b.toNat ≥ 32 then 31 else b.toNat)
/-- Rotation left by the amount modulo 32 (R369). -/
def rot32 (a b : Word) : Word := a.rotateLeft (b.toNat % 32)

/-- `shl` with an affine destination (R370). Any amount from 32 on clears the register; 64 stands for all of them in the exact value,
which then fits only when it is 0. -/
def Ctx.shlAff (c : Ctx) (d a b : Operand) : Chk Wave :=
  let x := c.r.aff a
  let n := c.r.uni b
  c.affOp (.shl d a b) d [(a, true), (b, false)] (isAffUni a && isUni b)
    (affResult (shl32 x.base n) (shl32 x.stride n) x.ov (fun l => (x.lane l).toInt * (2 ^ (if n.toNat ≥ 32 then 64 else n.toNat) : Nat)))

/-- SHL (R369, R370). -/
def execShl (d a b : Operand) (s : State) : Host.Outcome State Fault Refusal :=
  issueWave s (fun c => if clsOf d = .aff then c.shlAff d a b else c.bitOp2 (.shl d a b) d a b shl32)
/-- SHR (R369). -/
def execShr (d a b : Operand) (s : State) : Host.Outcome State Fault Refusal := issueWave s (fun c => c.bitOp2 (.shr d a b) d a b shr32)
/-- SAR (R369). -/
def execSar (d a b : Operand) (s : State) : Host.Outcome State Fault Refusal := issueWave s (fun c => c.bitOp2 (.sar d a b) d a b sar32)
/-- ROT (R369). -/
def execRot (d a b : Operand) (s : State) : Host.Outcome State Fault Refusal := issueWave s (fun c => c.bitOp2 (.rot d a b) d a b rot32)

/-- Position and length of a field from a field control word (R291). -/
def fieldOf (b : Word) : Nat × Nat :=
  let pos := (b.extractLsb' 0 5).toNat
  (pos, Nat.min ((b.extractLsb' 8 5).toNat + 1) (32 - pos))
/-- The extracted field (R292). -/
def bfx32 (a b : Word) : Word :=
  let (pos, n) := fieldOf b
  let f := a.toNat / 2 ^ pos % 2 ^ n
  if b.getLsbD 15 then trunc32 (signExt f n) else BitVec.ofNat 32 f
/-- The inserted field (R293). -/
def bfi32 (a b d : Word) : Word :=
  let (pos, n) := fieldOf b
  let m : Word := (BitVec.ofNat 32 (2 ^ n - 1)) <<< pos
  (d &&& ~~~m) ||| ((a <<< pos) &&& m)

/-- BFX (R292). -/
def execBfx (d a b : Operand) (s : State) : Host.Outcome State Fault Refusal := issueWave s (fun c => c.bitOp2 (.bfx d a b) d a b bfx32)
/-- BFI (R293). -/
def execBfi (d a b : Operand) (s : State) : Host.Outcome State Fault Refusal :=
  issueWave s (fun c => c.regOp (.bfi d a b) true d [(a, true), (b, false), (d, false)] true
    (fun t => bfi32 (c.r.src a t) (c.r.src b t) (c.r.src d t)))

/-! ### Moves -/

/-- An affine source whose OV is set, under MODE.AOT = 1, in an instruction that acts: AFO (R43). -/
def Ctx.afo (c : Ctx) (o : Operand) (acts : Bool) : Chk Unit :=
  match o with
  | .a n => c.need (!((c.r.a.getD n.val ⟨0, 0, false⟩).ov && modeAOT c.mm && acts)) .afo
  | .v _ | .s _ | .p _ | .k _ | .zero | .lane | .par1 | .par2 | .imm _ => pure ()

/-- An affine value expanded into a varying register (R348, R357). -/
def Ctx.expand (c : Ctx) (i : Instr) (d a : Operand) : Chk Wave := do
  c.start i false [d, a]
  c.guardOk
  c.need (decide (clsOf d = .vary) && decide (clsOf a = .aff)) .opc
  c.alloc [d]
  c.afo a (decide (c.hit ≠ 0))
  if c.hit = 0 then pure () else c.free (dstOf d).toList
  pure (c.write d (fun t => (c.r.aff a).lane t))

/-- MOV (R348). -/
def execMov (d a : Operand) (s : State) : Host.Outcome State Fault Refusal :=
  issueWave s (fun c =>
    if clsOf d = .vary ∧ clsOf a = .aff then c.expand (.mov d a) d a
    else if clsOf d = .aff then c.affOp (.mov d a) d [(a, true)] (isAffUni a) (c.r.aff a)
    else if isPred d then c.logic (.mov d a) d [(a, true)] (fun l => l.getD 0 0)
    else c.regOp (.mov d a) true d [(a, true)] true (fun t => c.r.src a t))
/-- MOVI (R349). -/
def execMovi (d : Operand) (i : BitVec 16) (s : State) : Host.Outcome State Fault Refusal :=
  issueWave s (fun c => c.regOp (.movi d i) true d [] true (fun _ => i.zeroExtend 32))
/-- MOVH (R349). -/
def execMovh (d : Operand) (i : BitVec 16) (s : State) : Host.Outcome State Fault Refusal :=
  issueWave s (fun c => c.regOp (.movh d i) true d [(d, false)] true (fun t => i ++ (c.r.src d t).extractLsb' 0 16))

/-- SEL (R373): the guard selects, and every active thread is written. -/
def execSel (d a b : Operand) (s : State) : Host.Outcome State Fault Refusal :=
  issueWave s (fun c => do
    let srcs := [(a, true), (b, false)]
    c.start (.sel d a b) true [d, a, b]
    c.guardOk
    c.need (varyUniOk d srcs) .opc
    c.alloc [d, a, b]
    if clsOf d = .vary then pure () else do
      c.noPGuard
      c.uwp
    if clsOf d = .vary ∧ c.act = 0 then pure c.w else do
      c.reads srcs
      c.free (dstOf d).toList
      let g := guardMask c.r c.mx
      match d with
      | .v n => pure (c.w.putV n.val c.act (fun t => if g.getLsbD t then c.r.src a t else c.r.src b t))
      | .s n => pure (c.w.putS n.val (if c.kOn then c.r.uni a else c.r.uni b))
      | .a _ | .p _ | .k _ | .zero | .lane | .par1 | .par2 | .imm _ => pure c.w)

/-- PROMO (R357). -/
def execPromo (d a : Operand) (s : State) : Host.Outcome State Fault Refusal :=
  issueWave s (fun c => c.expand (.promo d a) d a)
/-- MKAFF (R343): it consults no MODE field but G, so it waits for its sources (log entry 40). -/
def execMkaff (d a b : Operand) (s : State) : Host.Outcome State Fault Refusal :=
  issueWave s (fun c => do
    let x := c.r.uni a
    let y := c.r.uni b
    c.regStart (.mkaff d a b) false d [a, b] true (decide (clsOf d = .aff) && isUni a && isUni b)
    if c.kOn then c.readsFull [a, b] else pure ()
    pure (c.writeAff d (affResult x y false (fun l => x.toInt + l * y.toInt))))
/-- SETB (R374). -/
def execSetb (n : Fin 8) (sp : Fin 8) (lo hi : Operand) (s : State) : Host.Outcome State Fault Refusal :=
  issueWave s (fun c => do
    c.start (.setb n sp lo hi) true [lo, hi]
    c.guardOk
    c.need (isUni lo && isUni hi) .opc
    c.noPGuard
    c.uwp
    if c.kOn then do
      c.reads [(lo, true), (hi, false)]
      pure (c.w.putB n.val ⟨pair (c.r.uni hi) (c.r.uni lo), BitVec.ofNat 3 sp.val⟩)
    else pure c.w)

/-! ### Integer compares (R307) -/

/-- A compare into a predicate pair: the relation holds for every element, and the pair's upper register takes its complement. -/
def Ctx.compare (c : Ctx) (i : Instr) (d a b : Operand) (tOk : Bool) (rel : Word → Word → Bool) : Chk Wave := do
  let srcs := [(a, true), (b, false)]
  c.regChecks i true d srcs tOk
    ((decide (clsOf d = .vpred) && srcs.all (fun p => isVaryUni p.1)) || (decide (clsOf d = .upred) && srcs.all (fun p => isUni p.1)))
  let m := lanesWhere (fun t => rel (c.r.src a t) (c.r.src b t))
  match d with
  | .p n => pure ((c.w.putP n.val c.hit m).putP (n.val + 1) c.hit (~~~m))
  | .k n =>
    let x := rel (c.r.uni a) (c.r.uni b)
    pure (if c.kOn then (c.w.putK n.val x).putK (n.val + 1) (!x) else c.w)
  | .v _ | .s _ | .a _ | .zero | .lane | .par1 | .par2 | .imm _ => pure c.w

/-- A relation for every element of the type. -/
def relElems (ty : Nat) (rel : Int → Int → Bool) (a b : Word) : Bool :=
  match intType ty with
  | none => false
  | some (n, sg) => (List.range (32 / n)).all (fun k => rel (elem n sg a k) (elem n sg b k))

/-- An integer compare. -/
def Ctx.intCmp (c : Ctx) (i : Instr) (d a b : Operand) (rel : Int → Int → Bool) : Chk Wave :=
  c.compare i d a b (intType (modeT c.mx)).isSome (relElems (modeT c.mx) rel)

/-- CMP_EQ (R307). -/
def execCmpEq (d a b : Operand) (s : State) : Host.Outcome State Fault Refusal :=
  issueWave s (fun c => c.intCmp (.cmpEq d a b) d a b (fun x y => decide (x = y)))
/-- CMP_NE (R307). -/
def execCmpNe (d a b : Operand) (s : State) : Host.Outcome State Fault Refusal :=
  issueWave s (fun c => c.intCmp (.cmpNe d a b) d a b (fun x y => decide (x ≠ y)))
/-- CMP_LT (R307). -/
def execCmpLt (d a b : Operand) (s : State) : Host.Outcome State Fault Refusal :=
  issueWave s (fun c => c.intCmp (.cmpLt d a b) d a b (fun x y => decide (x < y)))
/-- CMP_LE (R307). -/
def execCmpLe (d a b : Operand) (s : State) : Host.Outcome State Fault Refusal :=
  issueWave s (fun c => c.intCmp (.cmpLe d a b) d a b (fun x y => decide (x ≤ y)))
/-- CMP_GT (R307). -/
def execCmpGt (d a b : Operand) (s : State) : Host.Outcome State Fault Refusal :=
  issueWave s (fun c => c.intCmp (.cmpGt d a b) d a b (fun x y => decide (x > y)))
/-- CMP_GE (R307). -/
def execCmpGe (d a b : Operand) (s : State) : Host.Outcome State Fault Refusal :=
  issueWave s (fun c => c.intCmp (.cmpGe d a b) d a b (fun x y => decide (x ≥ y)))

end Sys2Proof.Machine
end

