-- ==== Sys2Proof/Machine/Order.lean ====
section
/-! DEFINITION. The order of the memory model (R126 to R137, R163, R165, R170 to R173): what happens before what. An event is a write that decides
what other agents read until it happens before their reads: of a relaxed unpaired atomic, or to the A buffer; an operation of a matrix engine
has a number of the same count. Waves, packets and tables carry the numbers of the events that happen before what they do; a release passes
them on, and an acquire takes them. Log entry 22: DEDUCED. -/

namespace Sys2Proof.Machine

/-! ### Agents and scopes (R126, R127) -/

/-- A wave as an agent; a Trailhead processor lies outside every core. -/
def Wave.place (w : Wave) (u : Nat) : Place := { wave := some u, cores := if w.tp.isSome then [] else [w.core] }

/-- One agent's place in the memory order: its wave, where it has one, and its threads there. -/
structure Reader where
  /-- the wave -/
  src : Option Nat
  /-- its threads -/
  ts : Lanes
  /-- events that happen before its reads -/
  knows : List Nat
  /-- of an `atom.*`: its place and scope -/
  rmw : Option (Place × Nat)
deriving DecidableEq, Repr

/-- An agent that is no wave, with the events that happen before its reads. -/
def Reader.agent (knows : List Nat) : Reader := { src := none, ts := 0, knows := knows, rmw := none }

/-- An agent lies in another's instance of a scope (R127, R165, R170). -/
def Place.sees (a b : Place) (sc : Nat) : Bool :=
  let within (f : Nat → Nat) : Bool := (a.cores.map f).any ((b.cores.map f).contains ·)
  (a.wave.isSome && decide (a.wave = b.wave)) || (match sc with
    | 0 => false
    | 1 => within (fun k => k)
    | 2 => within clusterOf
    | 3 => within (fun k => homeOf (clusterOf k))
    | _ => true)

/-- Two agents' scopes are mutually inclusive (R127). -/
def inclusive (a : Place) (sa : Nat) (b : Place) (sb : Nat) : Bool := a.sees b sa && b.sees a sb

/-! ### Events -/

/-- Two ranges of locations share a byte. -/
def overlap (l n l' n' : Nat) : Bool := decide (l < l' + n' ∧ l' < l + n)

/-- A location of S or of A of some core. -/
def isSA (l : Nat) : Bool :=
  decide (bufBase ≤ l ∧ l < bufBase + 512 * coreWindow) && decide ((l - bufBase) % coreWindow < 0x100000)
/-- A location of S of some core. -/
def isSpaceS (l : Nat) : Bool := isSA l && decide ((l - bufBase) % coreWindow < 0x80000)
/-- A location of A of some core. -/
def isA (l : Nat) : Bool := isSA l && !isSpaceS l

/-- The agents that a piece of an access stands for: its thread, or for a uniform access every issuing one (R126). -/
def Access.agents (a : Access) (p : Piece) : Lanes := if a.uni then a.threads else (1 : Lanes) <<< p.t

/-- A relaxed atomic write of the use unpaired. -/
def Access.unpairedWr (a : Access) : Bool :=
  match a.op with
  | .atomic op _ use => decide (op ≠ .read) && decide (use = 0) && !a.acq && !a.rel && !a.sc
  | .load _ _ | .store _ => false

/-- The event of a piece of an access. -/
def Access.event (a : Access) (u : Nat) (w : Wave) (id : Nat) (p : Piece) : Ev :=
  { id := id, loc := p.loc, n := p.n, src := some u, ts := a.agents p, acc := a.id, who := w.place u, scope := a.scope }

/-- The events of the pieces of an access of a wave come into being. -/
def State.addEvents (s : State) (u : Nat) (w : Wave) (a : Access) (ps : List Piece) : State :=
  { s with evs := s.evs ++ ps.zipIdx.map (fun e => a.event u w (s.nextEv + e.2) e.1), nextEv := s.nextEv + ps.length }

/-- The event of a piece takes the place of older ones of its agents at the location: whoever is ordered after it is ordered after those. -/
def State.lastEvent (s : State) (u : Nat) (a : Access) (p : Piece) : State :=
  let old (e : Ev) : Bool := decide (e.src = some u ∧ e.loc = p.loc ∧ e.n = p.n ∧ e.ts = a.agents p ∧ e.scope = a.scope ∧ e.acc < a.id)
  if s.evs.any old then { s with evs := s.evs.filter (fun e => !old e) } else s

/-- A piece of an access wrote nothing: an `atom.cas` whose compare failed (R277). -/
def State.noEvent (s : State) (u : Nat) (a : Access) (p : Piece) : State :=
  if a.unpairedWr then
    { s with evs := s.evs.filter (fun e => !decide (e.src = some u ∧ e.acc = a.id ∧ e.loc = p.loc ∧ e.n = p.n ∧ e.ts = a.agents p)) }
  else s

/-- What a wave's write to A leaves when it is performed: its event (R163). -/
def State.eventA (s : State) (u : Nat) (w : Wave) (a : Access) (p : Piece) : State :=
  if isA p.loc then (s.addEvents u w a [p]).lastEvent u a p else s

/-- A packet's write to A (R163, R170): its event, which the packet's completion passes on. -/
def State.packetEventA (s : State) (who : Place) (l n : Nat) : State :=
  if isA l then
    { s with evs := s.evs ++ [{ id := s.nextEv, loc := l, n := n, src := none, ts := 0, acc := 0, who := who, scope := 2 }], nextEv := s.nextEv + 1 }
  else s

/-- Events, release writes and quantum atomics of a range of locations are gone: it has been zeroed. -/
def State.forget (s : State) (l n : Nat) : State :=
  { s with evs := s.evs.filter (fun e => !overlap e.loc e.n l n), syncs := s.syncs.filter (fun y => !overlap y.loc y.n l n),
           quants := s.quants.filter (fun q => !overlap q.loc q.n l n) }

/-! ### What happens before an agent's accesses -/

/-- Numbers of one list and another, each once. -/
def joinEvs (a b : List Nat) : List Nat := b.foldl (fun l x => if l.contains x then l else l ++ [x]) a

/-- What some threads of a wave have acquired before an access. -/
def Wave.acquired (w : Wave) (m : Lanes) (id : Nat) : List Nat :=
  joinEvs [] ((w.st.seen.filter (fun x => decide (x.ts &&& m ≠ 0) && decide (x.since ≤ id))).map (·.ev))

/-- A quantum atomic is one of some threads of a wave. -/
def QOp.isOf (q : QOp) (u : Nat) (m : Lanes) : Bool := decide (q.name.1 = u) && decide (q.ts &&& m ≠ 0)

/-- A thread's own accesses that have numbers among the events: its writes, its quantum atomics, and its reads that a racing write is owed to. -/
def State.ownEvs (s : State) (u : Nat) (m : Lanes) (id : Nat) : List Nat :=
  (s.evs.filter (fun e => decide (e.src = some u) && decide (e.ts &&& m ≠ 0) && decide (e.acc < id))).map (·.id)
    ++ (s.quants.filter (fun q => q.isOf u m && decide (q.name.2.1 < id))).map (·.id)
    ++ (s.owed.filter (fun o => decide (o.src = u) && decide (o.ts &&& m ≠ 0) && decide (o.acc < id))).map (·.id)

/-- What happens before an access of some threads of a wave: what they acquired, and their own earlier accesses. -/
def State.known (s : State) (u : Nat) (w : Wave) (m : Lanes) (id : Nat) : List Nat := joinEvs (w.acquired m id) (s.ownEvs u m id)

/-- Threads of a wave are ordered after events, from the access of a number on. -/
def WaveCore.learn (w : WaveCore) (evs : List Nat) (m : Lanes) (id : Nat) : WaveCore :=
  let new := evs.filterMap (fun e =>
    let t := w.seen.foldl (fun t x => if x.ev = e ∧ x.since ≤ id then t &&& ~~~x.ts else t) m
    if t = 0 then none else some { ev := e, ts := t, since := id : Seen })
  { w with seen := w.seen ++ new }

/-- An acquire of events by threads of a wave, before its next access. -/
def Wave.learn (w : Wave) (evs : List Nat) (m : Lanes) : Wave := { w with st := w.st.learn evs m w.nextAcc }

/-- An acquire by threads of a wave of the machine. -/
def State.learn (s : State) (u : Nat) (evs : List Nat) (m : Lanes) : State :=
  if evs.isEmpty then s else s.updWave u (fun w => w.learn evs m)

/-! ### Races (R134, R135) -/

/-- An event is a write of an unpaired atomic at a common byte, of another agent, that does not happen before a read, and the two are not
mutually inclusive atomics. Own writes of common threads are in program order. -/
def Ev.racesWith (e : Ev) (r : Reader) (l n : Nat) : Bool :=
  !isA e.loc && overlap e.loc e.n l n && !(e.src.isSome && decide (e.src = r.src) && decide (e.ts &&& r.ts ≠ 0)) && !r.knows.contains e.id
  && (match r.rmw with
    | some (p, sc) => !inclusive p sc e.who e.scope
    | none => true)

/-- A read of n bytes races with an unpaired atomic write: its value is undefined. -/
def State.racing (s : State) (r : Reader) (l n : Nat) : Bool := s.evs.any (fun e => e.racesWith r l n)

/-- The atomic reads its location and may write it in one step. -/
def Access.isRmw (a : Access) : Bool :=
  match a.op with
  | .atomic op _ _ => decide (op ≠ .read ∧ op ≠ .write)
  | .load _ _ | .store _ => false

/-- A write of an unpaired atomic races with a read that it is owed to: another agent's, at a common byte, which does not happen before it and
which is no atomic that it is mutually inclusive with. -/
def Owed.paidBy (o : Owed) (e : Ev) (knows : List Nat) : Bool :=
  overlap o.loc o.n e.loc e.n && !(decide (e.src = some o.src) && decide (e.ts &&& o.ts ≠ 0)) && !knows.contains o.id
  && (match o.rmw with
    | some (p, sc) => !inclusive p sc e.who e.scope
    | none => true)

/-- An unpaired atomic write has issued: from now on it may be performed in any order, and the reads that it races with are owed it no longer
(R135). -/
def State.issueEvents (s : State) (u : Nat) (w : Wave) (a : Access) : State :=
  if a.unpairedWr then
    { s.addEvents u w a a.pieces with owed := s.owed.filter (fun o => !a.pieces.any (fun p =>
      o.paidBy (a.event u w 0 p) (s.known u w (a.agents p) a.id))) }
  else s

/-- A uniform access stands in the program order of each of its threads (R126): what any of them did before it happens before what any of
them does after it, and the accesses of theirs in flight happen before the later ones of all. -/
def State.issueUniform (s : State) (u : Nat) (w : Wave) (a : Access) : State :=
  if a.uni then
    let evs := s.known u w a.threads a.id
    s.updWave u (fun w => { w with
      st := w.st.learn evs a.threads (a.id + 1)
      inflight := w.inflight.map (fun (b : Access) => if b.reach &&& a.threads = 0 then b else { b with reach := b.reach ||| a.threads }) })
  else s

/-- Who reads a piece of an access. A load, and `lda`, race with an unpaired `sta` or `atom.*` whatever their scopes (20_ref_a_b.md, and Example
3 of R134, variant B); an `atom.*` with one that it is mutually inclusive with does not. -/
def State.readerOf (s : State) (u : Nat) (w : Wave) (a : Access) (p : Piece) : Reader :=
  { src := some u, ts := a.agents p, knows := s.known u w (a.agents p) a.id, rmw := if a.isRmw then some (w.place u, a.scope) else none }

/-! ### Releases and acquires (R133, R135) -/

/-- A release write comes to stand at a location. -/
def State.addSync (s : State) (y : Sync) : State :=
  if y.evs.isEmpty then s else { s with syncs := s.syncs ++ [y] }

/-- A write ends the release sequences at its location, and what has been noted of quantum atomics there. -/
def State.cutSyncs (s : State) (l n : Nat) : State :=
  if s.syncs.any (fun y => overlap y.loc y.n l n) || s.quants.any (fun q => overlap q.loc q.n l n) then
    { s with syncs := s.syncs.filter (fun y => !overlap y.loc y.n l n), quants := s.quants.filter (fun q => !overlap q.loc q.n l n) }
  else s

/-- The release sequences that a read of n bytes by an agent of a scope finds and is mutually inclusive with. -/
def State.syncsAt (s : State) (who : Place) (sc l n : Nat) : List Sync :=
  s.syncs.filter (fun y => overlap y.loc y.n l n && inclusive who sc y.who y.scope)

/-- What those pass on. -/
def evsOf (ys : List Sync) : List Nat := ys.foldl (fun l y => joinEvs l y.evs) []

/-- What an atomic's read of a piece acquires: at once by an acquire, with a later acquire fence by a relaxed read. A non-ordering read tells
nothing, and neither does a speculative one before it is validated. -/
def State.atomHears (s : State) (u : Nat) (w : Wave) (a : Access) (use : Nat) (p : Piece) : State :=
  if use = 2 ∨ use = 4 then s
  else
    let m := a.agents p
    if a.acq then
      let evs := evsOf (s.syncsAt (w.place u) a.scope p.loc p.n)
      if evs.isEmpty then s else s.updWave u (fun w => { w with st := w.st.learn evs m (a.id + 1) })
    else
      let ys := s.syncs.filter (fun y => overlap y.loc y.n p.loc p.n)
      if ys.isEmpty then s
      else s.updWave u (fun w => { w with st := { w.st with heard := w.st.heard ++ (ys.map (fun y => { ts := m, sync := y : Heard })).filter (fun h => !w.st.heard.contains h) } })

/-- What a release by threads of a wave passes on at an access: what happens before it, and what a release fence of theirs orders before it. -/
def State.releaseEvs (s : State) (u : Nat) (w : Wave) (m : Lanes) (id : Nat) : List Nat :=
  (w.st.fences.filter (fun f => decide (f.ts &&& m ≠ 0) && decide (f.since ≤ id))).foldl (fun l f => joinEvs l f.evs) (s.known u w m id)

/-- What the end of a wave, or a release for all of its threads, passes on. -/
def State.allPasses (s : State) (u : Nat) (w : Wave) : List Nat := s.releaseEvs u w (BitVec.allOnes 32) w.nextAcc

/-- What a release of the active threads passes on as they issue it. -/
def Ctx.passes (c : Ctx) : List Nat := c.s.releaseEvs c.u c.w c.act c.w.nextAcc

/-- What an atomic's write of a piece leaves for others to acquire: the release sequences that it goes on with, `old`, and its own release, which
passes on what an acq_rel one's own read acquires, or those of the release fences before a relaxed write. A non-ordering atomic joins none. -/
def State.atomTells (s : State) (u : Nat) (w : Wave) (a : Access) (use : Nat) (old : List Sync) (p : Piece) : State :=
  if use = 2 then s
  else
    let m := a.agents p
    let mine (sc : Nat) (evs : List Nat) : Sync := { loc := p.loc, n := p.n, who := w.place u, scope := sc, evs := evs }
    let s1 : State := if a.isRmw && !old.isEmpty then { s with syncs := s.syncs ++ old } else s
    if a.rel then
      let heard := if a.acq then evsOf (old.filter (fun y => inclusive (w.place u) a.scope y.who y.scope)) else []
      s1.addSync (mine a.scope (joinEvs (s.releaseEvs u w m a.id) heard))
    else (w.st.fences.filter (fun f => decide (f.ts &&& m ≠ 0) && decide (f.since ≤ a.id))).foldl (fun t f => t.addSync (mine f.scope f.evs)) s1

/-- An acquire fence of threads of a wave at a scope takes what their relaxed reads heard. -/
def Wave.takeHeard (w : Wave) (u : Nat) (m : Lanes) (sc : Nat) : Wave :=
  w.learn (evsOf ((w.st.heard.filter (fun h => decide (h.ts &&& m ≠ 0) && inclusive (w.place u) sc h.sync.who h.sync.scope)).map (·.sync))) m

/-- A release fence of threads of a wave: their later writes carry what happens before it. -/
def Wave.relFence (w : Wave) (m : Lanes) (sc : Nat) (evs : List Nat) : Wave :=
  if evs.isEmpty then w
  else { w with st := { w.st with
    fences := w.st.fences.filter (fun f => !(decide (f.ts &&& ~~~m = 0) && decide (f.scope = sc))) ++ [{ ts := m, scope := sc, since := w.nextAcc, evs := evs }] } }

/-- Events happen before what Trailhead does. -/
def State.tellTrailhead (s : State) (evs : List Nat) : State := if evs.isEmpty then s else { s with thSeen := joinEvs s.thSeen evs }

/-- A release by an agent outside every core at `.fab`, as Trailhead's stores are (R197, R205). -/
def State.thSync (s : State) (l n : Nat) : State := s.addSync { loc := l, n := n, who := { wave := none, cores := [] }, scope := 4, evs := s.thSeen }

/-! ### Hosts and peers (R165) -/

/-- The agents of an endpoint: they lie outside every core. -/
abbrev outPlace : Place := { wave := none, cores := [] }

/-- An agent of an endpoint outside acquires at `.fab` what release sequences at a location pass on. -/
def State.outHears (s : State) (ep l n : Nat) : State :=
  let evs := evsOf (s.syncsAt outPlace 4 l n)
  if evs.isEmpty then s else { s with outSeen := Map.insert s.outSeen ep (joinEvs ((Map.find? s.outSeen ep).getD []) evs) }

/-- A write of an agent of an endpoint outside stands at a location: it goes on with the release sequences `old`, as a read-modify-write does, and a
release at `.fab` passes on what happens before it. -/
def State.outTells (s : State) (ep l n : Nat) (rel : Bool) (old : List Sync) : State :=
  let s1 : State := if old.isEmpty then s else { s with syncs := s.syncs ++ old }
  if rel then s1.addSync { loc := l, n := n, who := outPlace, scope := 4, evs := (Map.find? s.outSeen ep).getD [] } else s1

/-! ### Quantum atomics (R135) -/

/-- The atomic is of the use quantum. -/
def Access.isQuantum (a : Access) : Bool :=
  match a.op with
  | .atomic _ _ use => decide (use = 3)
  | .load _ _ | .store _ => false

/-- The name of a piece of an access. -/
def Access.qname (a : Access) (u : Nat) (p : Piece) : QName := (u, a.id, p.t)

/-- The quantum atomics performed at a location. -/
def State.quantsAt (s : State) (l n : Nat) : List QOp := s.quants.filter (fun q => decide (q.loc = l ∧ q.n = n))

/-- A piece of an atomic as a quantum atomic of a given number. -/
def Access.qop (s : State) (u : Nat) (w : Wave) (a : Access) (id old : Nat) (p : Piece) (saw : List QName) : QOp :=
  let ot : AtomOp × Nat := match a.op with
    | .atomic op ty _ => (op, ty)
    | .load _ _ | .store _ => (.read, 0)
  { id := id, name := a.qname u p, ts := a.agents p, loc := p.loc, n := p.n, op := ot.1, ty := ot.2, data := p.data, data2 := p.data2, old := old,
    knows := s.known u w (a.agents p) a.id, saw := saw }

/-- The quantum atomics in flight at a location; their number is one that no event has. -/
def State.quantsToCome (s : State) (l n : Nat) : List QOp :=
  s.waves.flatMap (fun e => (e.2.inflight.filter (·.isQuantum)).flatMap (fun a =>
    (a.pieces.filter (fun p => decide (p.loc = l ∧ p.n = n))).map (fun p => a.qop s e.1 e.2 s.nextEv 0 p [])))

/-- A quantum atomic's piece has been performed: those before it in its interleaving are the ones chosen, else all that were performed before. -/
def State.noteQuantum (s : State) (u : Nat) (w : Wave) (a : Access) (before : List QOp) (old : Nat) (p : Piece) : State :=
  let saw := if p.got.isSome then p.saw else before.map (·.name)
  { s with quants := s.quants.filter (fun q => !decide (q.loc = p.loc ∧ q.n = p.n)) ++ before ++ [a.qop s u w s.nextEv old p saw], nextEv := s.nextEv + 1 }

/-- Another read of a wave's threads finds the quantum atomics performed at its bytes: none of theirs afterwards precedes one of those (R130). -/
def State.seeQuantums (s : State) (u : Nat) (w : Wave) (a : Access) (p : Piece) : State :=
  let here := s.quants.filter (fun q => overlap q.loc q.n p.loc p.n)
  if here.isEmpty then s
  else ((here.map (fun q => (q.loc, q.n))).eraseDups).foldl (fun s e =>
    let q : QOp := { a.qop s u w s.nextEv 0 p ((s.quantsAt e.1 e.2).map (·.name)) with op := .read, loc := e.1, n := e.2 }
    { s with quants := s.quants ++ [q], nextEv := s.nextEv + 1 }) s

/-- An order of quantum atomics is one that an interleaving can give (R130, R135): no atomic twice, and each after those of its own thread that
precede it in program order and those that happen before it. -/
def quantumOrder (all via : List QOp) : Bool :=
  (via.map (·.name)).Nodup && via.zipIdx.all (fun e =>
    all.all (fun q => !((q.isOf e.1.name.1 e.1.ts && decide (q.name.2.1 < e.1.name.2.1)) || e.1.knows.contains q.id)
      || ((via.take e.2).map (·.name)).contains q.name))

/-- A reading of a quantum atomic by a thread may take a list of quantum atomics before it (R130, R135): it has in it the thread's own earlier ones,
what it has seen, and what happens before it, and none of the thread's own that follow. -/
def quantumView (all via : List QOp) (me : QOp) : Bool :=
  let names := via.map (·.name)
  let own := all.filter (fun q => q.isOf me.name.1 me.ts && decide (q.name.2.1 < me.name.2.1))
  (own.flatMap (fun q => q.name :: q.saw)).all (fun x => names.contains x || !(all.map (·.name)).contains x)
  && all.all (fun q => !me.knows.contains q.id || names.contains q.name)
  && via.all (fun q => !(q.isOf me.name.1 me.ts && decide (me.name.2.1 ≤ q.name.2.1)))

end Sys2Proof.Machine
end

