-- ==== Sys2Proof/Machine/Undo.lean ====
section
/-! DEFINITION. Checkpoints, clean points, the undo logs and pinning (R237 to R242, R191). -/

namespace Sys2Proof.Machine

/-! ### Macros that are over -/

/-- An operation of a core's control store; a word not listed is zero. -/
def CoreSt.macWord (k : CoreSt) (m i : Nat) : Word := (Map.find? k.macs (32 * m + i)).getD 0

/-- The gang of a slice leaves the control store: the `mcall` is complete (R339). -/
def Wave.leaveMac (w : Wave) (sl : Nat) : Wave :=
  { w with st := w.st.updSlices (w.st.gangOf sl) (fun _ x => { x with pc := x.pc + 4, mac := none, wait := none }) }

/-- The gang of a slice has run the last operation of its macro: the next word is zero, which takes no dispatch (R339). -/
def State.macOver (s : State) (w : Wave) (sl : Nat) : Bool :=
  match (w.st.slice sl).mac with
  | some m => decide ((s.core w.core).macWord m.m m.i = 0)
  | none => false

/-! ### Clean points -/

/-- A recursion-run call of the wave's core group is in progress. -/
def CoreSt.callOf (k : CoreSt) (grp : Nat) : Bool :=
  match k.run with
  | some r => decide (r.grp = grp) && !r.calls.isEmpty
  | none => false

/-- The wave takes part in the run of its core (R180). -/
def CoreSt.runWave (k : CoreSt) (u : Nat) : Bool :=
  match k.run with
  | some r => r.snaps.any (fun x => x.w == u)
  | none => false

/-- The wave is inside a routine call. -/
def CoreSt.inCall (k : CoreSt) (u : Nat) : Bool :=
  match k.run with
  | some r => (Map.find? r.calls u).isSome
  | none => false

/-- An ordinary store. -/
def Access.isStore (a : Access) : Bool :=
  match a.op with
  | .store _ => true
  | .load _ _ | .atomic _ _ _ => false

/-- The wave is at a clean point (R237), its own seven conditions. A gang that has run the last operation of its macro stands at no operation of it
(R339). -/
def State.cleanOne (s : State) (u : Nat) (w : Wave) : Bool :=
  w.st.regs.allFull && !w.posted.any (·.glob)
  && decide ((s.core w.core).baton ≠ some u) && !(s.core w.core).eng.any (fun o => o.wave == u)
  && !(s.core w.core).callOf w.group
  && (List.range 8).all (fun i => w.st.finished i || (w.st.slice i).mac.isNone || s.macOver w i)
  && w.st.trap.isNone && !w.inflight.any (·.isStore)

/-- The waves that take their checkpoint together with a wave: those of its run (R191), or it alone. -/
def State.together (s : State) (u : Nat) (w : Wave) : List Nat :=
  match (s.core w.core).run with
  | some r => if r.snaps.any (fun x => x.w == u) then r.snaps.map (·.w) else [u]
  | none => [u]

/-- A wave, and every wave that takes its checkpoint together with it, is at a clean point. -/
def State.clean (s : State) (u : Nat) : Bool :=
  match s.wave? u with
  | none => false
  | some w => (s.together u w).all (fun x => match s.wave? x with
    | some y => s.cleanOne x y
    | none => true)

/-! ### Checkpoints -/

/-- The wave with its log entries freed. -/
def Wave.clearLogs (w : Wave) : Wave := { w with regLog := [], memLog := [], bufLog := [], tileLog := [] }

/-- The wave with a new checkpoint: the region closes, the pin and the attempt end (R238, R241, R305). Log entry 15: DESIGN CHOICE. -/
def Wave.snap (w : Wave) (inRun : Bool) : Wave :=
  let st := { w.st with region := false }
  { w.clearLogs with st := st, ck := st, ckRun := inRun, pinned := false, attempt := none, ckAcc := w.nextAcc, lantern := none }

/-- The open region of a wave no longer counts as auditable: Lantern's count goes back by it (R265). -/
def State.uncount (s : State) (u : Nat) : State :=
  match s.wave? u with
  | none => s
  | some w =>
    if w.counted then
      (s.updWave u (fun w => { w with counted := false })).updCluster (clusterOf w.core) (fun k => { k with lantCount := k.lantCount - 1 })
    else s

/-- The waves of a run, or a wave alone, take a checkpoint; the run's state is held with it (R191). -/
def State.checkpoint (s : State) (u : Nat) : State :=
  match s.wave? u with
  | none => s
  | some w =>
    let k := s.core w.core
    let s' := (s.together u w).foldl (fun s x => (s.uncount x).updWave x (fun y => y.snap (k.runWave u))) s
    if k.runWave u then s'.updCore w.core (fun k => { k with runCk := Map.set k.runCk w.group k.run }) else s'

/-- Takes a checkpoint when the wave is clean. -/
def State.takeCkpt (s : State) (u : Nat) : State := if s.clean u then s.checkpoint u else s

/-- A wave with a pin: its log entries are discarded and its stores are no longer logged (R241). -/
def Wave.pin (w : Wave) : Wave :=
  { w.clearLogs with pinned := true, st := { w.st with region := false }, lantern := none }

/-- The wave becomes pinned (R241). -/
def State.pinNow (s : State) (u : Nat) : State := (s.uncount u).updWave u Wave.pin

/-! ### Logs -/

/-- Room in a full log (R242): the clean waves that hold entries take a checkpoint, the others that do, and the writer, are pinned. -/
def State.relieve (s : State) (u : Nat) (holders : List Nat) : State :=
  (holders.foldl (fun s x => if x = u then s else if s.clean x then s.checkpoint x else s.pinNow x) s).pinNow u

/-- The waves that share a register undo log with a wave and hold entries in it: those of its quad (R240). -/
def State.regHolders (s : State) (w : Wave) : List (Nat × Wave) :=
  s.waves.filter (fun e => decide (e.2.core = w.core) && decide (e.2.quad = w.quad) && e.2.plain && !e.2.regLog.isEmpty)

/-- The register undo log of the wave's quad, after an instruction of the wave, when it holds more than its 256 entries (R240, R242). -/
def State.relieveRegs (s : State) (u : Nat) : State :=
  match s.wave? u with
  | none => s
  | some w =>
    let hs := s.regHolders w
    if hs.foldl (fun n e => n + e.2.regLog.length) 0 > 256 then s.relieve u (hs.map (·.1)) else s

/-- After an irrevocable instruction (R241): what it wrote has found its room in the register log (R242), the region closes, and the wave
takes a checkpoint if it is clean and is pinned if not. -/
def State.irrevocable (s : State) (u : Nat) : State :=
  let s1 := s.relieveRegs u
  if s1.clean u then s1.checkpoint u else s1.pinNow u

/-- Lines that a wave holds in the memory undo log: 12 for each tile row (R240). -/
def Wave.memUse (w : Wave) : Nat := w.memLog.length + 12 * w.tileLog.length

/-- The waves that share a memory undo log with a wave and hold entries in it: those of its cluster. -/
def State.memHolders (s : State) (w : Wave) : List (Nat × Wave) :=
  s.waves.filter (fun e => decide (clusterOf e.2.core = clusterOf w.core) && e.2.plain && decide (e.2.memUse > 0))

/-- The waves that share a buffer undo log with a wave and hold entries in it: those of its core. -/
def State.bufHolders (s : State) (w : Wave) : List (Nat × Wave) :=
  s.waves.filter (fun e => decide (e.2.core = w.core) && e.2.plain && !e.2.bufLog.isEmpty)

/-- Room for `n` more lines of the memory undo log, which holds 2,048. -/
def State.roomMem (s : State) (u : Nat) (w : Wave) (n : Nat) : State :=
  let hs := s.memHolders w
  if hs.foldl (fun k e => k + e.2.memUse) 0 + n > 2048 then s.relieve u (hs.map (·.1)) else s

/-- Room for `n` more entries of the buffer undo log, which holds 256. -/
def State.roomBuf (s : State) (u : Nat) (w : Wave) (n : Nat) : State :=
  let hs := s.bufHolders w
  if hs.foldl (fun k e => k + e.2.bufLog.length) 0 + n > 256 then s.relieve u (hs.map (·.1)) else s

/-- The keys, lines or sectors of `unit` bytes, that n bytes from l on touch. -/
def blocksOf (unit l n : Nat) : List Nat :=
  if n = 0 then [] else (List.range ((l + n - 1) / unit + 1 - l / unit)).map (· + l / unit)

/-- Adds the old value of a byte to an entry that does not hold it. -/
def LogEnt.add (e : LogEnt) (l : Nat) (b : Byte) : LogEnt :=
  if (Map.find? e.old l).isSome then e else { e with old := Map.insert e.old l b }

/-- A log with the old bytes of one block that a write of n bytes from l on touches, and the poison of the sectors that the wave writes there for the
first time (R240, R390). -/
def logBlock (m : Mem) (poison : List Nat) (unit l n : Nat) (log : List LogEnt) (key : Nat) : List LogEnt :=
  let here := (List.range n).filterMap (fun i => if (l + i) / unit = key then some (l + i) else none)
  let fresh (e : LogEnt) (x : Nat) : Bool := here.any (fun l => decide (l / 32 = x)) && !e.old.any (fun c => decide (c.1 / 32 = x))
  let fill (e : LogEnt) : LogEnt := here.foldl (fun e x => e.add x (m.read x)) { e with poison := e.poison ++ poison.filter (fresh e) }
  if log.any (fun e => e.key == key) then log.map (fun e => if e.key = key then fill e else e)
  else fill { key := key, old := [], poison := [] } :: log

/-- Logs what an ordinary store of a wave is about to overwrite (R239 to R242). Peer memory and registers are never logged. -/
def State.logStore (s : State) (u l n : Nat) : State :=
  match s.wave? u with
  | none => s
  | some w =>
    if w.pinned then s
    else if isHbm l then
      if w.st.region then s
      else
        let ks := blocksOf 128 l n
        let new := ks.filter (fun k => !w.memLog.any (fun e => e.key == k))
        let s1 := s.roomMem u w new.length
        s1.updWave u (fun w => if w.pinned then w else { w with memLog := ks.foldl (logBlock s.mem s.poison 128 l n) w.memLog })
    else if isSA l then
      if w.st.region && isSpaceS l then s
      else
        let ks := blocksOf 32 l n
        let new := ks.filter (fun k => !w.bufLog.any (fun e => e.key == k))
        let s1 := s.roomBuf u w new.length
        s1.updWave u (fun w => if w.pinned then w else { w with bufLog := ks.foldl (logBlock s.mem s.poison 32 l n) w.bufLog })
    else s

/-- Bytes of a row of the C buffer: 256 slots. -/
abbrev rowBytes : Nat := 1536

/-- Logs the tile rows that an operation of a wave is about to write, with the tile's E and Q (R240). -/
def State.logTile (s : State) (u core c : Nat) (rows : List Nat) : State :=
  match s.wave? u with
  | none => s
  | some w =>
    if w.pinned then s
    else
      let new := rows.filter (fun r => !w.tileLog.any (fun e => e.row == r))
      let s1 := s.roomMem u w (12 * new.length)
      let k := s.core core
      let ents := new.map (fun r => { row := r, old := s.mem.bytes (locC core + rowBytes * r) rowBytes, tag := Map.find? k.tags r, c := c,
                                      e := Map.find? k.ce c, q := k.cq.contains c,
                                      poison := s.poison.filter (sectorsOf (locC core + rowBytes * r) rowBytes).contains : TileLog })
      s1.updWave u (fun w => if w.pinned then w else { w with tileLog := ents ++ w.tileLog })

end Sys2Proof.Machine
end

