-- ==== Sys2Proof/Machine/Lantern.lean ====
section
/-! DEFINITION. Lantern, the silent-error auditor: picks, signatures and what makes a region unauditable (R265, R368). -/

namespace Sys2Proof.Machine

/-- One bit of CRC-64 (ECMA-182). -/
def crcBit (c : DWord) : DWord := if c.getLsbD 63 then (c <<< 1) ^^^ 0x42F0E1EBA9EA3693 else c <<< 1

/-- CRC-64 (ECMA-182) of a list of bytes. -/
def crc64 (bs : List Byte) : DWord :=
  bs.foldl (fun (c : DWord) (b : Byte) => (List.range 8).foldl (fun (c : DWord) _ => crcBit c) (c ^^^ ((b.zeroExtend 64 : DWord) <<< 56))) 0

/-- The record of a store: thread, store index, address, 8 data bytes. -/
def storeRecord (t i addr data : Nat) : List Byte := natLe 4 t ++ natLe 4 i ++ natLe 8 addr ++ natLe 8 data

/-- The record of a varying register at `rgn.e`: its number, and the CRC of its 128 bytes for the data (log entry 27, DESIGN CHOICE). -/
def regRecord (r : Regs) (n : Nat) : List Byte :=
  let x := r.v.getD n (Vector.replicate 32 0)
  natLe 4 0xFFFFFFFF ++ natLe 4 n ++ natLe 8 0 ++ natLe 8 (crc64 ((List.range 32).flatMap (fun t => natLe 4 (x.getD t 0).toNat))).toNat

/-- Changes one of the copies that a cluster's Lantern holds. -/
def State.updCopy (s : State) (cluster i : Nat) (f : LantCopy → LantCopy) : State :=
  s.updCluster cluster (fun k => { k with lant := k.lant.map (fun e => if e.1 = i then (e.1, f e.2) else e) })

/-- Changes Lantern's copy for a wave's open region. -/
def State.updPick (s : State) (u : Nat) (f : LantCopy → LantCopy) : State :=
  match s.wave? u with
  | none => s
  | some w => match w.lantern with
    | none => s
    | some i => s.updCopy (clusterOf w.core) i f

/-- Drops the pick of a wave's open region. -/
def State.dropPick (s : State) (u : Nat) : State :=
  match s.wave? u with
  | none => s
  | some w => match w.lantern with
    | none => s
    | some i => (s.updCluster (clusterOf w.core) (fun k => { k with lant := k.lant.erase i })).updWave u (fun w => { w with lantern := none })

/-- A wave's open region is not auditable: it no longer counts, and a pick of it is dropped. -/
def State.unaudit (s : State) (u : Nat) : State := (s.uncount u).dropPick u

/-- The stage-2 entry of an address of a wave's space lacks write permission. -/
def State.readOnly (s : State) (w : Wave) (va : Nat) : Bool :=
  let cs := s.rcOf w.core
  let part := s.partOfWave w
  let space := s.spaceOfWave w
  let e1 := match cached cs 1 part space va with
    | some e => some e
    | none => match searchTables (s.ipaRead cs part (clusterOf w.core)) 1 part space va with
      | .ok e => some e
      | .error _ => none
  match e1 with
  | none => false
  | some e => match s.stage2 cs part (clusterOf w.core) (e.tgt + (va - e.lo)) with
    | .ok (x, _) => decide (x.perm &&& needWrite = 0)
    | .error _ => false

/-- The records of a store's piece, of 8 data bytes each; `i` numbers the stores of its thread. -/
def pieceRecords (p : Piece) (i : Nat) : List (List Byte) :=
  (List.range ((p.n + 7) / 8)).map (fun k => storeRecord p.t i (p.va + 8 * k) (p.data / 2 ^ (64 * k) % 2 ^ 64))

/-- A signature with the CRCs of records added, modulo 2^64. -/
def addRecords (sig : DWord) (l : List (List Byte)) : DWord := l.foldl (fun x r => x + crc64 r) sig

/-- A store's piece in the signature of the region's own run. -/
def LantCopy.addPiece (c : LantCopy) (p : Piece) : LantCopy :=
  let i := (Map.find? c.stores p.t).getD 0
  { c with sig := addRecords c.sig (pieceRecords p i), stores := Map.insert c.stores p.t (i + 1) }

/-- A store's piece in the signature of the replay. -/
def LantCopy.rePiece (c : LantCopy) (p : Piece) : LantCopy :=
  let i := (Map.find? c.restores p.t).getD 0
  { c with resig := addRecords c.resig (pieceRecords p i), restores := Map.insert c.restores p.t (i + 1) }

/-- An access whose loads or stores keep a region auditable: loads of global ranges, wherever they lie, that stage 2 does not let be written,
and stores to global memory. A store to a peer is irrevocable (R241). -/
def State.auditable (s : State) (w : Wave) (a : Access) : Bool :=
  match a.op with
  | .load _ _ => a.pieces.all (fun p => !isSA p.loc && s.readOnly w p.va)
  | .store _ => a.pieces.all (fun p => isHbm p.loc)
  | .atomic _ _ _ => false

/-- The wave without an access in flight. -/
def Wave.without (w : Wave) (id : Nat) : Wave := { w with inflight := w.inflight.filter (fun b => b.id ≠ id) }

/-- What an access that issues in an open region does to Lantern's audit: what makes the region unauditable ends it; a store enters the
signature, and a hidden wave's is not performed. -/
def State.audit (s : State) (u : Nat) (a : Access) : State :=
  match s.wave? u with
  | none => s
  | some w =>
    match w.hidden with
    | some i => (match a.op with
        | .store _ => (s.updCopy (clusterOf w.core) i (fun c => a.pieces.foldl LantCopy.rePiece c)).updWave u (fun w => w.without a.id)
        | .load _ _ => s
        | .atomic _ _ _ => s.updWave u (fun w => { w.without a.id with ending := true }))
    | none =>
      if !w.counted && w.lantern.isNone then s
      else if !s.auditable w a then s.unaudit u
      else match a.op with
        | .store _ => s.updPick u (fun c => a.pieces.foldl LantCopy.addPiece c)
        | .load _ _ | .atomic _ _ _ => s

/-- The copies that are of use: closed ones, and those of regions still open. -/
def State.livePicks (s : State) (cluster : Nat) : Map LantCopy :=
  (s.cluster cluster).lant.filter (fun e => e.2.closed || (match s.wave? e.2.w with
    | some w => decide (w.lantern = some e.1)
    | none => false))

/-- A region opens at `rgn.i`: Lantern counts it among the auditable ones until it proves not to be, and picks it when it is one of every
PERIOD and one of the 16 places is free. Log entry 27: DESIGN CHOICE. -/
def State.openRegion (s : State) (u : Nat) : State :=
  match s.wave? u with
  | none => s
  | some w =>
    let cl := clusterOf w.core
    let k := s.cluster cl
    let n := k.lantCount + 1
    let period := k.lantPeriod.toNat
    let s1 := (s.setCluster cl { k with lantCount := n }).updWave u (fun w => { w with counted := true })
    if w.hidden.isSome then s
    else if period = 0 ∨ n % period ≠ 0 then s1
    else
      let live := s.livePicks cl
      match (List.range 16).find? (fun i => (Map.find? live i).isNone) with
      | none => s1.updCluster cl (fun k => { k with lant := live })
      | some i =>
        let c : LantCopy := { w := u, ck := w.ck, sig := 0, stores := [], closed := false, core := w.core, valloc := w.valloc, group := w.group,
                              replay := none, resig := 0, restores := [], second := none }
        (s1.updCluster cl (fun k => { k with lant := Map.insert live i c })).updWave u (fun w => { w with lantern := some i })

/-- What the registers of the allocation add to a signature at `rgn.e`. -/
def Wave.regSum (w : Wave) (sig : DWord) : DWord := addRecords sig ((List.range w.valloc).map (regRecord w.st.regs))

/-- A region closes at `rgn.e`: it was auditable if it still counts, its registers enter the signature, and the copy waits for its replay. -/
def State.closePick (s : State) (u : Nat) : State :=
  match s.wave? u with
  | none => s
  | some w => (s.updPick u (fun c => { c with sig := w.regSum c.sig, closed := true })).updWave u (fun w => { w with lantern := none, counted := false })

end Sys2Proof.Machine
end

