-- ==== Sys2Proof/Machine/Access.lean ====
section
/-! DEFINITION. Loads, stores and atomics up to the point where they are in flight: effective addresses, the checks of R107 and R112,
walks, and the instructions `ld`, `st`, `ldu`, `stu`, `pf` (R55, R109 to R113, R124, R330, R333, R355, R378, R381). -/

namespace Sys2Proof.Machine

/-- The kinds of access that R106 tells apart. -/
inductive AccKind where
  | load | store | atomic
deriving DecidableEq, Repr

/-- The base register that a memory word names. -/
abbrev Ctx.base (c : Ctx) (b : Fin 8) : BReg := c.r.b.getD b.val ⟨0, 0⟩

/-- `EA(O, t)`: base plus sign-extended offset (R79). -/
def Ctx.ea (c : Ctx) (b : Fin 8) (o : Operand) (t : Nat) : DWord := (c.base b).base + (c.r.src o t).signExtend 64

/-- The first and last C slot that n bytes from an address of a view on touch (R108). -/
def slotSpan (raw : Bool) (addr n : Nat) : Nat × Nat :=
  let w := if raw then 8 else 4
  (addr / w, (addr + n - 1) / w)

/-- n bytes from an address on lie within the core group's allocation of a typed buffer (R107). -/
def inAlloc (g : Group) (tag : BitVec 3) (addr n : Nat) : Bool :=
  if tag = 1 then decide (g.sOff ≤ addr ∧ addr + n ≤ g.sOff + g.sLen)
  else if tag = 2 then decide (g.aOff ≤ addr ∧ addr + n ≤ g.aOff + g.aLen)
  else
    let (lo, hi) := slotSpan (decide (tag = 4)) addr n
    decide (1024 * g.cUnit ≤ lo ∧ hi < 1024 * (g.cUnit + g.cLen))

/-- The table of R106 admits the access, and the view its size (R107, R108). -/
def viewOk (k : AccKind) (tag : BitVec 3) (n : Nat) : Bool :=
  match k with
  | .load => if tag = 3 then decide (n ≥ 4) else if tag = 4 then decide (n ≥ 8) else true
  | .store => decide (tag.toNat ≤ 2)
  | .atomic => decide (tag.toNat ≤ 1)

/-- SPF for one thread: a typed buffer's bounds, the table of R106, or the view's sizes. A wave with no core group has no buffer. -/
def Ctx.spf (c : Ctx) (k : AccKind) (tag : BitVec 3) (addr : DWord) (n : Nat) : Bool :=
  if tag = 0 then false
  else match c.s.group? c.w.group with
    | none => true
    | some g => !inAlloc g tag addr.toNat n || !viewOk k tag n

/-- Location of an address of a typed buffer's space. -/
def bufLoc (core : Nat) (tag : BitVec 3) (addr : Nat) : Nat :=
  if tag = 1 then locS core + addr else if tag = 2 then locA core + addr
  else if tag = 3 then locF32 core + addr else locRaw core + addr

/-- The set of the given threads for which a condition holds. -/
def maskWhere (ts : List Nat) (f : Nat → Bool) : Lanes := (ts.filter f).foldl (fun m t => m ||| ((1 : Lanes) <<< t)) 0

/-- Raises a trap for the threads that meet a condition, with the address of the lowest; passes when none does. -/
def trapWhere (x : Cause) (ts : List Nat) (uni : Option Lanes) (addr : Nat → DWord) (s2 : Nat → Bool) (f : Nat → Bool) : Chk Unit :=
  match ts.find? f with
  | none => .ok ()
  | some t => .error (.trap x (match uni with
    | some m => m
    | none => maskWhere ts f) (addr t) (s2 t))

/-- A translation that failed as TRF (`pmf` false) or PMF. -/
def failedAs (pmf : Bool) : Except XErr XRes → Bool
  | .ok _ => false
  | .error e => e.isAs pmf

/-- A translation that failed at stage 2. -/
def failedS2 : Except XErr XRes → Bool
  | .ok _ => false
  | .error e => e.atS2

/-- A translation that is undefined (R120). -/
def undefinedXlate : Except XErr XRes → Bool
  | .error .undef => true
  | .error (.mk _ _) | .ok _ => false

/-- The location that a thread's access gets. -/
def okLoc : Except XErr XRes → XRes
  | .ok r => r
  | .error _ => { loc := 0, cache := false, found := [] }

/-- The checks of R112 over the contributing threads: SPF, ALF, TRF, PMF; then PRV for a register of view P outside the privileged view (R6, R253;
log entry 66, DEDUCED), and every thread's location. A uniform access, checked as one thread, reports the active set in TRMASK. Where a translation is undefined, the gang is left blocked (R10, R120; log entry 58, DESIGN
CHOICE). -/
def Ctx.locate (c : Ctx) (k : AccKind) (need : BitVec 4) (b : Fin 8) (n : Nat) (ts : List Nat) (uni : Bool) (addr : Nat → DWord) :
    Chk (List (Nat × XRes)) := do
  let tag := (c.base b).tag
  let um := if uni then some c.act else none
  trapWhere .spf ts um addr (fun _ => false) (fun t => c.spf k tag (addr t) n)
  trapWhere .alf ts um addr (fun _ => false) (fun t => decide ((addr t).toNat % n ≠ 0))
  if tag = 0 then
    let xs := ts.map (fun t => (t, c.s.xlateWave c.w (addr t).toNat need))
    let of (t : Nat) : Except XErr XRes := ((xs.find? (fun e => e.1 == t)).map (·.2)).getD (.error (.mk false false))
    trapWhere .trf ts um addr (fun t => failedS2 (of t)) (fun t => failedAs false (of t))
    trapWhere .pmf ts um addr (fun t => failedS2 (of t)) (fun t => failedAs true (of t))
    trapWhere .prv ts um (fun _ => 0) (fun _ => false) (fun t => c.w.tp.isNone && !c.w.st.privileged && apPrivate (okLoc (of t)).loc n)
    c.until (!xs.any (fun e => undefinedXlate e.2))
    pure (xs.map (fun e => (e.1, okLoc e.2)))
  else pure (ts.map (fun t => (t, { loc := bufLoc c.w.core tag (addr t).toNat, cache := false, found := [] })))

/-! ### Going into flight -/

/-- The range-cache entries that the accesses of an instruction found nowhere cached, each once. -/
def missing (xs : List (Nat × XRes)) : List RcEnt := xs.foldl (fun l e => l ++ e.2.found.filter (fun x => !l.contains x)) []

/-- Everything of an access but its number. -/
structure NewAcc where
  /-- operation -/
  op : AccOp
  /-- destination -/
  dst : Option Dst
  /-- registers of it -/
  nreg : Nat
  /-- pieces -/
  pieces : List Piece
  /-- issuing threads -/
  threads : Lanes
  /-- scope -/
  scope : Nat
  /-- acquire -/
  acq : Bool
  /-- release -/
  rel : Bool
  /-- seq_cst -/
  sc : Bool
  /-- performed once for its threads together (R126) -/
  uni : Bool

/-- The access with its number, issued by the gang of a slice. -/
def NewAcc.number (a : NewAcc) (id : Nat) (x : Slice) (lead : Nat) : Access :=
  { pc := x.pc, mac := x.mac, lead := lead, id := id, op := a.op, dst := a.dst, nreg := a.nreg, pieces := a.pieces, threads := a.threads, scope := a.scope, acq := a.acq,
    rel := a.rel, sc := a.sc, uni := a.uni, sent := none, hurt := none }

/-- The register of the undo log behind a destination. -/
def Dst.regId : Dst → RegId
  | .v n => .v n
  | .s n => .s n

/-- An access goes into flight: its destination becomes empty, and is logged (R44, R240). -/
def Wave.push (w : Wave) (a : NewAcc) (sl : Nat) : Wave :=
  let ds := match a.dst with
    | some d => d.span a.nreg
    | none => []
  let w1 := ds.foldl (fun w d => w.logReg d.regId) w
  let w2 := w1.setRegs (ds.foldl (fun r d => r.mark d true) w.st.regs)
  { w2 with inflight := w.inflight ++ [a.number w.nextAcc (w.st.slice sl) sl], nextAcc := w.nextAcc + 1 }

/-- Issues an access and moves on; the writes of an unpaired atomic are events from here on (R135), and a uniform access orders its threads (R126). -/
def Ctx.send (c : Ctx) (a : NewAcc) (es : List RcEnt) : State :=
  let x := a.number c.w.nextAcc (c.w.st.slice c.sl) c.sl
  ((((c.put (c.w.push a c.sl)).issueEvents c.u c.w x).issueUniform c.u c.w x).joinWalk c.w.core [(c.u, c.w.nextAcc)] es).audit c.u x

/-- Part h of a thread's access: n bytes from 8 × h on, of the data from there. -/
def pieceAt (t : Nat) (x : XRes) (va n data h : Nat) : Piece :=
  { t := t, loc := x.loc + 8 * h, va := va + 8 * h, n := n, data := data / 2 ^ (64 * h) % 2 ^ (8 * n), data2 := 0, cache := x.cache, word := 2 * h,
    got := none, saw := [] }

/-- The pieces of the threads' accesses: one a thread, but two of 8 bytes for a q access (R129); of an aperture, which takes no such access
(R253), one. -/
def piecesOf (xs : List (Nat × XRes)) (addr : Nat → DWord) (n : Nat) (data : Nat → Nat) : List Piece :=
  xs.flatMap (fun e =>
    let two := decide (n = 16) && !isAperture e.2.loc
    let p := pieceAt e.1 e.2 (addr e.1).toNat (if two then 8 else n) (data e.1)
    if two then [p 0, p 1] else [p 0])

/-- Bytes of a size code (R55). -/
def sizeBytes (sz : BitVec 3) : Nat := 2 ^ sz.toNat

/-- The operands for k consecutive registers from one on. -/
def regSpan (d : Operand) (k : Nat) : List Operand :=
  match d with
  | .v n => (List.range k).map (fun i => .v (Fin.ofNat 64 (n.val + i)))
  | .s n => (List.range k).map (fun i => .s (Fin.ofNat 32 (n.val + i)))
  | .a _ | .p _ | .k _ | .zero | .lane | .par1 | .par2 | .imm _ => [d]

/-- Classes that an address offset of a per-thread access admits: all but predicates. -/
def isOffset (o : Operand) : Bool := !isPred o

/-- The k registers from vn on, for one thread, as one number, the lowest first. -/
def Regs.wide (r : Regs) (d : Operand) (k t : Nat) : Nat :=
  ((regSpan d k).zipIdx).foldl (fun x p => x + (r.src p.1 t).toNat * 2 ^ (32 * p.2)) 0

/-- An ordinary load of the contributing threads. -/
def ordLoad (sx nt : Bool) (d : Operand) (k : Nat) (ps : List Piece) (m : Lanes) (uni : Bool) : NewAcc :=
  { op := .load sx nt, dst := dstOf d, nreg := k, pieces := ps, threads := m, scope := 0, acq := false, rel := false, sc := false,
    uni := uni }

/-- An ordinary store of the contributing threads. -/
def ordStore (nt : Bool) (ps : List Piece) (m : Lanes) (uni : Bool) : NewAcc :=
  { op := .store nt, dst := none, nreg := 0, pieces := ps, threads := m, scope := 0, acq := false, rel := false, sc := false,
    uni := uni }

/-- LD (R330). -/
def execLd (d o : Operand) (b : Fin 8) (sz : BitVec 3) (sx nt : Bool) (s : State) : Host.Outcome State Fault Refusal :=
  issueState s (fun c => do
    let k := sizeRegs sz
    c.start (.ld d o b sz sx nt) false [d, o]
    c.guardOk
    c.need (decide (clsOf d = .vary) && isOffset o) .opc
    c.alloc (o :: regSpan d k)
    if c.hit = 0 then pure (c.put c.w) else do
      c.afo o true
      c.reads [(o, false)]
      let addr := c.ea b o
      let xs ← c.locate .load needRead b (sizeBytes sz) (threadsOf c.hit) false addr
      c.free ((dstOf d).toList.flatMap (·.span k))
      pure (c.send (ordLoad sx nt d k (piecesOf xs addr (sizeBytes sz) (fun _ => 0)) c.hit false) (missing xs)))

/-- LDU (R333). -/
def execLdu (d o : Operand) (b : Fin 8) (sz : BitVec 3) (sx nt : Bool) (s : State) : Host.Outcome State Fault Refusal :=
  issueState s (fun c => do
    let k := sizeRegs sz
    c.start (.ldu d o b sz sx nt) true [d, o]
    c.guardOk
    c.need (isS d && isUni o) .opc
    c.noPGuard
    c.uwp
    if !c.kOn then pure (c.put c.w) else do
      c.reads [(o, false)]
      let addr := c.ea b o
      let xs ← c.locate .load needRead b (sizeBytes sz) [0] true addr
      c.free ((dstOf d).toList.flatMap (·.span k))
      pure (c.send (ordLoad sx nt d k (piecesOf xs addr (sizeBytes sz) (fun _ => 0)) c.act true) (missing xs)))

/-- A store to peer memory is irrevocable (R241). -/
def State.peerIrrevocable (s : State) (u : Nat) (xs : List (Nat × XRes)) : State :=
  if xs.any (fun e => isPeer e.2.loc) then s.irrevocable u else s

/-- ST (R378). -/
def execSt (d o : Operand) (b : Fin 8) (sz : BitVec 3) (nt : Bool) (s : State) : Host.Outcome State Fault Refusal :=
  issueState s (fun c => do
    let k := sizeRegs sz
    c.start (.st d o b sz nt) false [d, o]
    c.guardOk
    c.need (decide (clsOf d = .vary) && isOffset o) .opc
    c.alloc (o :: regSpan d k)
    if c.hit = 0 then pure (c.put c.w) else do
      c.afo o true
      c.reads ((o, false) :: (regSpan d k).map (fun x => (x, false)))
      let addr := c.ea b o
      let xs ← c.locate .store needWrite b (sizeBytes sz) (threadsOf c.hit) false addr
      let ps := piecesOf xs addr (sizeBytes sz) (fun t => c.r.wide d k t % 2 ^ (8 * sizeBytes sz))
      pure ((c.send (ordStore nt ps c.hit false) (missing xs)).peerIrrevocable c.u xs))

/-- STU (R381). -/
def execStu (d o : Operand) (b : Fin 8) (sz : BitVec 3) (sx nt : Bool) (s : State) : Host.Outcome State Fault Refusal :=
  issueState s (fun c => do
    let k := sizeRegs sz
    c.start (.stu d o b sz sx nt) true [d, o]
    c.guardOk
    c.need (isS d && isUni o) .opc
    c.noPGuard
    if !c.kOn then pure (c.put c.w) else do
      c.reads ((o, false) :: (regSpan d k).map (fun x => (x, false)))
      let addr := c.ea b o
      let xs ← c.locate .store needWrite b (sizeBytes sz) [0] true addr
      let ps := piecesOf xs addr (sizeBytes sz) (fun t => c.r.wide d k t % 2 ^ (8 * sizeBytes sz))
      pure ((c.send (ordStore nt ps c.act true) (missing xs)).peerIrrevocable c.u xs))

/-! ### Prefetch -/

/-- A 32-byte sector of memory as a value. -/
def Mem.sector (m : Mem) (k : Nat) : BitVec 256 := BitVec.ofNat 256 (leNat (m.bytes (32 * k) 32))

/-- Sectors of a core data cache of 64 KiB (R16). -/
abbrev dcacheSectors : Nat := 2048

/-- Brings a sector into a core's data cache; a poisoned one is never held (R390). -/
def State.fillSector (s : State) (core k : Nat) : State :=
  if s.poison.contains k || (Map.find? (s.core core).dcache k).isSome then s
  else s.updCore core (fun x => { x with dcache := Map.cached x.dcache dcacheSectors k (s.mem.sector k) })

/-- PF (R111, R355): what would trap is skipped; a line of a peer, of an NC range or of a typed buffer is not held. -/
def execPf (o : Operand) (b : Fin 8) (sz : BitVec 3) (nt : Bool) (s : State) : Host.Outcome State Fault Refusal :=
  issueState s (fun c => do
    c.start (.pf o b sz nt) false [o]
    c.guardOk
    c.need (isOffset o) .opc
    c.alloc [o]
    if c.hit = 0 then pure (c.put c.w) else do
      c.reads [(o, false)]
      let skip := match o with
        | .a n => (c.r.a.getD n.val ⟨0, 0, false⟩).ov && modeAOT c.mm
        | .v _ | .s _ | .p _ | .k _ | .zero | .lane | .par1 | .par2 | .imm _ => false
      let n := sizeBytes sz
      let keys := if skip || nt || decide ((c.base b).tag ≠ 0) then [] else
        (threadsOf c.hit).filterMap (fun t =>
          let va := (c.ea b o t).toNat
          if va % n ≠ 0 then none
          else match c.s.xlateWave c.w va needRead with
            | .ok r => if r.cache then some (sectorOf r.loc) else none
            | .error _ => none)
      pure (keys.foldl (fun s k => s.fillSector c.w.core k) (c.put c.w)))

end Sys2Proof.Machine
end

