-- ==== Sys2Proof/Machine/Float.lean ====
section
/-! DEFINITION. Numbers: the floating-point formats as exact values, rounding by every mode, and conversions between element types
(R80 to R96, R309, R319, R321). A finite value is (−1)^neg × m × 2^e, held exactly. -/

namespace Sys2Proof.Machine

/-- Bits of a number, 0 for 0. -/
def bitLen (n : Nat) : Nat := if n = 0 then 0 else n.log2 + 1

/-- A value of a floating-point type. -/
inductive FpVal where
  /-- not a number -/
  | nan
  /-- infinity, with its sign -/
  | inf (neg : Bool)
  /-- (−1)^neg × m × 2^e; a zero keeps its sign -/
  | fin (neg : Bool) (m : Nat) (e : Int)
deriving DecidableEq, Repr, Inhabited

/-- An IEEE format (R83): exponent bits and fraction bits. -/
structure Fmt where
  /-- exponent bits -/
  eb : Nat
  /-- fraction bits -/
  fb : Nat
deriving DecidableEq, Repr, Inhabited

/-- F32. -/
def f32 : Fmt := ⟨8, 23⟩
/-- F16. -/
def f16 : Fmt := ⟨5, 10⟩
/-- BF16. -/
def bf16 : Fmt := ⟨8, 7⟩
/-- The layout of E4M3, whose last code alone is not a number (R87). -/
def e4m3 : Fmt := ⟨4, 3⟩
/-- E5M2 (R87). -/
def e5m2 : Fmt := ⟨5, 2⟩

/-- Precision: fraction bits and the hidden one. -/
abbrev Fmt.p (f : Fmt) : Nat := f.fb + 1
/-- Exponent of the smallest subnormal. -/
abbrev Fmt.emin (f : Fmt) : Int := 2 - (2 ^ (f.eb - 1) : Nat) - f.fb
/-- Bits of infinity without the sign. -/
abbrev Fmt.infBits (f : Fmt) : Nat := (2 ^ f.eb - 1) * 2 ^ f.fb
/-- `Canon(T)` (R84). -/
abbrev Fmt.canon (f : Fmt) : Nat := f.infBits + 2 ^ (f.fb - 1)
/-- The sign bit in place. -/
abbrev Fmt.sign (f : Fmt) (neg : Bool) : Nat := if neg then 2 ^ (f.eb + f.fb) else 0

/-- Magnitude of a code with a finite value: exponent field and fraction. -/
def Fmt.magnitude (f : Fmt) (x : Nat) : Nat × Int :=
  let ex := x / 2 ^ f.fb % 2 ^ f.eb
  let fr := x % 2 ^ f.fb
  if ex = 0 then (fr, f.emin) else (fr + 2 ^ f.fb, f.emin + ex - 1)

/-- The value of an IEEE code. -/
def Fmt.val (f : Fmt) (x : Nat) : FpVal :=
  let neg := decide (x / 2 ^ (f.eb + f.fb) % 2 = 1)
  if x / 2 ^ f.fb % 2 ^ f.eb = 2 ^ f.eb - 1 then (if x % 2 ^ f.fb = 0 then .inf neg else .nan)
  else .fin neg (f.magnitude x).1 (f.magnitude x).2

/-- The value of an E4M3 code (R87). -/
def valE4m3 (x : Nat) : FpVal :=
  if x % 128 = 127 then .nan else .fin (decide (x / 128 % 2 = 1)) (e4m3.magnitude x).1 (e4m3.magnitude x).2

/-! ### Rounding (R85, R86) -/

/-- Rounding modes by MODE.RM; codes above 5 are reserved. -/
abbrev rmValid (rm : Nat) : Bool := decide (rm ≤ 5)

/-- Whether a magnitude lo + rem / 2^sh of lo' = lo goes to lo + 1. `g` is the stochastic draw. -/
def roundsUp (rm : Nat) (neg : Bool) (lo rem sh : Nat) (g : BitVec 16) : Bool :=
  if rem = 0 then false
  else match rm with
    | 0 => decide (2 * rem > 2 ^ sh) || (decide (2 * rem = 2 ^ sh) && decide (lo % 2 = 1))
    | 1 => false
    | 2 => !neg
    | 3 => neg
    | 4 => decide (2 * rem ≥ 2 ^ sh)
    | _ => decide (rem * 2 ^ 16 / 2 ^ sh + g.toNat ≥ 2 ^ 16)

/-- m × 2^e rounded to a multiple of 2^q: the multiple. -/
def roundAt (rm : Nat) (neg : Bool) (g : BitVec 16) (m : Nat) (e q : Int) : Nat :=
  if q ≤ e then m * 2 ^ (e - q).toNat
  else
    let sh := (q - e).toNat
    let lo := m / 2 ^ sh
    if roundsUp rm neg lo (m % 2 ^ sh) sh g then lo + 1 else lo

/-- m × 2^e rounded to a format's precision with the exponent range unbounded above, as the code without sign that the format's pattern
continues to. -/
def Fmt.roundMag (f : Fmt) (rm : Nat) (neg : Bool) (g : BitVec 16) (m : Nat) (e : Int) : Nat :=
  if m = 0 then 0
  else
    let q := max f.emin (e + bitLen m - f.p)
    roundAt rm neg g m e q + (q - f.emin).toNat * 2 ^ f.fb

/-- `RoundTo` into F32, F16 and BF16: the code (R84 to R86). -/
def Fmt.round (f : Fmt) (rm : Nat) (g : BitVec 16) (v : FpVal) : Nat :=
  match v with
  | .nan => f.canon
  | .inf neg => f.infBits + f.sign neg
  | .fin neg m e =>
    let x := f.roundMag rm neg g m e
    let y := if x < f.infBits then x
      else if rm = 1 ∨ (rm = 2 ∧ neg) ∨ (rm = 3 ∧ !neg) then f.infBits - 1 else f.infBits
    y + f.sign neg

/-- Conversion into E4M3 (R88). -/
def roundE4m3 (rm : Nat) (sat : Bool) (g : BitVec 16) (v : FpVal) : Nat :=
  match v with
  | .nan => 0x7F
  | .inf neg => if sat then 0x7E + e4m3.sign neg else 0x7F
  | .fin neg m e =>
    let x := e4m3.roundMag rm neg g m e
    if x ≤ 0x7E then x + e4m3.sign neg else if sat then 0x7E + e4m3.sign neg else 0x7F

/-- Conversion into E5M2 (R88). -/
def roundE5m2 (rm : Nat) (sat : Bool) (g : BitVec 16) (v : FpVal) : Nat :=
  let top (neg : Bool) : Nat :=
    (if sat ∨ rm = 1 ∨ (rm = 2 ∧ neg) ∨ (rm = 3 ∧ !neg) then 0x7B else 0x7C) + e5m2.sign neg
  match v with
  | .nan => 0x7E
  | .inf neg => top neg
  | .fin neg m e =>
    let x := e5m2.roundMag rm neg g m e
    if x ≤ 0x7B then x + e5m2.sign neg else top neg

/-- A finite value rounded to an integer. -/
def roundInt (rm : Nat) (g : BitVec 16) (neg : Bool) (m : Nat) (e : Int) : Int :=
  let x : Int := roundAt rm neg g m e 0
  if neg then -x else x

/-- Conversion into an integer type of n bits (R93). -/
def roundToInt (rm : Nat) (sat : Bool) (g : BitVec 16) (n : Nat) (sg : Bool) (v : FpVal) : Int :=
  let hi : Int := if sg then (2 ^ (n - 1) : Nat) - 1 else (2 ^ n : Nat) - 1
  let lo : Int := if sg then -(2 ^ (n - 1) : Nat) else 0
  match v with
  | .nan => 0
  | .inf neg => if sat then (if neg then lo else hi) else 0
  | .fin neg m e => let x := roundInt rm g neg m e; if sat then clampElem n sg x else x

/-! ### Exact arithmetic -/

/-- A finite value as a multiple of 2^q, for q ≤ e. -/
def scaled (neg : Bool) (m : Nat) (e q : Int) : Int :=
  let x : Int := (m * 2 ^ (e - q).toNat : Nat)
  if neg then -x else x

/-- a + b, exact (R319). A zero sum of operands that are not both zeros of one sign is +0, and −0 under RDN. -/
def FpVal.add (rm : Nat) (a b : FpVal) : FpVal :=
  match a, b with
  | .nan, .nan | .nan, .inf _ | .nan, .fin _ _ _ | .inf _, .nan | .fin _ _ _, .nan => .nan
  | .inf x, .inf y => if x = y then .inf x else .nan
  | .inf x, .fin _ _ _ => .inf x
  | .fin _ _ _, .inf y => .inf y
  | .fin x m e, .fin y n d =>
    let q := min e d
    let s := scaled x m e q + scaled y n d q
    if s = 0 then .fin (if m = 0 ∧ n = 0 ∧ x = y then x else decide (rm = 3)) 0 q else .fin (decide (s < 0)) s.natAbs q

/-- The value with its sign inverted. -/
def FpVal.neg : FpVal → FpVal
  | .nan => .nan
  | .inf x => .inf (!x)
  | .fin x m e => .fin (!x) m e

/-- a × b, exact. -/
def FpVal.mul (a b : FpVal) : FpVal :=
  match a, b with
  | .nan, .nan | .nan, .inf _ | .nan, .fin _ _ _ | .inf _, .nan | .fin _ _ _, .nan => .nan
  | .inf x, .inf y => .inf (x != y)
  | .inf x, .fin y n _ => if n = 0 then .nan else .inf (x != y)
  | .fin x m _, .inf y => if m = 0 then .nan else .inf (x != y)
  | .fin x m e, .fin y n d => .fin (x != y) (m * n) (e + d)

/-- a < b; false when either is not a number. +0 and −0 are equal. -/
def FpVal.lt (a b : FpVal) : Bool :=
  match a, b with
  | .nan, .nan | .nan, .inf _ | .nan, .fin _ _ _ | .inf _, .nan | .fin _ _ _, .nan => false
  | .inf x, .inf y => x && !y
  | .inf x, .fin _ _ _ => x
  | .fin _ _ _, .inf y => !y
  | .fin x m e, .fin y n d => let q := min e d; decide (scaled x m e q < scaled y n d q)

/-- Not a number. -/
def FpVal.isNan : FpVal → Bool
  | .nan => true
  | .inf _ | .fin _ _ _ => false

/-- a = b, ordered. -/
def FpVal.eq (a b : FpVal) : Bool := !a.isNan && !b.isNan && !a.lt b && !b.lt a

/-- The sign. -/
def FpVal.isNeg : FpVal → Bool
  | .nan => false
  | .inf x => x
  | .fin x _ _ => x

/-- a comes before b in the order of minimumNumber and maximumNumber, where −0 is below +0 (R84). -/
def FpVal.below (a b : FpVal) : Bool := a.lt b || (a.eq b && a.isNeg && !b.isNeg)

/-! ### Element types -/

/-- A floating-point type of R82: format, width and number of elements. -/
def floatType (t : Nat) : Option (Fmt × Nat × Nat) :=
  match t with
  | 2 => some (f32, 32, 1)
  | 3 => some (f16, 16, 1)
  | 4 => some (bf16, 16, 1)
  | 5 => some (f16, 16, 2)
  | 6 => some (bf16, 16, 2)
  | _ => none

/-- Element k of width n, as its code. -/
abbrev code (n : Nat) (x : Word) (k : Nat) : Nat := x.toNat / 2 ^ (n * k) % 2 ^ n

/-- A word from the codes of its `cnt` elements; the bits above are cleared (R80). -/
def packCodes (n cnt : Nat) (f : Nat → Nat) : Word :=
  BitVec.ofNat 32 ((List.range cnt).foldl (fun x k => x + f k % 2 ^ n * 2 ^ (n * k)) 0)

/-- An integer as an exact value. -/
def intVal (x : Int) : FpVal := .fin (decide (x < 0)) x.natAbs 0

/-- A source word of a floating-point instruction: an immediate gives its integer value in every element (R309). -/
def Regs.fsrc (r : Regs) (ty : Nat) (o : Operand) (t : Nat) : Word :=
  match o with
  | .imm x => match floatType ty with
    | some (f, n, cnt) => packCodes n cnt (fun _ => f.round 0 0 (intVal (immWord x).toInt))
    | none => immWord x
  | .v _ | .s _ | .a _ | .p _ | .k _ | .zero | .lane | .par1 | .par2 => r.src o t

/-- A floating-point operation element by element; the operation sees the element number, for its draw. -/
def fpElems (ty : Nat) (op : Fmt → Nat → FpVal → FpVal → FpVal → Nat) (a b d : Word) : Word :=
  match floatType ty with
  | none => 0
  | some (f, n, cnt) => packCodes n cnt (fun k => op f k (f.val (code n a k)) (f.val (code n b k)) (f.val (code n d k)))

/-! ### `cvt` (R92, R93, R313) -/

/-- Width, number of elements and signedness of an element type by the code of R64; for `cvt`. -/
def typeShape (t : Nat) : Option (Nat × Nat) :=
  match t with
  | 0 | 1 | 2 => some (32, 1)
  | 3 | 4 => some (16, 1)
  | 5 | 6 | 7 | 8 => some (16, 2)
  | 9 | 10 => some (8, 4)
  | 11 | 12 => some (8, 1)
  | _ => none

/-- Kinds of element in `cvt`. -/
inductive Kind where
  | int (n : Nat) (sg : Bool)
  | flt (f : Fmt)
  | fp8 (e4 : Bool)
deriving DecidableEq, Repr

/-- The kind of a type's elements. -/
def kindOf (t : Nat) : Kind :=
  match intType t with
  | some (n, sg) => .int n sg
  | none => match floatType t with
    | some (f, _, _) => .flt f
    | none => .fp8 (decide (t = 11))

/-- One element converted from a type to another. -/
def cvtElem (src dst : Nat) (rm : Nat) (sat : Bool) (g : BitVec 16) (x : Nat) : Nat :=
  let out (v : FpVal) : Nat :=
    match kindOf dst with
    | .int n sg => (roundToInt rm sat g n sg v % (2 ^ n : Nat)).toNat
    | .flt f => f.round rm g v
    | .fp8 true => roundE4m3 rm sat g v
    | .fp8 false => roundE5m2 rm sat g v
  match kindOf src with
  | .int n sg =>
    let v : Int := if sg then signExt x n else (x : Int)
    (match kindOf dst with
    | .int m sg' => ((if sat then clampElem m sg' v else v) % (2 ^ m : Nat)).toNat
    | .flt _ | .fp8 _ => out (intVal v))
  | .flt f => if src = dst then (if (f.val x).isNan then f.canon else x) else out (f.val x)
  | .fp8 true => if src = dst then (if (valE4m3 x).isNan then 0x7F else x) else out (valE4m3 x)
  | .fp8 false => if src = dst then (if (e5m2.val x).isNan then 0x7E else x) else out (e5m2.val x)

/-- A word converted element by element; draws are by element. -/
def cvtWord (src dst : Nat) (rm : Nat) (sat : Bool) (g : Nat → BitVec 16) (x : Word) : Word :=
  match typeShape src, typeShape dst with
  | some (n, cnt), some (m, _) => packCodes m cnt (fun k => cvtElem src dst rm sat (g k) (code n x k))
  | none, none | none, some _ | some _, none => 0

/-! ### Block scales (R89, R94 to R96) -/

/-- A finite value divided by 2^(e − 127). -/
def FpVal.unscale (e : Nat) : FpVal → FpVal
  | .nan => .nan
  | .inf x => .inf x
  | .fin x m q => .fin x m (q - ((e : Int) - 127))

/-- `cvt8` of one value (R95). -/
def cvt8Code (ty e rm : Nat) (sat : Bool) (g : BitVec 16) (x : Word) : Nat :=
  let v := if e = 255 then FpVal.nan else (f32.val x.toNat).unscale e
  if ty = 11 then roundE4m3 rm sat g v else roundE5m2 rm sat g v

/-- `bsq` of one value (R96). -/
def bsqCode (ty e rm : Nat) (g : BitVec 16) (x : Word) : Nat :=
  let n := if ty = 9 then 8 else 4
  if e = 255 then 0
  else match (f32.val x.toNat).unscale e with
    | .nan => 0
    | .inf neg => if neg then 2 ^ (n - 1) else 2 ^ (n - 1) - 1
    | .fin neg m q => (clampElem n true (roundInt rm g neg m (q + if ty = 9 then 6 else 2)) % (2 ^ n : Nat)).toNat

/-- ⌊log2⌋ of a positive value. -/
def floorLog2 (m : Nat) (e : Int) : Int := e + bitLen m - 1

/-- The scale of `bsc` from the contributing values (R94). -/
def bscScale (ty : Nat) (vs : List FpVal) : Nat :=
  let emax : Int := if ty = 11 then 8 else if ty = 12 then 15 else 0
  let bad := vs.any (fun v => match v with
    | .nan | .inf _ => true
    | .fin _ _ _ => false)
  let logs := vs.filterMap (fun v => match v with
    | .fin _ m e => if m = 0 then none else some (floorLog2 m e)
    | .nan | .inf _ => none)
  if bad then 255
  else match logs with
    | [] => 127
    | x :: r =>
      let y := r.foldl max x - emax + 127
      if y < 0 then 0 else if y > 254 then 254 else y.toNat

end Sys2Proof.Machine
end

