-- ==== Sys2Proof/Machine/Fpu.lean ====
section
/-! DEFINITION. The floating-point instructions, conversions and block scales (R92 to R96, R298, R299, R309, R313, R314, R318 to R321). -/

namespace Sys2Proof.Machine

/-- The stochastic draw of an element of a thread, for the instruction that issues now (R86). -/
def Ctx.draw (c : Ctx) (t k : Nat) : BitVec 16 := Config.draw (c.s.drawCtr + 4 * t + k)

/-- Draws that one instruction may take. -/
abbrev drawsPer : Nat := 4096

/-- The machine with the wave changed and moved past the instruction; draws are used up when `rm` is the stochastic mode. -/
def Ctx.putDraw (c : Ctx) (w : Wave) (rm : Nat) : State :=
  let s := c.put w
  if rm = 5 then { s with drawCtr := s.drawCtr + drawsPer } else s

/-- Runs a meaning that changes only its wave, and may draw under the rounding mode it gives. -/
def issueDraw (s : State) (f : Ctx → Chk (Wave × Nat)) : Host.Outcome State Fault Refusal :=
  issueState s (fun c => match f c with
    | .ok p => .ok (c.putDraw p.1 p.2)
    | .error e => .error e)

/-- A floating-point instruction (R318): the types of R82; MODE.RM when it rounds. -/
def Ctx.fpOp (c : Ctx) (i : Instr) (d : Operand) (srcs : List (Operand × Bool)) (useRm : Bool)
    (op : Nat → Fmt → BitVec 16 → FpVal → FpVal → FpVal → Nat) (a b : Operand) : Chk (Wave × Nat) := do
  let rm := modeRM c.mx
  c.regChecks i true d srcs ((floatType (modeT c.mx)).isSome && (!useRm || rmValid rm)) (varyUniOk d srcs)
  let ty := modeT c.mx
  pure (c.write d (fun t => fpElems ty (fun f k x y z => op rm f (c.draw t k) x y z)
    (c.r.fsrc ty a t) (c.r.fsrc ty b t) (c.r.src d t)), if useRm then rm else 0)

/-- A floating-point instruction of two sources. -/
def Ctx.fp2 (c : Ctx) (i : Instr) (d a b : Operand) (useRm : Bool) (op : Nat → Fmt → BitVec 16 → FpVal → FpVal → Nat) :
    Chk (Wave × Nat) :=
  c.fpOp i d [(a, true), (b, false)] useRm (fun rm f g x y _ => op rm f g x y) a b

/-- FADD (R319). -/
def execFadd (d a b : Operand) (s : State) : Host.Outcome State Fault Refusal :=
  issueDraw s (fun c => c.fp2 (.fadd d a b) d a b true (fun rm f g x y => f.round rm g (x.add rm y)))
/-- FSUB (R319). -/
def execFsub (d a b : Operand) (s : State) : Host.Outcome State Fault Refusal :=
  issueDraw s (fun c => c.fp2 (.fsub d a b) d a b true (fun rm f g x y => f.round rm g (x.add rm y.neg)))
/-- FMUL (R319). -/
def execFmul (d a b : Operand) (s : State) : Host.Outcome State Fault Refusal :=
  issueDraw s (fun c => c.fp2 (.fmul d a b) d a b true (fun rm f g x y => f.round rm g (x.mul y)))
/-- FMA (R319): rounded once. -/
def execFma (d a b : Operand) (s : State) : Host.Outcome State Fault Refusal :=
  issueDraw s (fun c => c.fpOp (.fma d a b) d [(a, true), (b, false), (d, false)] true
    (fun rm f g x y z => f.round rm g ((x.mul y).add rm z)) a b)

/-- minimumNumber (R84). -/
def FpVal.min (a b : FpVal) : FpVal := if a.isNan then b else if b.isNan then a else if b.below a then b else a
/-- maximumNumber (R84). -/
def FpVal.max (a b : FpVal) : FpVal := if a.isNan then b else if b.isNan then a else if a.below b then b else a

/-- FMIN (R319). -/
def execFmin (d a b : Operand) (s : State) : Host.Outcome State Fault Refusal :=
  issueDraw s (fun c => c.fp2 (.fmin d a b) d a b false (fun _ f _ x y => f.round 0 0 (x.min y)))
/-- FMAX (R319). -/
def execFmax (d a b : Operand) (s : State) : Host.Outcome State Fault Refusal :=
  issueDraw s (fun c => c.fp2 (.fmax d a b) d a b false (fun _ f _ x y => f.round 0 0 (x.max y)))

/-- The magnitude. -/
def FpVal.abs : FpVal → FpVal
  | .nan => .nan
  | .inf _ => .inf false
  | .fin _ m e => .fin false m e

/-- FABS (R320). -/
def execFabs (d a : Operand) (s : State) : Host.Outcome State Fault Refusal :=
  issueDraw s (fun c => c.fpOp (.fabs d a) d [(a, true)] false (fun _ f _ x _ _ => f.round 0 0 x.abs) a .zero)
/-- FNEG (R320). -/
def execFneg (d a : Operand) (s : State) : Host.Outcome State Fault Refusal :=
  issueDraw s (fun c => c.fpOp (.fneg d a) d [(a, true)] false (fun _ f _ x _ _ => f.round 0 0 x.neg) a .zero)

/-! ### Compares (R321) -/

/-- A relation for every element of a floating-point type. -/
def relFloat (ty : Nat) (rel : FpVal → FpVal → Bool) (a b : Word) : Bool :=
  match floatType ty with
  | none => false
  | some (f, n, cnt) => (List.range cnt).all (fun k => rel (f.val (code n a k)) (f.val (code n b k)))

/-- A floating-point compare: as R307, with its own types and sources. -/
def Ctx.fcmp (c : Ctx) (i : Instr) (d a b : Operand) (rel : FpVal → FpVal → Bool) : Chk Wave := do
  let ty := modeT c.mx
  let srcs := [(a, true), (b, false)]
  c.regChecks i true d srcs (floatType ty).isSome
    ((decide (clsOf d = .vpred) && srcs.all (fun p => isVaryUni p.1)) || (decide (clsOf d = .upred) && srcs.all (fun p => isUni p.1)))
  let one (t : Nat) : Bool := relFloat ty rel (c.r.fsrc ty a t) (c.r.fsrc ty b t)
  match d with
  | .p n => let m := lanesWhere one; pure ((c.w.putP n.val c.hit m).putP (n.val + 1) c.hit (~~~m))
  | .k n => pure (if c.kOn then (c.w.putK n.val (one 0)).putK (n.val + 1) (!one 0) else c.w)
  | .v _ | .s _ | .a _ | .zero | .lane | .par1 | .par2 | .imm _ => pure c.w

/-- FCMP_EQ (R321). -/
def execFcmpEq (d a b : Operand) (s : State) : Host.Outcome State Fault Refusal :=
  issueWave s (fun c => c.fcmp (.fcmpEq d a b) d a b (fun x y => x.eq y))
/-- FCMP_NE (R321). -/
def execFcmpNe (d a b : Operand) (s : State) : Host.Outcome State Fault Refusal :=
  issueWave s (fun c => c.fcmp (.fcmpNe d a b) d a b (fun x y => !x.eq y))
/-- FCMP_LT (R321). -/
def execFcmpLt (d a b : Operand) (s : State) : Host.Outcome State Fault Refusal :=
  issueWave s (fun c => c.fcmp (.fcmpLt d a b) d a b (fun x y => x.lt y))
/-- FCMP_LE (R321). -/
def execFcmpLe (d a b : Operand) (s : State) : Host.Outcome State Fault Refusal :=
  issueWave s (fun c => c.fcmp (.fcmpLe d a b) d a b (fun x y => x.lt y || x.eq y))
/-- FCMP_GT (R321). -/
def execFcmpGt (d a b : Operand) (s : State) : Host.Outcome State Fault Refusal :=
  issueWave s (fun c => c.fcmp (.fcmpGt d a b) d a b (fun x y => y.lt x))
/-- FCMP_GE (R321). -/
def execFcmpGe (d a b : Operand) (s : State) : Host.Outcome State Fault Refusal :=
  issueWave s (fun c => c.fcmp (.fcmpGe d a b) d a b (fun x y => y.lt x || x.eq y))
/-- FCMP_UN (R321). -/
def execFcmpUn (d a b : Operand) (s : State) : Host.Outcome State Fault Refusal :=
  issueWave s (fun c => c.fcmp (.fcmpUn d a b) d a b (fun x y => x.isNan || y.isNan))

/-! ### Conversions and block scales -/

/-- The type number of `cvt`'s third operand. -/
def cvtType : Operand → Nat
  | .imm x => x.toNat
  | .v _ | .s _ | .a _ | .p _ | .k _ | .zero | .lane | .par1 | .par2 => 0

/-- An immediate specifier. -/
def isImm : Operand → Bool
  | .imm _ => true
  | .v _ | .s _ | .a _ | .p _ | .k _ | .zero | .lane | .par1 | .par2 => false

/-- The two types of a `cvt` have as many elements. -/
def sameCount (a b : Nat) : Bool :=
  match typeShape a, typeShape b with
  | some (_, x), some (_, y) => decide (x = y)
  | none, none | none, some _ | some _, none => false

/-- CVT (R92, R313). A third operand that is not an immediate raises OPC. -/
def execCvt (d a b : Operand) (s : State) : Host.Outcome State Fault Refusal :=
  issueDraw s (fun c => do
    let ty := modeT c.mx
    let rm := modeRM c.mx
    c.regChecks (.cvt d a b) true d [(a, true)] (rmValid rm && (typeShape ty).isSome && (!isImm b || sameCount (cvtType b) ty))
      (varyUniOk d [(a, true)] && isImm b)
    pure (c.write d (fun t => cvtWord (cvtType b) ty rm (modeSAT c.mx) (c.draw t) (c.r.src a t)), rm))

/-- CVT8 (R95, R314). -/
def execCvt8 (d a b : Operand) (s : State) : Host.Outcome State Fault Refusal :=
  issueDraw s (fun c => do
    let ty := modeT c.mx
    let rm := modeRM c.mx
    c.regChecks (.cvt8 d a b) false d [(a, true), (b, false)] (rmValid rm && decide (ty = 11 ∨ ty = 12))
      (decide (clsOf d = .vary ∧ clsOf a = .vary) && isUni b)
    let e := (c.r.uni b).toNat % 256
    pure (c.write d (fun t => BitVec.ofNat 32 (cvt8Code ty e rm (modeSAT c.mx) (c.draw t 0) (c.r.src a t))), rm))

/-- BSQ (R96, R299). -/
def execBsq (d a b : Operand) (s : State) : Host.Outcome State Fault Refusal :=
  issueDraw s (fun c => do
    let ty := modeT c.mx
    let rm := modeRM c.mx
    c.regChecks (.bsq d a b) false d [(a, true), (b, false)] (rmValid rm && decide (ty = 9 ∨ ty = 10))
      (decide (clsOf d = .vary ∧ clsOf a = .vary) && isUni b)
    let e := (c.r.uni b).toNat % 256
    pure (c.write d (fun t => BitVec.ofNat 32 (bsqCode ty e rm (c.draw t 0) (c.r.src a t))), rm))

/-- MODE.G names a k predicate. -/
abbrev guardIsK (mx : Word) : Bool := (modeG mx).getLsbD 4

/-- BSC (R94, R298): UDI, OPC, MBF, FET. A false k guard leaves sD; a p guard selects the contributing threads. -/
def execBsc (d a : Operand) (s : State) : Host.Outcome State Fault Refusal :=
  issueWave s (fun c => do
    let ty := modeT c.mx
    c.start (.bsc d a) false [d, a]
    c.guardOk
    c.need (decide (ty = 9 ∨ ty = 10 ∨ ty = 11 ∨ ty = 12)) .udi
    c.need (isS d && decide (clsOf a = .vary)) .opc
    c.alloc [a]
    c.need (c.w.st.fullMember c.sl && decide (c.w.st.live = BitVec.allOnes 32)) .mbf
    if guardIsK c.mx && !c.kOn then pure c.w else do
      if c.hit = 0 then pure () else c.reads [(a, true)]
      c.free (dstOf d).toList
      let x := bscScale ty ((threadsOf c.hit).map (fun t => f32.val (c.r.src a t).toNat))
      match d with
      | .s n => pure (c.w.putS n.val (BitVec.ofNat 32 x))
      | .v _ | .a _ | .p _ | .k _ | .zero | .lane | .par1 | .par2 | .imm _ => pure c.w)

end Sys2Proof.Machine
end

