-- ==== Sys2Proof/Machine/Atomics.lean ====
section
/-! DEFINITION. The atomic instructions: `lda`, `sta` and `atom.*` up to the point where they are in flight, and the operation that each
performs there (R56, R128, R135, R212, R275 to R279, R331, R332, R380). -/

namespace Sys2Proof.Machine

/-- What one access writes, given the old value; none when it writes nothing (R276 to R278). -/
def atomNew (op : AtomOp) (ty old d d2 : Nat) : Option Nat :=
  let x : Word := BitVec.ofNat 32 old
  let y : Word := BitVec.ofNat 32 d
  match op with
  | .read => none
  | .write => some d
  | .add => some (elemwise ty false (fun a b _ => a + b) x y 0).toNat
  | .min => some (elemwise ty false (fun a b _ => if a ≤ b then a else b) x y 0).toNat
  | .max => some (elemwise ty false (fun a b _ => if a ≤ b then b else a) x y 0).toNat
  | .and => some (x &&& y).toNat
  | .or => some (x ||| y).toNat
  | .xor => some (x ^^^ y).toNat
  | .xchg => some d
  | .cas => if old = d then some d2 else none
  | .fadd => some (fpElems ty (fun f _ a b _ => f.round 0 0 (a.add 0 b)) x y 0).toNat
  | .inc => some (if old ≥ d then 0 else (x + 1).toNat)

/-- An acquire by its order code (R128). -/
def ordAcq (ord : Nat) : Bool := decide (ord = 2 ∨ ord = 4 ∨ ord = 5)
/-- A release by its order code. -/
def ordRel (ord : Nat) : Bool := decide (ord = 3 ∨ ord = 4 ∨ ord = 5)

/-- The operand for a data register of the class of D. -/
def dataReg (d : Operand) (r : Fin 32) : Operand :=
  match d with
  | .v _ => .v (Fin.ofNat 64 r.val)
  | .s _ | .a _ | .p _ | .k _ | .zero | .lane | .par1 | .par2 | .imm _ => .s r

/-- What `lda`, `sta` and `atom.*` share: class, guard, membership, reads, the checks of R112 and the pieces. `read` are the data
operands, `dst` the destination, `need` the permissions; `mk` gives the access from its pieces and threads, and whether it is performed once for them.
It is irrevocable where `irr` says so, whether or not some thread's guard is true: every `sta` and `atom.*` (R241, R275, R380). -/
def Ctx.atomic (c : Ctx) (i : Instr) (tOk : Bool) (d o : Operand) (b : Fin 8) (read : List Operand) (dst : Option Operand)
    (need : BitVec 4) (irr : Bool) (mk : List Piece → Lanes → Bool → NewAcc) : Chk State := do
  let vary := decide (clsOf d = .vary)
  let uniform := if dst.isSome then isS d else isUni d
  c.start i true (d :: o :: read)
  c.guardOk
  c.need (tOk && !modemReserved c.mm) .udi
  c.need ((vary && isOffset o) || (uniform && isUni o)) .opc
  c.alloc (d :: o :: read)
  if vary then pure () else c.noPGuard
  if !vary && dst.isSome then c.uwp else pure ()
  let ts := if vary then threadsOf c.hit else if c.kOn then [0] else []
  if ts.isEmpty then pure (if irr then (c.put c.w).irrevocable c.u else c.put c.w) else do
    if vary then c.afo o true else pure ()
    c.reads ((o, false) :: read.map (fun x => (x, false)))
    let addr := c.ea b o
    let xs ← c.locate .atomic need b 4 ts (!vary) addr
    c.free (dst.bind dstOf).toList
    let ps := (piecesOf xs addr 4 (fun t => (c.r.src (read.headD .zero) t).toNat)).map (fun p =>
      { p with data2 := (c.r.src (read.getD 1 .zero) p.t).toNat })
    let s' := c.send (mk ps (if vary then c.hit else c.act) (!vary)) (missing xs)
    pure (if irr then s'.irrevocable c.u else s')

/-- An access under an order code is relaxed: neither an acquire, where it reads, nor a release, where it writes (R128). -/
def ordRelaxed (reads writes : Bool) (ord : Nat) : Bool := !(reads && ordAcq ord) && !(writes && ordRel ord)

/-- An atomic with the order and scope of MODE.M, and its use when it is relaxed (R128, R135). -/
def atomAcc (mm : Word) (op : AtomOp) (ty : Nat) (dst : Option Dst) (reads writes : Bool) (ps : List Piece) (m : Lanes) (uni : Bool) : NewAcc :=
  let ord := modeORD mm
  { op := .atomic op ty (if ordRelaxed reads writes ord then modeAU mm else 0), dst := dst, nreg := 1, pieces := ps, threads := m,
    scope := modeSC mm, acq := reads && ordAcq ord, rel := writes && ordRel ord, sc := decide (ord = 5), uni := uni }

/-- LDA (R331, R332): an ordinary load under ORD none, with a load's permissions. Log entry 60: DESIGN CHOICE. -/
def execLda (d o : Operand) (b : Fin 8) (s : State) : Host.Outcome State Fault Refusal :=
  issueState s (fun c =>
    let plain := decide (modeORD c.mm = 0)
    c.atomic (.lda d o b) true d o b [] (some d) (if plain then needRead else needAtomic) false (fun ps m uni =>
      if plain then ordLoad false false d 1 ps m uni else atomAcc c.mm .read 0 (dstOf d) true false ps m uni))

/-- STA (R380): an ordinary store under ORD none, with a store's permissions. Log entry 60: DESIGN CHOICE. -/
def execSta (d o : Operand) (b : Fin 8) (s : State) : Host.Outcome State Fault Refusal :=
  issueState s (fun c =>
    let plain := decide (modeORD c.mm = 0)
    c.atomic (.sta d o b) true d o b [d] none (if plain then needWrite else needAtomic) true (fun ps m uni =>
      if plain then ordStore false ps m uni else atomAcc c.mm .write 0 none false true ps m uni))

/-- An `atom.*` (R275): its operation works on MODE.T when `ty` is some type, which `tOk` admits. -/
def Ctx.atom (c : Ctx) (i : Instr) (op : AtomOp) (d o : Operand) (b : Fin 8) (read : List Operand) (tOk : Bool) : Chk State :=
  c.atomic i tOk d o b read (some d) needAtomic true (fun ps m uni => atomAcc c.mm op (modeT c.mx) (dstOf d) true true ps m uni)

/-- The integer types of `atom.add`, `atom.min` and `atom.max`. -/
abbrev Ctx.tInt (c : Ctx) : Bool := (intType (modeT c.mx)).isSome

/-- ATOM_ADD (R276). -/
def execAtomAdd (d o : Operand) (b : Fin 8) (r : Fin 32) (s : State) : Host.Outcome State Fault Refusal :=
  issueState s (fun c => c.atom (.atomAdd d o b r) .add d o b [dataReg d r] c.tInt)
/-- ATOM_MIN (R276). -/
def execAtomMin (d o : Operand) (b : Fin 8) (r : Fin 32) (s : State) : Host.Outcome State Fault Refusal :=
  issueState s (fun c => c.atom (.atomMin d o b r) .min d o b [dataReg d r] c.tInt)
/-- ATOM_MAX (R276). -/
def execAtomMax (d o : Operand) (b : Fin 8) (r : Fin 32) (s : State) : Host.Outcome State Fault Refusal :=
  issueState s (fun c => c.atom (.atomMax d o b r) .max d o b [dataReg d r] c.tInt)
/-- ATOM_AND (R276). -/
def execAtomAnd (d o : Operand) (b : Fin 8) (r : Fin 32) (s : State) : Host.Outcome State Fault Refusal :=
  issueState s (fun c => c.atom (.atomAnd d o b r) .and d o b [dataReg d r] true)
/-- ATOM_OR (R276). -/
def execAtomOr (d o : Operand) (b : Fin 8) (r : Fin 32) (s : State) : Host.Outcome State Fault Refusal :=
  issueState s (fun c => c.atom (.atomOr d o b r) .or d o b [dataReg d r] true)
/-- ATOM_XOR (R276). -/
def execAtomXor (d o : Operand) (b : Fin 8) (r : Fin 32) (s : State) : Host.Outcome State Fault Refusal :=
  issueState s (fun c => c.atom (.atomXor d o b r) .xor d o b [dataReg d r] true)
/-- ATOM_XCHG (R276). -/
def execAtomXchg (d o : Operand) (b : Fin 8) (r : Fin 32) (s : State) : Host.Outcome State Fault Refusal :=
  issueState s (fun c => c.atom (.atomXchg d o b r) .xchg d o b [dataReg d r] true)
/-- ATOM_CAS (R277): compare value and new value from an even register pair. -/
def execAtomCas (d o : Operand) (b : Fin 8) (r : Fin 32) (s : State) : Host.Outcome State Fault Refusal :=
  issueState s (fun c => c.atom (.atomCas d o b r) .cas d o b [dataReg d r, dataReg d (Fin.ofNat 32 (r.val + 1))] true)
/-- ATOM_FADD (R278): f32 or bf16x2, under RNE. -/
def execAtomFadd (d o : Operand) (b : Fin 8) (r : Fin 32) (s : State) : Host.Outcome State Fault Refusal :=
  issueState s (fun c => c.atom (.atomFadd d o b r) .fadd d o b [dataReg d r] (decide (modeT c.mx = 2 ∨ modeT c.mx = 6)))
/-- ATOM_INC (R276). -/
def execAtomInc (d o : Operand) (b : Fin 8) (r : Fin 32) (s : State) : Host.Outcome State Fault Refusal :=
  issueState s (fun c => c.atom (.atomInc d o b r) .inc d o b [dataReg d r] true)

end Sys2Proof.Machine
end

