-- ==== Sys2Proof/Decode.lean ====
section
/-! DEFINITION. From bytes to instructions and back: the formats of R52, the operand specifier of R60, the opcode map of R68, and the
word that each well-formed instruction is written as. -/

namespace Sys2Proof

/-- Why a word is no instruction. Each of these raises UDI before any effect (R53), but for `tooShort`, which only a byte string of
fewer than four bytes meets. -/
inductive DecodeError where
  /-- the opcode is unassigned in the opcode map (R68) -/
  | unassignedOpcode
  /-- a reserved field is not zero (R53) -/
  | reservedField
  /-- a field holds a code that R54 to R60 call reserved, or an operand that its field forbids -/
  | reservedCode
  /-- fewer than four bytes -/
  | tooShort
deriving DecidableEq, Repr

/-- A bit field as a number below its range. -/
abbrev fin {n : Nat} (x : BitVec n) : Fin (2 ^ n) := x.toFin

/-- A number as a bit field. -/
abbrev bits (n : Nat) {m : Nat} (x : Fin m) : BitVec n := BitVec.ofNat n x.val

/-- The operand specifier of R60, read. -/
def decodeOperand (x : BitVec 8) : Operand :=
  if x.getLsbD 7 then .imm (x.extractLsb' 0 7)
  else if x.toNat < 0x40 then .v (Fin.ofNat 64 x.toNat)
  else if x.toNat < 0x60 then .s (Fin.ofNat 32 x.toNat)
  else if x.toNat < 0x70 then .a (Fin.ofNat 16 x.toNat)
  else if x.toNat < 0x78 then .p (Fin.ofNat 8 x.toNat)
  else if x.toNat < 0x7C then .k (Fin.ofNat 4 x.toNat)
  else if x.toNat = 0x7C then .zero
  else if x.toNat = 0x7D then .lane
  else if x.toNat = 0x7E then .par1
  else .par2

/-- The operand specifier of R60, written. -/
def encodeOperand : Operand → BitVec 8
  | .v n => BitVec.ofNat 8 n.val
  | .s n => BitVec.ofNat 8 (0x40 + n.val)
  | .a n => BitVec.ofNat 8 (0x60 + n.val)
  | .p n => BitVec.ofNat 8 (0x70 + n.val)
  | .k n => BitVec.ofNat 8 (0x78 + n.val)
  | .zero => 0x7C
  | .lane => 0x7D
  | .par1 => 0x7E
  | .par2 => 0x7F
  | .imm x => 1#1 ++ x

/-- The condition field of format C (R54): kind, number, negate. -/
def decodeCond (c : BitVec 5) : Cond := ⟨c.getLsbD 4, fin (c.extractLsb' 1 3), c.getLsbD 0⟩

/-- The condition field of format C, written. -/
def encodeCond (c : Cond) : BitVec 5 := BitVec.ofBool c.isK ++ bits 3 c.n ++ BitVec.ofBool c.neg

/-- Bits 31 to 24, the opcode (R51). -/
abbrev fOp (w : Word) : BitVec 8 := w.extractLsb' 24 8
/-- Bits 23 to 16. -/
abbrev fD (w : Word) : BitVec 8 := w.extractLsb' 16 8
/-- Bits 15 to 8. -/
abbrev fA (w : Word) : BitVec 8 := w.extractLsb' 8 8
/-- Bits 7 to 0. -/
abbrev fB (w : Word) : BitVec 8 := w.extractLsb' 0 8
/-- The specifier in bits 23 to 16. -/
abbrev oD (w : Word) : Operand := decodeOperand (fD w)
/-- The specifier in bits 15 to 8. -/
abbrev oA (w : Word) : Operand := decodeOperand (fA w)
/-- The specifier in bits 7 to 0. -/
abbrev oB (w : Word) : Operand := decodeOperand (fB w)
/-- Bits 15 to 0, the immediate of format I. -/
abbrev fImm (w : Word) : BitVec 16 := w.extractLsb' 0 16
/-- Bits 23 to 19, the condition of format C. -/
abbrev fCond (w : Word) : BitVec 5 := w.extractLsb' 19 5
/-- Bits 18 to 0, the offset of format C. -/
abbrev fOff (w : Word) : BitVec 19 := w.extractLsb' 0 19
/-- Bits 7 to 5, the base register of formats M and A. -/
abbrev fBase (w : Word) : Fin 8 := fin (w.extractLsb' 5 3)
/-- Bits 4 to 2, the size of format M. -/
abbrev fSz (w : Word) : BitVec 3 := w.extractLsb' 2 3

/-- A word of formats N and R. -/
def wordR (op d a b : BitVec 8) : Word := op ++ d ++ a ++ b
/-- A word of format I. -/
def wordI (op d : BitVec 8) (i : BitVec 16) : Word := op ++ d ++ i
/-- A word of format C. -/
def wordC (op : BitVec 8) (c : BitVec 5) (off : BitVec 19) : Word := op ++ c ++ off
/-- A word of format M: hint bit 1 is `nt`, hint bit 0 is `sx` (R55). -/
def wordM (op d o : BitVec 8) (b : Fin 8) (sz : BitVec 3) (nt sx : Bool) : Word :=
  op ++ d ++ o ++ bits 3 b ++ sz ++ BitVec.ofBool nt ++ BitVec.ofBool sx
/-- A word of format A. -/
def wordA (op d o : BitVec 8) (b : Fin 8) (r : Fin 32) : Word := op ++ d ++ o ++ bits 3 b ++ bits 5 r

/-- An instruction whose reserved fields must all be zero (R53). -/
def fixed {n : Nat} (zs : List (BitVec n)) (i : Instr) : Except DecodeError Instr :=
  if zs.all (· == 0) then .ok i else .error .reservedField

/-- The form code of `rgn` (R239). -/
def decodeRgn (f : BitVec 2) : Except DecodeError Instr :=
  if f = 0 then .ok .rgn else if f = 1 then .ok .rgnI else if f = 2 then .ok .rgnE else .error .reservedCode

/-- The kind of `fence` (R66). -/
def decodeFence (kind : BitVec 2) (sc : Fin 8) : Except DecodeError Instr :=
  if kind = 0 then .ok (.fenceAll sc) else if kind = 1 then .ok (.fenceLoads sc)
  else if kind = 2 then .ok (.fenceStores sc) else .ok (.fenceEngines sc)

/-- The opcode map (R68) with the field layouts of R52 to R59, before the conditions of `Instr.wf`. -/
def decodeFields (w : Word) : Except DecodeError Instr :=
  match (fOp w).toNat with
  | 0x01 => fixed [fD w, fA w, fB w] .nop
  | 0x02 => fixed [fCond w] (.br (fOff w))
  | 0x03 => if (fCond w).getLsbD 4 then .ok (.bru (decodeCond (fCond w)).n (decodeCond (fCond w)).neg (fOff w)) else .error .reservedCode
  | 0x04 => .ok (.brv (decodeCond (fCond w)) (fOff w))
  | 0x05 => fixed [fD w, fA w, fB w] .cnv
  | 0x06 => fixed [fCond w] (.call (fOff w))
  | 0x07 => fixed [fD w, fB w] (.callr (oA w))
  | 0x08 => fixed [fD w, fA w, fB w] .ret
  | 0x09 => fixed [fD w, fA w, fB w] .exit
  | 0x0A => fixed [fD w, fA w] (.regang (fB w))
  | 0x0B => .ok (.trap (w.extractLsb' 0 24))
  | 0x0C => .ok (.mcall (fD w) (oA w) (oB w))
  | 0x0D => fixed [fD w] (.sleep (fImm w))
  | 0x10 => fixed [w.extractLsb' 0 4] (.modex (w.extractLsb' 19 5) (w.extractLsb' 14 5) (w.extractLsb' 10 4) (w.extractLsb' 7 3) (w.extractLsb' 6 1) (w.extractLsb' 4 2))
  | 0x11 => fixed [w.extractLsb' 0 10] (.modem (w.extractLsb' 20 4) (w.extractLsb' 17 3) (w.extractLsb' 14 3) (w.extractLsb' 11 3) (w.extractLsb' 10 1))
  | 0x12 => fixed [fB w] (.mov (oD w) (oA w))
  | 0x13 => .ok (.movi (oD w) (fImm w))
  | 0x14 => .ok (.movh (oD w) (fImm w))
  | 0x15 => .ok (.sel (oD w) (oA w) (oB w))
  | 0x16 => fixed [fB w] (.promo (oD w) (oA w))
  | 0x17 => .ok (.mkaff (oD w) (oA w) (oB w))
  | 0x18 => fixed [w.extractLsb' 16 2] (.setb (fin (w.extractLsb' 21 3)) (fin (w.extractLsb' 18 3)) (oA w) (oB w))
  | 0x19 => .ok (.rdsr (oD w) (fImm w))
  | 0x1A => .ok (.wrsr (oD w) (fImm w))
  | 0x20 => .ok (.add (oD w) (oA w) (oB w))
  | 0x21 => .ok (.sub (oD w) (oA w) (oB w))
  | 0x22 => .ok (.mul (oD w) (oA w) (oB w))
  | 0x23 => .ok (.mulh (oD w) (oA w) (oB w))
  | 0x24 => .ok (.mad (oD w) (oA w) (oB w))
  | 0x25 => fixed [fB w] (.neg (oD w) (oA w))
  | 0x26 => fixed [fB w] (.abs (oD w) (oA w))
  | 0x27 => .ok (.min (oD w) (oA w) (oB w))
  | 0x28 => .ok (.max (oD w) (oA w) (oB w))
  | 0x29 => fixed [fB w] (.clz (oD w) (oA w))
  | 0x2A => fixed [fB w] (.popc (oD w) (oA w))
  | 0x2B => fixed [fB w] (.brev (oD w) (oA w))
  | 0x30 => .ok (.and (oD w) (oA w) (oB w))
  | 0x31 => .ok (.or (oD w) (oA w) (oB w))
  | 0x32 => .ok (.xor (oD w) (oA w) (oB w))
  | 0x33 => fixed [fB w] (.not (oD w) (oA w))
  | 0x34 => .ok (.shl (oD w) (oA w) (oB w))
  | 0x35 => .ok (.shr (oD w) (oA w) (oB w))
  | 0x36 => .ok (.sar (oD w) (oA w) (oB w))
  | 0x37 => .ok (.rot (oD w) (oA w) (oB w))
  | 0x38 => .ok (.bfx (oD w) (oA w) (oB w))
  | 0x39 => .ok (.bfi (oD w) (oA w) (oB w))
  | 0x40 => .ok (.fadd (oD w) (oA w) (oB w))
  | 0x41 => .ok (.fsub (oD w) (oA w) (oB w))
  | 0x42 => .ok (.fmul (oD w) (oA w) (oB w))
  | 0x43 => .ok (.fma (oD w) (oA w) (oB w))
  | 0x44 => .ok (.fmin (oD w) (oA w) (oB w))
  | 0x45 => .ok (.fmax (oD w) (oA w) (oB w))
  | 0x46 => fixed [fB w] (.fabs (oD w) (oA w))
  | 0x47 => fixed [fB w] (.fneg (oD w) (oA w))
  | 0x50 => .ok (.cmpEq (oD w) (oA w) (oB w))
  | 0x51 => .ok (.cmpNe (oD w) (oA w) (oB w))
  | 0x52 => .ok (.cmpLt (oD w) (oA w) (oB w))
  | 0x53 => .ok (.cmpLe (oD w) (oA w) (oB w))
  | 0x54 => .ok (.cmpGt (oD w) (oA w) (oB w))
  | 0x55 => .ok (.cmpGe (oD w) (oA w) (oB w))
  | 0x58 => .ok (.fcmpEq (oD w) (oA w) (oB w))
  | 0x59 => .ok (.fcmpNe (oD w) (oA w) (oB w))
  | 0x5A => .ok (.fcmpLt (oD w) (oA w) (oB w))
  | 0x5B => .ok (.fcmpLe (oD w) (oA w) (oB w))
  | 0x5C => .ok (.fcmpGt (oD w) (oA w) (oB w))
  | 0x5D => .ok (.fcmpGe (oD w) (oA w) (oB w))
  | 0x5E => .ok (.fcmpUn (oD w) (oA w) (oB w))
  | 0x60 => .ok (.cvt (oD w) (oA w) (oB w))
  | 0x61 => .ok (.cvt8 (oD w) (oA w) (oB w))
  | 0x62 => fixed [fB w] (.bsc (oD w) (oA w))
  | 0x63 => .ok (.bsq (oD w) (oA w) (oB w))
  | 0x70 => fixed [fB w] (.exp2 (oD w) (oA w))
  | 0x71 => fixed [fB w] (.log2 (oD w) (oA w))
  | 0x72 => fixed [fB w] (.rcp (oD w) (oA w))
  | 0x73 => fixed [fB w] (.rsq (oD w) (oA w))
  | 0x74 => fixed [fB w] (.sqrt (oD w) (oA w))
  | 0x75 => fixed [fB w] (.sin (oD w) (oA w))
  | 0x76 => fixed [fB w] (.cos (oD w) (oA w))
  | 0x77 => fixed [fB w] (.tanh (oD w) (oA w))
  | 0x78 => fixed [fB w] (.sigm (oD w) (oA w))
  | 0x80 => .ok (.shflIdx (oD w) (oA w) (oB w))
  | 0x81 => .ok (.shflUp (oD w) (oA w) (oB w))
  | 0x82 => .ok (.shflDn (oD w) (oA w) (oB w))
  | 0x83 => .ok (.shflXor (oD w) (oA w) (oB w))
  | 0x84 => fixed [fB w] (.voteAny (oD w) (oA w))
  | 0x85 => fixed [fB w] (.voteAll (oD w) (oA w))
  | 0x86 => fixed [fB w] (.voteBal (oD w) (oA w))
  | 0x87 => fixed [fB w] (.redAdd (oD w) (oA w))
  | 0x88 => fixed [fB w] (.redMin (oD w) (oA w))
  | 0x89 => fixed [fB w] (.redMax (oD w) (oA w))
  | 0x8A => .ok (.scan (oD w) (oA w) (oB w))
  | 0x8B => .ok (.scanx (oD w) (oA w) (oB w))
  | 0x8C => fixed [fB w] (.matchKey (oD w) (oA w))
  | 0x8D => .ok (.rdlane (oD w) (oA w) (oB w))
  | 0x8E => .ok (.wrlane (oD w) (oA w) (oB w))
  | 0x90 => .ok (.ld (oD w) (oA w) (fBase w) (fSz w) (w.getLsbD 0) (w.getLsbD 1))
  | 0x91 => fixed [w.extractLsb' 0 1] (.st (oD w) (oA w) (fBase w) (fSz w) (w.getLsbD 1))
  | 0x92 => .ok (.ldu (oD w) (oA w) (fBase w) (fSz w) (w.getLsbD 0) (w.getLsbD 1))
  | 0x93 => .ok (.stu (oD w) (oA w) (fBase w) (fSz w) (w.getLsbD 0) (w.getLsbD 1))
  | 0x94 => if w.getLsbD 0 then .error .reservedField else fixed [fD w] (.pf (oA w) (fBase w) (fSz w) (w.getLsbD 1))
  | 0xA0 => fixed [w.extractLsb' 0 5] (.lda (oD w) (oA w) (fBase w))
  | 0xA1 => fixed [w.extractLsb' 0 5] (.sta (oD w) (oA w) (fBase w))
  | 0xA2 => .ok (.atomAdd (oD w) (oA w) (fBase w) (fin (w.extractLsb' 0 5)))
  | 0xA3 => .ok (.atomMin (oD w) (oA w) (fBase w) (fin (w.extractLsb' 0 5)))
  | 0xA4 => .ok (.atomMax (oD w) (oA w) (fBase w) (fin (w.extractLsb' 0 5)))
  | 0xA5 => .ok (.atomAnd (oD w) (oA w) (fBase w) (fin (w.extractLsb' 0 5)))
  | 0xA6 => .ok (.atomOr (oD w) (oA w) (fBase w) (fin (w.extractLsb' 0 5)))
  | 0xA7 => .ok (.atomXor (oD w) (oA w) (fBase w) (fin (w.extractLsb' 0 5)))
  | 0xA8 => .ok (.atomXchg (oD w) (oA w) (fBase w) (fin (w.extractLsb' 0 5)))
  | 0xA9 => .ok (.atomCas (oD w) (oA w) (fBase w) (fin (w.extractLsb' 0 5)))
  | 0xAA => .ok (.atomFadd (oD w) (oA w) (fBase w) (fin (w.extractLsb' 0 5)))
  | 0xAB => .ok (.atomInc (oD w) (oA w) (fBase w) (fin (w.extractLsb' 0 5)))
  | 0xB0 => fixed [w.extractLsb' 0 9] (.cqPost (fin (w.extractLsb' 22 2)) (decodeOperand (w.extractLsb' 14 8)) (fin (w.extractLsb' 9 5)))
  | 0xB1 => fixed [fA w, fB w] (.batClose (oD w))
  | 0xB2 => fixed [fD w, fB w] (.waitBat (oA w))
  | 0xB3 => fixed [fD w, fB w] (.hbFill (oA w))
  | 0xB4 => fixed [fD w, fB w] (.hbAcq (oA w))
  | 0xB5 => fixed [fD w, fB w] (.hbRel (oA w))
  | 0xB6 => fixed [fB w] (.hbState (oD w) (oA w))
  | 0xB7 => fixed [fD w] (.hbCfg (oA w) (oB w))
  | 0xC0 => fixed [w.extractLsb' 3 1] (.mmaBi8 (fin (w.extractLsb' 19 5)) (fin (w.extractLsb' 14 5)) (fin (w.extractLsb' 12 2)) (fin (w.extractLsb' 6 6)) (fin (w.extractLsb' 4 2)) (fin (w.extractLsb' 1 2)) (w.getLsbD 0))
  | 0xC1 => fixed [w.extractLsb' 3 1] (.mmaBi4 (fin (w.extractLsb' 19 5)) (fin (w.extractLsb' 14 5)) (fin (w.extractLsb' 12 2)) (fin (w.extractLsb' 6 6)) (fin (w.extractLsb' 4 2)) (fin (w.extractLsb' 1 2)) (w.getLsbD 0))
  | 0xC2 => fixed [w.extractLsb' 3 1] (.mmaI8w (fin (w.extractLsb' 19 5)) (fin (w.extractLsb' 14 5)) (fin (w.extractLsb' 12 2)) (fin (w.extractLsb' 6 6)) (fin (w.extractLsb' 4 2)) (fin (w.extractLsb' 1 2)) (w.getLsbD 0))
  | 0xC3 => fixed [fD w, fA w, fB w] .mwait
  | 0xC4 => fixed [fD w, fB w] (.mzero (oA w))
  | 0xC5 => fixed [fB w] (.mnorm (oD w) (oA w))
  | 0xC6 => fixed [fD w, fB w] (.mwsel (oA w))
  | 0xC7 => fixed [fD w, fA w, fB w] .mfence
  | 0xC8 => fixed [fD w, fA w, fB w] .btonTake
  | 0xC9 => fixed [fD w, fA w, fB w] .btonPass
  | 0xD0 => fixed [fD w] (.recRun (oA w) (oB w))
  | 0xD1 => fixed [fA w, fB w] (.recChild (oD w))
  | 0xD2 => fixed [fD w, fB w] (.recRet (oA w))
  | 0xD3 => fixed [fA w, fB w] (.recWait (oD w))
  | 0xD4 => .ok (.spawn (oD w) (oA w) (oB w))
  | 0xD5 => fixed [fA w, fB w] (.cjoin (oD w))
  | 0xE0 => fixed [w.extractLsb' 0 11] (.barInit (fin (w.extractLsb' 19 5)) (decodeOperand (w.extractLsb' 11 8)))
  | 0xE1 => fixed [w.extractLsb' 0 11] (.barArrive (fin (w.extractLsb' 19 5)) (decodeOperand (w.extractLsb' 11 8)))
  | 0xE2 => fixed [w.extractLsb' 0 11] (.barWait (fin (w.extractLsb' 19 5)) (decodeOperand (w.extractLsb' 11 8)))
  | 0xE3 => fixed [w.extractLsb' 0 11] (.barSync (fin (w.extractLsb' 19 5)) (decodeOperand (w.extractLsb' 11 8)))
  | 0xE4 => fixed [w.extractLsb' 0 11] (.barInval (fin (w.extractLsb' 19 5)) (decodeOperand (w.extractLsb' 11 8)))
  | 0xE5 => if w.extractLsb' 0 19 = 0 then decodeFence (w.extractLsb' 19 2) (fin (w.extractLsb' 21 3)) else .error .reservedField
  | 0xE6 => if fD w = 0 ∧ w.extractLsb' 2 14 = 0 then decodeRgn (w.extractLsb' 0 2) else .error .reservedField
  | 0xE7 => fixed [fD w, fA w, fB w] .ckpt
  | 0xE8 => fixed [fD w] (.balBurn (oA w) (oB w))
  | 0xE9 => fixed [fB w] (.balShunt (oD w) (oA w))
  | 0xEA => fixed [fD w, fA w, fB w] .balStop
  | 0xF0 => fixed [fD w, fA w, fB w] .eret
  | 0xF1 => .ok (.hv (w.extractLsb' 0 24))
  | 0xF2 => fixed [fD w] (.mcsWr (oA w) (oB w))
  | 0xF3 => fixed [fD w, fA w, fB w] .iinv
  | 0xF4 => fixed [fD w, fB w] (.tlbinv (oA w))
  | _ => .error .unassignedOpcode

/-- The instruction that a word is, or why it is none. -/
def decodeWord (w : Word) : Except DecodeError Instr :=
  match decodeFields w with
  | .ok i => if i.wf then .ok i else .error .reservedCode
  | .error e => .error e

/-- Four bytes, the one at the lowest address first, as a word (R4). -/
def wordOfBytes (b0 b1 b2 b3 : Byte) : Word := b3 ++ b2 ++ b1 ++ b0

/-- A word as its four bytes, the one at the lowest address first (R4). -/
def bytesOfWord (w : Word) : List Byte :=
  [w.extractLsb' 0 8, w.extractLsb' 8 8, w.extractLsb' 16 8, w.extractLsb' 24 8]

/-- The first instruction of a byte string, with the bytes that follow it. -/
def decodeBytes : List Byte → Except DecodeError (Instr × List Byte)
  | b0 :: b1 :: b2 :: b3 :: rest =>
    match decodeWord (wordOfBytes b0 b1 b2 b3) with
    | .ok i => .ok (i, rest)
    | .error e => .error e
  | _ => .error .tooShort

/-- The word of an instruction, from the written forms of the reference entries; a happening of the table has none. -/
def encode : Instr → Option Word
  | .nop => some (wordR 0x01#8 0 0 0)
  | .br off => some (wordC 0x02#8 0 off)
  | .bru n neg off => some (wordC 0x03#8 (encodeCond ⟨true, n, neg⟩) off)
  | .brv c off => some (wordC 0x04#8 (encodeCond c) off)
  | .cnv => some (wordR 0x05#8 0 0 0)
  | .call off => some (wordC 0x06#8 0 off)
  | .callr a => some (wordR 0x07#8 0 (encodeOperand a) 0)
  | .ret => some (wordR 0x08#8 0 0 0)
  | .exit => some (wordR 0x09#8 0 0 0)
  | .regang m => some (wordR 0x0A#8 0 0 m)
  | .trap i => some (0x0B#8 ++ i)
  | .mcall m p q => some (wordR 0x0C#8 m (encodeOperand p) (encodeOperand q))
  | .sleep n => some (wordI 0x0D#8 0 n)
  | .modex en g t rm sat fe => some (0x10#8 ++ en ++ g ++ t ++ rm ++ sat ++ fe ++ 0#4)
  | .modem en sc ord au aot => some (0x11#8 ++ en ++ sc ++ ord ++ au ++ aot ++ 0#10)
  | .mov d a => some (wordR 0x12#8 (encodeOperand d) (encodeOperand a) 0)
  | .movi d i => some (wordI 0x13#8 (encodeOperand d) i)
  | .movh d i => some (wordI 0x14#8 (encodeOperand d) i)
  | .sel d a b => some (wordR 0x15#8 (encodeOperand d) (encodeOperand a) (encodeOperand b))
  | .promo d a => some (wordR 0x16#8 (encodeOperand d) (encodeOperand a) 0)
  | .mkaff d a b => some (wordR 0x17#8 (encodeOperand d) (encodeOperand a) (encodeOperand b))
  | .setb n sp lo hi => some (0x18#8 ++ bits 3 n ++ bits 3 sp ++ 0#2 ++ encodeOperand lo ++ encodeOperand hi)
  | .rdsr d i => some (wordI 0x19#8 (encodeOperand d) i)
  | .wrsr d i => some (wordI 0x1A#8 (encodeOperand d) i)
  | .add d a b => some (wordR 0x20#8 (encodeOperand d) (encodeOperand a) (encodeOperand b))
  | .sub d a b => some (wordR 0x21#8 (encodeOperand d) (encodeOperand a) (encodeOperand b))
  | .mul d a b => some (wordR 0x22#8 (encodeOperand d) (encodeOperand a) (encodeOperand b))
  | .mulh d a b => some (wordR 0x23#8 (encodeOperand d) (encodeOperand a) (encodeOperand b))
  | .mad d a b => some (wordR 0x24#8 (encodeOperand d) (encodeOperand a) (encodeOperand b))
  | .neg d a => some (wordR 0x25#8 (encodeOperand d) (encodeOperand a) 0)
  | .abs d a => some (wordR 0x26#8 (encodeOperand d) (encodeOperand a) 0)
  | .min d a b => some (wordR 0x27#8 (encodeOperand d) (encodeOperand a) (encodeOperand b))
  | .max d a b => some (wordR 0x28#8 (encodeOperand d) (encodeOperand a) (encodeOperand b))
  | .clz d a => some (wordR 0x29#8 (encodeOperand d) (encodeOperand a) 0)
  | .popc d a => some (wordR 0x2A#8 (encodeOperand d) (encodeOperand a) 0)
  | .brev d a => some (wordR 0x2B#8 (encodeOperand d) (encodeOperand a) 0)
  | .and d a b => some (wordR 0x30#8 (encodeOperand d) (encodeOperand a) (encodeOperand b))
  | .or d a b => some (wordR 0x31#8 (encodeOperand d) (encodeOperand a) (encodeOperand b))
  | .xor d a b => some (wordR 0x32#8 (encodeOperand d) (encodeOperand a) (encodeOperand b))
  | .not d a => some (wordR 0x33#8 (encodeOperand d) (encodeOperand a) 0)
  | .shl d a b => some (wordR 0x34#8 (encodeOperand d) (encodeOperand a) (encodeOperand b))
  | .shr d a b => some (wordR 0x35#8 (encodeOperand d) (encodeOperand a) (encodeOperand b))
  | .sar d a b => some (wordR 0x36#8 (encodeOperand d) (encodeOperand a) (encodeOperand b))
  | .rot d a b => some (wordR 0x37#8 (encodeOperand d) (encodeOperand a) (encodeOperand b))
  | .bfx d a b => some (wordR 0x38#8 (encodeOperand d) (encodeOperand a) (encodeOperand b))
  | .bfi d a b => some (wordR 0x39#8 (encodeOperand d) (encodeOperand a) (encodeOperand b))
  | .fadd d a b => some (wordR 0x40#8 (encodeOperand d) (encodeOperand a) (encodeOperand b))
  | .fsub d a b => some (wordR 0x41#8 (encodeOperand d) (encodeOperand a) (encodeOperand b))
  | .fmul d a b => some (wordR 0x42#8 (encodeOperand d) (encodeOperand a) (encodeOperand b))
  | .fma d a b => some (wordR 0x43#8 (encodeOperand d) (encodeOperand a) (encodeOperand b))
  | .fmin d a b => some (wordR 0x44#8 (encodeOperand d) (encodeOperand a) (encodeOperand b))
  | .fmax d a b => some (wordR 0x45#8 (encodeOperand d) (encodeOperand a) (encodeOperand b))
  | .fabs d a => some (wordR 0x46#8 (encodeOperand d) (encodeOperand a) 0)
  | .fneg d a => some (wordR 0x47#8 (encodeOperand d) (encodeOperand a) 0)
  | .cmpEq d a b => some (wordR 0x50#8 (encodeOperand d) (encodeOperand a) (encodeOperand b))
  | .cmpNe d a b => some (wordR 0x51#8 (encodeOperand d) (encodeOperand a) (encodeOperand b))
  | .cmpLt d a b => some (wordR 0x52#8 (encodeOperand d) (encodeOperand a) (encodeOperand b))
  | .cmpLe d a b => some (wordR 0x53#8 (encodeOperand d) (encodeOperand a) (encodeOperand b))
  | .cmpGt d a b => some (wordR 0x54#8 (encodeOperand d) (encodeOperand a) (encodeOperand b))
  | .cmpGe d a b => some (wordR 0x55#8 (encodeOperand d) (encodeOperand a) (encodeOperand b))
  | .fcmpEq d a b => some (wordR 0x58#8 (encodeOperand d) (encodeOperand a) (encodeOperand b))
  | .fcmpNe d a b => some (wordR 0x59#8 (encodeOperand d) (encodeOperand a) (encodeOperand b))
  | .fcmpLt d a b => some (wordR 0x5A#8 (encodeOperand d) (encodeOperand a) (encodeOperand b))
  | .fcmpLe d a b => some (wordR 0x5B#8 (encodeOperand d) (encodeOperand a) (encodeOperand b))
  | .fcmpGt d a b => some (wordR 0x5C#8 (encodeOperand d) (encodeOperand a) (encodeOperand b))
  | .fcmpGe d a b => some (wordR 0x5D#8 (encodeOperand d) (encodeOperand a) (encodeOperand b))
  | .fcmpUn d a b => some (wordR 0x5E#8 (encodeOperand d) (encodeOperand a) (encodeOperand b))
  | .cvt d a b => some (wordR 0x60#8 (encodeOperand d) (encodeOperand a) (encodeOperand b))
  | .cvt8 d a b => some (wordR 0x61#8 (encodeOperand d) (encodeOperand a) (encodeOperand b))
  | .bsc d a => some (wordR 0x62#8 (encodeOperand d) (encodeOperand a) 0)
  | .bsq d a b => some (wordR 0x63#8 (encodeOperand d) (encodeOperand a) (encodeOperand b))
  | .exp2 d a => some (wordR 0x70#8 (encodeOperand d) (encodeOperand a) 0)
  | .log2 d a => some (wordR 0x71#8 (encodeOperand d) (encodeOperand a) 0)
  | .rcp d a => some (wordR 0x72#8 (encodeOperand d) (encodeOperand a) 0)
  | .rsq d a => some (wordR 0x73#8 (encodeOperand d) (encodeOperand a) 0)
  | .sqrt d a => some (wordR 0x74#8 (encodeOperand d) (encodeOperand a) 0)
  | .sin d a => some (wordR 0x75#8 (encodeOperand d) (encodeOperand a) 0)
  | .cos d a => some (wordR 0x76#8 (encodeOperand d) (encodeOperand a) 0)
  | .tanh d a => some (wordR 0x77#8 (encodeOperand d) (encodeOperand a) 0)
  | .sigm d a => some (wordR 0x78#8 (encodeOperand d) (encodeOperand a) 0)
  | .shflIdx d a b => some (wordR 0x80#8 (encodeOperand d) (encodeOperand a) (encodeOperand b))
  | .shflUp d a b => some (wordR 0x81#8 (encodeOperand d) (encodeOperand a) (encodeOperand b))
  | .shflDn d a b => some (wordR 0x82#8 (encodeOperand d) (encodeOperand a) (encodeOperand b))
  | .shflXor d a b => some (wordR 0x83#8 (encodeOperand d) (encodeOperand a) (encodeOperand b))
  | .voteAny d a => some (wordR 0x84#8 (encodeOperand d) (encodeOperand a) 0)
  | .voteAll d a => some (wordR 0x85#8 (encodeOperand d) (encodeOperand a) 0)
  | .voteBal d a => some (wordR 0x86#8 (encodeOperand d) (encodeOperand a) 0)
  | .redAdd d a => some (wordR 0x87#8 (encodeOperand d) (encodeOperand a) 0)
  | .redMin d a => some (wordR 0x88#8 (encodeOperand d) (encodeOperand a) 0)
  | .redMax d a => some (wordR 0x89#8 (encodeOperand d) (encodeOperand a) 0)
  | .scan d a b => some (wordR 0x8A#8 (encodeOperand d) (encodeOperand a) (encodeOperand b))
  | .scanx d a b => some (wordR 0x8B#8 (encodeOperand d) (encodeOperand a) (encodeOperand b))
  | .matchKey d a => some (wordR 0x8C#8 (encodeOperand d) (encodeOperand a) 0)
  | .rdlane d a b => some (wordR 0x8D#8 (encodeOperand d) (encodeOperand a) (encodeOperand b))
  | .wrlane d a b => some (wordR 0x8E#8 (encodeOperand d) (encodeOperand a) (encodeOperand b))
  | .ld d o b sz sx nt => some (wordM 0x90#8 (encodeOperand d) (encodeOperand o) b sz nt sx)
  | .st d o b sz nt => some (wordM 0x91#8 (encodeOperand d) (encodeOperand o) b sz nt false)
  | .ldu d o b sz sx nt => some (wordM 0x92#8 (encodeOperand d) (encodeOperand o) b sz nt sx)
  | .stu d o b sz sx nt => some (wordM 0x93#8 (encodeOperand d) (encodeOperand o) b sz nt sx)
  | .pf o b sz nt => some (wordM 0x94#8 0 (encodeOperand o) b sz nt false)
  | .lda d o b => some (wordA 0xA0#8 (encodeOperand d) (encodeOperand o) b 0)
  | .sta d o b => some (wordA 0xA1#8 (encodeOperand d) (encodeOperand o) b 0)
  | .atomAdd d o b r => some (wordA 0xA2#8 (encodeOperand d) (encodeOperand o) b r)
  | .atomMin d o b r => some (wordA 0xA3#8 (encodeOperand d) (encodeOperand o) b r)
  | .atomMax d o b r => some (wordA 0xA4#8 (encodeOperand d) (encodeOperand o) b r)
  | .atomAnd d o b r => some (wordA 0xA5#8 (encodeOperand d) (encodeOperand o) b r)
  | .atomOr d o b r => some (wordA 0xA6#8 (encodeOperand d) (encodeOperand o) b r)
  | .atomXor d o b r => some (wordA 0xA7#8 (encodeOperand d) (encodeOperand o) b r)
  | .atomXchg d o b r => some (wordA 0xA8#8 (encodeOperand d) (encodeOperand o) b r)
  | .atomCas d o b r => some (wordA 0xA9#8 (encodeOperand d) (encodeOperand o) b r)
  | .atomFadd d o b r => some (wordA 0xAA#8 (encodeOperand d) (encodeOperand o) b r)
  | .atomInc d o b r => some (wordA 0xAB#8 (encodeOperand d) (encodeOperand o) b r)
  | .cqPost k q f => some (0xB0#8 ++ bits 2 k ++ encodeOperand q ++ bits 5 f ++ 0#9)
  | .batClose d => some (wordR 0xB1#8 (encodeOperand d) 0 0)
  | .waitBat a => some (wordR 0xB2#8 0 (encodeOperand a) 0)
  | .hbFill a => some (wordR 0xB3#8 0 (encodeOperand a) 0)
  | .hbAcq a => some (wordR 0xB4#8 0 (encodeOperand a) 0)
  | .hbRel a => some (wordR 0xB5#8 0 (encodeOperand a) 0)
  | .hbState d a => some (wordR 0xB6#8 (encodeOperand d) (encodeOperand a) 0)
  | .hbCfg a b => some (wordR 0xB7#8 0 (encodeOperand a) (encodeOperand b))
  | .mmaBi8 c a wb v s rows acc => some (0xC0#8 ++ bits 5 c ++ bits 5 a ++ bits 2 wb ++ bits 6 v ++ bits 2 s ++ 0#1 ++ bits 2 rows ++ BitVec.ofBool acc)
  | .mmaBi4 c a wb v s rows acc => some (0xC1#8 ++ bits 5 c ++ bits 5 a ++ bits 2 wb ++ bits 6 v ++ bits 2 s ++ 0#1 ++ bits 2 rows ++ BitVec.ofBool acc)
  | .mmaI8w c a wb v s rows acc => some (0xC2#8 ++ bits 5 c ++ bits 5 a ++ bits 2 wb ++ bits 6 v ++ bits 2 s ++ 0#1 ++ bits 2 rows ++ BitVec.ofBool acc)
  | .mwait => some (wordR 0xC3#8 0 0 0)
  | .mzero a => some (wordR 0xC4#8 0 (encodeOperand a) 0)
  | .mnorm d a => some (wordR 0xC5#8 (encodeOperand d) (encodeOperand a) 0)
  | .mwsel a => some (wordR 0xC6#8 0 (encodeOperand a) 0)
  | .mfence => some (wordR 0xC7#8 0 0 0)
  | .btonTake => some (wordR 0xC8#8 0 0 0)
  | .btonPass => some (wordR 0xC9#8 0 0 0)
  | .recRun a b => some (wordR 0xD0#8 0 (encodeOperand a) (encodeOperand b))
  | .recChild d => some (wordR 0xD1#8 (encodeOperand d) 0 0)
  | .recRet a => some (wordR 0xD2#8 0 (encodeOperand a) 0)
  | .recWait d => some (wordR 0xD3#8 (encodeOperand d) 0 0)
  | .spawn d a b => some (wordR 0xD4#8 (encodeOperand d) (encodeOperand a) (encodeOperand b))
  | .cjoin d => some (wordR 0xD5#8 (encodeOperand d) 0 0)
  | .barInit b m => some (0xE0#8 ++ bits 5 b ++ encodeOperand m ++ 0#11)
  | .barArrive b m => some (0xE1#8 ++ bits 5 b ++ encodeOperand m ++ 0#11)
  | .barWait b m => some (0xE2#8 ++ bits 5 b ++ encodeOperand m ++ 0#11)
  | .barSync b m => some (0xE3#8 ++ bits 5 b ++ encodeOperand m ++ 0#11)
  | .barInval b m => some (0xE4#8 ++ bits 5 b ++ encodeOperand m ++ 0#11)
  | .ckpt => some (wordR 0xE7#8 0 0 0)
  | .balBurn a b => some (wordR 0xE8#8 0 (encodeOperand a) (encodeOperand b))
  | .balShunt d a => some (wordR 0xE9#8 (encodeOperand d) (encodeOperand a) 0)
  | .balStop => some (wordR 0xEA#8 0 0 0)
  | .eret => some (wordR 0xF0#8 0 0 0)
  | .hv i => some (0xF1#8 ++ i)
  | .mcsWr a b => some (wordR 0xF2#8 0 (encodeOperand a) (encodeOperand b))
  | .iinv => some (wordR 0xF3#8 0 0 0)
  | .tlbinv a => some (wordR 0xF4#8 0 (encodeOperand a) 0)
  | .rgn => some (wordI 0xE6#8 0 0)
  | .rgnI => some (wordI 0xE6#8 0 1)
  | .rgnE => some (wordI 0xE6#8 0 2)
  | .fenceAll sc => some (0xE5#8 ++ bits 3 sc ++ 0#2 ++ 0#19)
  | .fenceLoads sc => some (0xE5#8 ++ bits 3 sc ++ 1#2 ++ 0#19)
  | .fenceStores sc => some (0xE5#8 ++ bits 3 sc ++ 2#2 ++ 0#19)
  | .fenceEngines sc => some (0xE5#8 ++ bits 3 sc ++ 3#2 ++ 0#19)
  | .waveEnd _ => none
  | .sleepExpiry _ _ => none
  | .thrcfgWrite _ _ => none
  | .colstatWrite _ _ => none
  | .sectorReturn _ _ _ => none
  | .bankLoadStart _ => none
  | .bankLoadComplete _ => none
  | .mmaWordStart _ _ => none
  | .mmaWordComplete _ => none
  | .mzeroComplete _ => none
  | .mnormComplete _ => none
  | .routineCall _ _ => none
  | .burnExpiry _ => none
  | .starvationPriority _ _ => none
  | .headerLineChange _ => none
  | .copy _ => none
  | .fill _ => none
  | .reduceCopy _ => none
  | .copySignal _ => none
  | .copyVoid _ => none
  | .packetComplete _ _ => none
  | .fillComplete _ _ => none
  | .workQueueRead _ => none
  | .launch _ => none
  | .workSignal _ => none
  | .gload _ => none
  | .workVoid _ => none
  | .forwardingQueuePacket _ => none
  | .placementDecision => none
  | .coresidentReservation _ => none
  | .launchComplete _ => none
  | .trig _ _ => none
  | .graphRunStart _ _ => none
  | .graphNodeStart _ _ _ => none
  | .graphRunEnd _ _ => none
  | .qreg _ => none
  | .qset _ => none
  | .peek _ => none
  | .resolve _ => none
  | .kill _ => none
  | .zero _ => none
  | .zeroComplete _ => none
  | .timeQuantumExpiry _ => none
  | .cisternSwap _ => none
  | .pinnedTimeout _ => none
  | .takeOver => none
  | .checkpointAttempt _ => none
  | .checkpointAttemptTimeout _ => none
  | .pinnedCheckpoint _ => none
  | .uceConsumed _ => none
  | .correctedError _ => none
  | .leak => none
  | .auditReplay _ _ _ _ => none
  | .railReading _ _ _ => none
  | .throttle _ _ => none
  | .columnRestart _ => none
  | .phaseFailure _ _ => none
  | .columnGate _ => none
  | .inrushGrant _ => none
  | .wakeStepWait _ => none
  | .islpt _ _ => none
  | .islptChangeDone _ => none
  | .laystg _ => none
  | .laycmt _ => none
  | .basecampRestart => none
  | .fabid _ => none
  | .registerWrite _ _ _ => none
  | .selfTestDrain => none
  | .selfTestPreempt => none
  | .scanSelfTestDone _ => none
  | .spareReplacement _ => none
  | .attestationReport _ => none
  | .otpMinimumVersionRaise _ => none
  | .packageReset _ _ _ => none
  | .islandPowerUp _ => none
  | .inboundRequest _ => none
  | .unreachable _ _ => none
  | .unassignedOpcode _ => none
  | .fetchFault => none
  | .storePerformed _ _ => none
  | .rangeWalkComplete _ _ => none
  | .wakeStepEnd _ => none
  | .coolingShortfall _ _ => none

/-- The instruction that the decoder reads from `nbits` bits numbered as spec/opcode_table.json numbers them. Every word is 32 bits
(R51), bit 0 the least significant; a shorter one is filled with zeros above. -/
def decodeTableWord (nbits w : Nat) : Option Instr :=
  if nbits ≤ 32 then
    match decodeBytes (bytesOfWord (BitVec.ofNat 32 (w % 2 ^ nbits))) with
    | .ok (i, _) => some i
    | .error _ => none
  else none

end Sys2Proof
end

