-- ==== Sys2Proof/Machine/Fetch.lean ====
section
/-! DEFINITION. Fetching an instruction: from memory at the PC (R51, R122, R329), or from the control store with the parameters of
`mcall` substituted (R76, R77); and which gangs may issue. -/

namespace Sys2Proof.Machine

/-- A specifier byte with the parameters substituted (R77). -/
def substByte (p1 p2 x : Byte) : Byte := if x = 0x7E then p1 else if x = 0x7F then p2 else x

/-- A word with one 8-bit field, at a bit position, substituted. -/
def substAt (p1 p2 : Byte) (lo : Nat) (w : Word) : Word :=
  let x := w.extractLsb' lo 8
  let y := substByte p1 p2 x
  if x = y then w else (w &&& ~~~((0xFF : Word) <<< lo)) ||| (y.zeroExtend 32 <<< lo)

/-- Formats R, by opcode (R68). -/
def isFormatR (op : Nat) : Bool :=
  decide (op = 0x07 ∨ op = 0x12 ∨ (0x15 ≤ op ∧ op ≤ 0x17) ∨ (0x20 ≤ op ∧ op ≤ 0x8F) ∨ (0xB1 ≤ op ∧ op ≤ 0xBF) ∨ (0xC3 ≤ op ∧ op ≤ 0xDF)
    ∨ (0xE7 ≤ op ∧ op ≤ 0xEA) ∨ op = 0xF2 ∨ op = 0xF4)

/-- Format I, by opcode (R68). -/
def isFormatI (op : Nat) : Bool := [0x0A, 0x0D, 0x13, 0x14, 0x19, 0x1A, 0xE6].contains op

/-- The bit positions of a word's specifier fields, by its opcode's format: D, A, B; D; low, high; D, O; queue spec; mask spec (R52, R68,
R77). -/
def specifierFields (op : Nat) : List Nat :=
  if isFormatR op then [16, 8, 0]
  else if isFormatI op then [16]
  else if op = 0x18 then [8, 0]
  else if 0x90 ≤ op ∧ op ≤ 0xAF then [16, 8]
  else if op = 0xB0 then [14]
  else if 0xE0 ≤ op ∧ op ≤ 0xE4 then [11]
  else []

/-- An operation word with P1 and P2 in its specifier fields (R77). -/
def substWord (p1 p2 : Byte) (w : Word) : Word :=
  (specifierFields (w.extractLsb' 24 8).toNat).foldl (fun x lo => substAt p1 p2 lo x) w

/-- What a fetch gives. -/
inductive Fetched where
  /-- a word, and the machine with its instruction cache filled and its walks begun -/
  | word (w : Word) (s : State)
  /-- no word for now: the translation is undefined (R10, R120), or the word lies with a peer and the ports carry no request (R254) -/
  | stuck
  /-- a trap -/
  | fault (t : TrapInfo)

/-- Words of an instruction cache of 64 KiB (R16). -/
abbrev icacheWords : Nat := 16384

/-- The fetch of a gang at its PC (R51, R122): ALF, TRF or PMF before any effect; UCE from a poisoned sector (R390). A word that the
instruction cache holds comes from it (R329). A peer whose endpoint does not acknowledge is a stage-2 TRF (R168, R263). Log entry 18: DESIGN
CHOICE. -/
def State.fetch (s : State) (w : Wave) (sl : Nat) : Fetched :=
  let pc := (w.st.slice sl).pc
  let bad (x : Cause) (s2 asy : Bool) : Fetched :=
    .fault { cause := x, mask := if asy then w.st.live else w.st.active sl, fa := pc, s2 := s2, asy := asy, unr := false }
  if pc.toNat % 4 ≠ 0 then bad .alf false false
  else match s.xlateWave w pc.toNat needExec with
    | .error .undef => .stuck
    | .error (.mk pmf s2) => bad (if pmf then .pmf else .trf) s2 false
    | .ok r =>
      match Map.find? (s.core w.core).icache r.loc with
      | some x => .word x (s.joinWalk w.core [] r.found)
      | none =>
        if s.deafAt r.loc then bad .trf true false
        else if !s.reach r.loc then .stuck
        else if s.poison.contains (sectorOf r.loc) then bad .uce false true
        else
          let x : Word := BitVec.ofNat 32 (s.mem.readN r.loc 4)
          .word x ((s.joinWalk w.core [] r.found).updCore w.core (fun k => { k with icache := Map.cached k.icache icacheWords r.loc x }))

/-- The wave is pinned, or takes its checkpoints together with one that is (R191, R241). -/
def State.holdsOut (s : State) (w : Wave) : Bool :=
  (w.pinned && w.hidden.isNone) || (match (s.core w.core).run with
    | some r => decide (r.grp = w.group) && s.waves.any (fun e => e.2.plain && decide (e.2.group = w.group) && e.2.pinned)
    | none => false)

/-- The core's clocks run and its column is on (R220, R228), and its cluster is not halted (R246, R255): pinned waves issue on in a halted
one. A Trailhead processor always runs. -/
def State.coreRuns (s : State) (w : Wave) : Bool :=
  w.tp.isSome || (decide ((s.col (colOf w.core)).power = .on) && !(s.col (colOf w.core)).stopped
    && (!(s.cluster (clusterOf w.core)).halted || s.holdsOut w))

/-- The gang led by a slice may issue: its wave is not ending and not parked, the slice belongs to the gang that may issue,
it neither sleeps nor waits for another agent, its `spawn` is behind it, and no macro of its launch is still to be written (R29, R222, R232,
R377, R389). -/
def State.canIssue (s : State) (w : Wave) (sl : Nat) : Bool :=
  !w.ending && s.coreRuns w && s.born w
  && (match s.group? w.group with
      | some g => g.macWait.isEmpty
      | none => true)
  && (match w.st.trap with
      | none => true
      | some t => t.running && t.saved.any (fun y => y.sl == sl))
  && w.st.scopeSlices.contains sl && decide ((w.st.slice sl).sleep = 0)
  && (match (w.st.slice sl).wait with
      | none => true
      | some .stall | some .retry | some .ckpt => true
      | some (.regang _) | some (.recRun _ _) | some (.barrier _) | some (.handle _) | some .baton | some .hyper | some .returned => false)

/-- A gang that may issue and is not waiting, or may try again what it waits for. -/
def State.ready (s : State) (w : Wave) (sl : Nat) : Bool :=
  s.canIssue w sl && decide ((w.st.slice sl).wait = none ∨ (w.st.slice sl).wait = some .retry)

end Sys2Proof.Machine
end

