-- ==== Sys2Proof/Machine/Time.lean ====
section
/-! DEFINITION. Core cycles: what counts with them (R209, R218, R224, R238, R376, R45). An island is one cluster with one clock, and its
cores count together. -/

namespace Sys2Proof.Machine

/-- Core cycles between two attempts (R238); 0 stops them. -/
def CoreSt.period (k : CoreSt) : Nat := k.interval.toNat * 1024

/-- Whether counting n more cycles passes a multiple of the period. -/
def CoreSt.crosses (k : CoreSt) (n : Nat) : Bool :=
  decide (k.period ≠ 0) && decide (k.cycles.toNat / k.period ≠ (k.cycles.toNat + n) / k.period)

/-- Cycles since the count last passed a multiple of the period. -/
def CoreSt.since (k : CoreSt) : Nat := if k.period = 0 then 0 else k.cycles.toNat % k.period

/-- A slice n cycles later. -/
def Slice.tick (n : Nat) (x : Slice) : Slice := { x with sleep := x.sleep - n }

/-- A burn request n cycles later: it clears when its duration runs out (R224). -/
def WaveCore.tickBurn (n : Nat) (w : WaveCore) : WaveCore :=
  if w.burnLeft = 0 then w
  else if w.burnLeft ≤ n then { w with burn := 0, burnLeft := 0 } else { w with burnLeft := w.burnLeft - n }

/-- The core's clock swallows every second pulse (R27, R218, R228). -/
def CoreSt.throttled (k : CoreSt) : Bool := k.thrUp || k.thrDn || k.thrWake || k.thrCool

/-- A slice waits for dispatch, or for its next try: it neither sleeps, nor waits for another agent, nor stands behind a trap. -/
def WaveCore.idle (w : WaveCore) (i : Nat) : Bool :=
  !w.finished i && ((w.slice i).wait = none || (w.slice i).wait = some .stall || (w.slice i).wait = some .retry) && decide ((w.slice i).sleep = 0)
  && (match w.trap with
    | none => true
    | some t => t.running && t.saved.any (fun y => y.sl == i))

/-- Slices whose wait has reached its bound try again what they stalled at. -/
def Wave.again (w : Wave) (is : List Nat) : Wave :=
  { w with st := w.st.updSlices is (fun _ x => if x.wait = some .stall then { x with wait := some .retry } else x)
           starved := w.starved.filter (fun e => !is.contains e.1) }

/-- Halves of a cycle in the 256 cycles that a gang may wait (R45). -/
abbrev waitBound : Nat := 512

/-- A wave of a core, n cycles later. Waits for dispatch are counted in halves of a quad cycle, since a throttled core has one in every two
of its island's (R45, R218). What stalled is not ready; it tries again after as many. Log entry 3: DESIGN CHOICE. -/
def Wave.tick (k : CoreSt) (n : Nat) (w : Wave) : Wave :=
  let st := (w.st.updSlices (List.range 8) (fun _ x => x.tick n)).tickBurn n
  let got := if k.throttled then n else 2 * n
  let starved := ((List.range 8).filter st.idle).foldl (fun m i => Map.insert m i ((Map.find? w.starved i).getD 0 + got)) []
  let w1 := { w with st := st, attempt := w.attempt.map (· + n), starved := starved }
  let due := (List.range 8).filter (fun i => decide ((st.slice i).wait = some .stall) && decide ((Map.find? starved i).getD 0 ≥ waitBound))
  if due.isEmpty then w1 else w1.again due

/-- A core, n cycles later; attempts are due when its count passes a multiple of the period (R238). -/
def CoreSt.tick (n : Nat) (k : CoreSt) : CoreSt :=
  { k with cycles := k.cycles + BitVec.ofNat 64 n, attemptDue := k.attemptDue || k.crosses n }

/-- A core counts n cycles. -/
def State.tickCore (s : State) (core n : Nat) : State :=
  if (s.col (colOf core)).power = .on ∧ !(s.col (colOf core)).stopped then
    let k := s.core core
    let ws := s.waves.map (fun e => if e.2.core = core then (e.1, e.2.tick k n) else e)
    State.setCore { s with waves := ws } core (k.tick n)
  else s

/-- An island and its cores count n cycles. Log entry 5: DESIGN CHOICE. -/
def State.tick (s : State) (cluster n : Nat) : State :=
  ((coresOf cluster).foldl (fun s c => s.tickCore c n) s).updCluster cluster (fun k => { k with islCtr := k.islCtr + n })

/-- The island of a wave counts n cycles; a Trailhead processor's own sleeps pass. -/
def State.tickWave (s : State) (u n : Nat) : State :=
  match s.wave? u with
  | none => s
  | some w =>
    if w.tp.isSome then s.updWave u (fun w => { w with st := w.st.updSlices (List.range 8) (fun _ x => x.tick n) })
    else s.tick (clusterOf w.core) n

end Sys2Proof.Machine
end

