-- ==== Sys2Proof/Machine/Control.lean ====
section
/-! DEFINITION. Control flow: branches, the reconvergence stack, calls, the end of threads, `regang`, `trap`, `mcall`, `sleep`, and the
writes of MODE (R34 to R37, R66, R67, R76, R294, R296, R297, R302, R303, R308, R316, R339, R347, R353, R366, R367, R376, R383). -/

namespace Sys2Proof.Machine

/-- The members of the issuing gang. -/
abbrev Ctx.gang (c : Ctx) : List Nat := c.w.st.gangOf c.sl

/-- The machine with the wave's slices, registers and other checkpointed state replaced. -/
def Ctx.putSt (c : Ctx) (st : WaveCore) : State := c.s.setWave c.u { c.w with st := st }

/-- Every member of the gang continues at an address. -/
def WaveCore.goto (w : WaveCore) (g : List Nat) (pc : DWord) : WaveCore := w.updSlices g (fun _ x => { x with pc := pc, wait := none })

/-- Target of a format C word: its offset counts words from the instruction (R54). -/
def branchTarget (pc : DWord) (off : BitVec 19) : DWord := pc + 4 * off.signExtend 64

/-- NOP (R353). -/
def execNop (s : State) : Host.Outcome State Fault Refusal :=
  issueWave s (fun c => do
    c.start .nop true []
    pure c.w)

/-- BR (R294). -/
def execBr (off : BitVec 19) (s : State) : Host.Outcome State Fault Refusal :=
  issueState s (fun c => do
    c.start (.br off) true []
    pure (c.putSt (c.w.st.goto c.gang (branchTarget (c.w.st.slice c.sl).pc off))))

/-- BRU (R296). -/
def execBru (n : Fin 8) (neg : Bool) (off : BitVec 19) (s : State) : Host.Outcome State Fault Refusal :=
  issueState s (fun c => do
    c.start (.bru n neg off) true []
    let pc := (c.w.st.slice c.sl).pc
    let on := (condMask c.r true n.val neg).getLsbD 0
    pure (c.putSt (c.w.st.goto c.gang (if on then branchTarget pc off else pc + 4))))

/-! ### Divergence (R34, R36) -/

/-- The taken threads of a slice. -/
def takenOf (w : WaveCore) (cond : Lanes) (i : Nat) : BitVec 4 := (w.slice i).mask &&& w.liveBits i &&& sliceBits cond i

/-- The direction of a member: taken when one of its active threads finds the condition true, or when its mask is empty. -/
def dirOf (w : WaveCore) (cond : Lanes) (i : Nat) : Bool := decide (takenOf w cond i ≠ 0) || decide ((w.slice i).mask = 0)

/-- `brv` for the members of a gang (R34, R36). A member with an empty mask takes the taken direction; when every other goes the other way and
the gang stays whole, its PC is the gang's (log entry 14, DEDUCED). -/
def WaveCore.brv (w : WaveCore) (g : List Nat) (cond : Lanes) (off : BitVec 19) : WaveCore :=
  let full := g.filter (fun i => decide ((w.slice i).mask ≠ 0))
  let mixed := full.any (fun i => dirOf w cond i) && full.any (fun i => !dirOf w cond i)
  let allNot := !full.isEmpty && full.all (fun i => !dirOf w cond i)
  w.updSlices g (fun i x =>
    let tk := takenOf w cond i
    let nt := (x.mask &&& w.liveBits i) &&& ~~~tk
    let y : Slice := if dirOf w cond i then
        { x with stack := ⟨x.pc + 4, nt, false⟩ :: x.stack, mask := tk, pc := if allNot then x.pc + 4 else branchTarget x.pc off }
      else { x with stack := ⟨x.pc + 4, 0, false⟩ :: x.stack, pc := x.pc + 4 }
    { y with gang := if mixed then i else x.gang, wait := none })

/-- SOV when some member holds 8 entries. -/
def Ctx.stackRoom (c : Ctx) : Chk Unit := c.need (c.gang.all (fun i => decide ((c.w.st.slice i).stack.length < 8))) .sov

/-- BRV (R297). -/
def execBrv (cd : Cond) (off : BitVec 19) (s : State) : Host.Outcome State Fault Refusal :=
  issueState s (fun c => do
    c.start (.brv cd off) false []
    c.stackRoom
    pure (c.putSt (c.w.st.brv c.gang (condOf cd c.r) off)))

/-- Some member's top is a path entry with threads. -/
def WaveCore.topPath (w : WaveCore) (g : List Nat) : Bool :=
  g.any (fun i => match (w.slice i).stack with
    | e :: _ => !e.join && decide (e.mask ≠ 0)
    | [] => false)

/-- `cnv` for one member: conversion of a path entry, or a pop. -/
def Slice.cnv (conv : Bool) (x : Slice) : Slice :=
  match x.stack with
  | [] => { x with pc := x.pc + 4, wait := none }
  | e :: r =>
    if conv then { x with stack := ⟨x.pc + 4, x.mask ||| e.mask, true⟩ :: r, mask := e.mask, pc := e.pc, wait := none }
    else if e.join then { x with stack := r, mask := e.mask, pc := e.pc, wait := none }
    else { x with stack := r, pc := x.pc + 4, wait := none }

/-- The `cnv` step for a gang (R36). A member with an empty stack follows the PC of the first member that has entries (log entry 14,
DEDUCED). Where the tops differ in kind or PC, which R35 lets a `regang` bring about, each member takes its own, and the gang goes on from its
lowest member's PC (log entry 17, DESIGN CHOICE). -/
def WaveCore.cnv (w : WaveCore) (g : List Nat) : WaveCore :=
  let conv := w.topPath g
  let lead := g.find? (fun i => !(w.slice i).stack.isEmpty)
  let pc := match lead with
    | some i => ((w.slice i).cnv conv).pc
    | none => 0
  w.updSlices g (fun _ x => if lead.isSome && x.stack.isEmpty then { x with pc := pc, wait := none } else x.cnv conv)

/-- CNV (R308). -/
def execCnv (s : State) : Host.Outcome State Fault Refusal :=
  issueState s (fun c => do
    c.start .cnv false []
    pure (c.putSt (c.w.st.cnv c.gang)))

/-- The repetition of the `cnv` step while every member's mask is empty and some stack is not (R37); a stack holds at most 8 entries, and
each step pops or turns a path entry into a join entry. -/
def WaveCore.unwind (w : WaveCore) (g : List Nat) : Nat → WaveCore
  | 0 => w
  | n + 1 =>
    if g.all (fun i => decide ((w.slice i).mask = 0)) && g.any (fun i => !(w.slice i).stack.isEmpty) then (w.cnv g).unwind g n else w

/-- Steps that empty any stack of 8 entries. -/
abbrev unwindFuel : Nat := 17

/-! ### Calls -/

/-- `call` to a target: a join entry for each member (R302). -/
def WaveCore.call (w : WaveCore) (g : List Nat) (target : DWord) : WaveCore :=
  w.updSlices g (fun _ x => { x with stack := ⟨x.pc + 4, x.mask, true⟩ :: x.stack, pc := target, wait := none })

/-- CALL (R302). -/
def execCall (off : BitVec 19) (s : State) : Host.Outcome State Fault Refusal :=
  issueState s (fun c => do
    c.start (.call off) true []
    c.stackRoom
    pure (c.putSt (c.w.st.call c.gang (branchTarget (c.w.st.slice c.sl).pc off))))

/-- CALLR (R303): OPC, FET, the wait for A, ALF, SOV. -/
def execCallr (a : Operand) (s : State) : Host.Outcome State Fault Refusal :=
  issueState s (fun c => do
    c.start (.callr a) true [a]
    c.need (isUni a) .opc
    c.reads [(a, true)]
    let target := c.w.st.tx + (c.r.uni a).zeroExtend 64
    if (c.r.uni a).toNat % 4 ≠ 0 then c.raiseAt .alf target else pure ()
    c.stackRoom
    pure (c.putSt (c.w.st.call c.gang target)))

/-- RET (R367). -/
def execRet (s : State) : Host.Outcome State Fault Refusal :=
  issueState s (fun c => do
    c.start .ret true []
    c.need (c.gang.all (fun i => match (c.w.st.slice i).stack with
      | e :: _ => e.join
      | [] => false)) .sov
    let st := c.w.st.updSlices c.gang (fun _ x => match x.stack with
      | e :: r => { x with stack := r, mask := e.mask, pc := e.pc, wait := none }
      | [] => x)
    pure (c.putSt (st.unwind c.gang unwindFuel)))

/-! ### The end of threads, and `regang` -/

/-- The named slices of a `regang`'s mask that take part: the live ones (R35; in a handler, the handler gang's, R232). -/
def WaveCore.named (w : WaveCore) (m : BitVec 8) : List Nat := w.scopeSlices.filter (fun i => m.getLsbD i)

/-- The mask at which a slice waits. -/
def Slice.regangMask (x : Slice) : Option (BitVec 8) :=
  match x.wait with
  | some (.regang m) => some m
  | some .stall | some .retry | some (.recRun _ _) | some (.barrier _) | some (.handle _) | some .baton | some .hyper | some .ckpt | some .returned | none => none

/-- The lowest slice whose `regang` has every slice it waits for. -/
def WaveCore.regangDue (w : WaveCore) : Option Nat :=
  w.scopeSlices.find? (fun i => match (w.slice i).regangMask with
    | some m => (w.named m).all (fun j => (w.slice j).regangMask.isSome)
    | none => false)

/-- The first failing check of R35 among waiting slices. -/
def regangFault (w : WaveCore) (l : List Nat) : Option Cause :=
  let x := w.slice (l.headD 0)
  if l.any (fun i => decide ((w.slice i).regangMask ≠ x.regangMask)) then some .mbf
  else if l.any (fun i => decide ((w.slice i).pc ≠ x.pc)) then some .mbf
  else if l.any (fun i => decide ((w.slice i).stack.length ≠ x.stack.length)) then some .mbf
  else if l.any (fun i => decide ((w.slice i).modex ≠ x.modex ∨ (w.slice i).modem ≠ x.modem)) then some .mmf
  else none

/-- Completes a `regang` that has every slice it waits for: one gang, or the trap in the lowest of the waiting slices, the others being
pending until it is resolved (R35, R233). -/
def State.regangStep (s : State) (u : Nat) : State :=
  match s.wave? u with
  | none => s
  | some w =>
    match w.st.regangDue with
    | none => s
    | some i =>
      let l := w.st.named ((w.st.slice i).regangMask.getD 0)
      match regangFault w.st l with
      | none => s.setWave u { w with st := w.st.updSlices l (fun _ x => { x with gang := l.headD 0, pc := x.pc + 4, wait := none }) }
      | some x =>
        let st := w.st.updSlices l (fun _ y => { y with wait := none })
        let lo := l.headD 0
        (s.setWave u { w with st := st }).takeTrap u lo
          { cause := x, mask := st.active lo, fa := 0, s2 := false, asy := false, unr := false }

/-- Completes every such `regang` of a wave; at most eight can be due. -/
def State.regangSteps (s : State) (u : Nat) : State := (List.range 8).foldl (fun s _ => s.regangStep u) s

/-- REGANG (R35, R366). -/
def execRegang (m : BitVec 8) (s : State) : Host.Outcome State Fault Refusal :=
  issueState s (fun c => do
    c.start (.regang m) false []
    c.need (c.gang.all (fun i => m.getLsbD i)) .mbf
    let st := c.w.st.updSlices c.gang (fun _ x => { x with wait := some (.regang m) })
    pure ((c.putSt st).regangStep c.u))

/-- Threads leave their slices' masks and every entry of their stacks (R37). -/
def WaveCore.retire (w : WaveCore) (g : List Nat) (m : Lanes) : WaveCore :=
  w.updSlices g (fun i x =>
    let keep := ~~~(sliceBits m i)
    { x with mask := x.mask &&& keep, stack := x.stack.map (fun e => { e with mask := e.mask &&& keep }) })

/-- The lowest-numbered thread of a set. -/
def firstThread (m : Lanes) : Nat := (threadsOf m).headD 0

/-- Address that RDO and RFF report inside a run: ABASE plus the offset of a thread's frame (R190). -/
def CoreSt.frameAddr (k : CoreSt) (u t : Nat) : DWord :=
  match k.run with
  | none => 0
  | some r => match Map.find? r.calls u with
    | none => r.abase
    | some cl => match Map.find? cl.frames t with
      | some f => r.abase + BitVec.ofNat 64 f.off
      | none => r.abase

/-- The active threads of a gang leave the live set (R37): when every member's mask is then empty and some stack is not, the gang unwinds;
else it moves past the `exit`. -/
def WaveCore.exitThreads (w : WaveCore) (sl : Nat) : WaveCore :=
  let g := w.gangOf sl
  let act := w.active sl
  let r := w.retire g act
  let stay := g.any (fun i => decide ((r.slice i).mask ≠ 0)) || g.all (fun i => (r.slice i).stack.isEmpty)
  let st := bif stay then r.advance g else r.unwind g unwindFuel
  { st with live := w.live &&& ~~~act }

/-- EXIT (R316, R37). The implicit steps take the place of moving past the `exit` when every mask is empty. -/
def execExit (s : State) : Host.Outcome State Fault Refusal :=
  issueState s (fun c => do
    c.start .exit false []
    c.need (!c.w.st.inHandler) .mbf
    if c.core.inCall c.u then c.raiseAt .rff (c.core.frameAddr c.u (firstThread c.act)) else pure ()
    let st := c.w.st.exitThreads c.sl
    let gone := decide (st.live = 0)
    let s' := c.s.setWave c.u { c.w with st := st, ending := c.w.ending || gone }
    pure (bif gone then s'.irrevocable c.u else s'.regangSteps c.u))

/-! ### `trap`, `mcall`, `sleep`, MODE -/

/-- TRAP (R383). -/
def execTrap (i : BitVec 24) (s : State) : Host.Outcome State Fault Refusal :=
  issueState s (fun c => do
    c.start (.trap i) true []
    c.raiseAt .swt (i.zeroExtend 64))

/-- MCALL (R339): the gang enters the control store. The parameters are read by the operations that name them, and a v register beyond the
allocation raises OPC there (R61, R339; log entry 17, DESIGN CHOICE). -/
def execMcall (m : BitVec 8) (p1 p2 : Operand) (s : State) : Host.Outcome State Fault Refusal :=
  issueState s (fun c => do
    c.start (.mcall m p1 p2) false []
    let pos : MacPos := { m := m.toNat, p1 := encodeOperand p1, p2 := encodeOperand p2, i := 0 }
    pure (c.putSt (c.w.st.updSlices c.gang (fun _ x => { x with mac := some pos, wait := none }))))

/-- SLEEP (R376). -/
def execSleep (n : BitVec 16) (s : State) : Host.Outcome State Fault Refusal :=
  issueWave s (fun c => do
    c.start (.sleep n) true []
    pure { c.w with st := c.w.st.updSlices c.gang (fun _ x => { x with sleep := n.toNat }) })

/-- SLEEP_EXPIRY (R376): the island's cores have counted what was left of the sleep. -/
def execSleepExpiry (w sl : Nat) (s : State) : Host.Outcome State Fault Refusal :=
  match s.wave? w with
  | none => .next s
  | some x => .next (s.tickWave w (x.st.slice sl).sleep)

/-- MODEX (R66, R67, R347). -/
def execModex (en : BitVec 5) (g : BitVec 5) (t : BitVec 4) (rm : BitVec 3) (sat : BitVec 1) (fe : BitVec 2) (s : State) :
    Host.Outcome State Fault Refusal :=
  issueWave s (fun c => do
    c.start (.modex en g t rm sat fe) true []
    let f (x : Word) : Word :=
      putField (putField (putField (putField (putField x 10 5 (en.getLsbD 4) g.toNat) 6 4 (en.getLsbD 3) t.toNat)
        3 3 (en.getLsbD 2) rm.toNat) 2 1 (en.getLsbD 1) sat.toNat) 0 2 (en.getLsbD 0) fe.toNat
    pure { c.w with st := c.w.st.updSlices c.gang (fun _ x => { x with modex := f x.modex }) })

/-- MODEM (R66, R67, R347). -/
def execModem (en : BitVec 4) (sc : BitVec 3) (ord : BitVec 3) (au : BitVec 3) (aot : BitVec 1) (s : State) :
    Host.Outcome State Fault Refusal :=
  issueWave s (fun c => do
    c.start (.modem en sc ord au aot) true []
    let f (x : Word) : Word :=
      putField (putField (putField (putField x 7 3 (en.getLsbD 3) sc.toNat) 4 3 (en.getLsbD 2) ord.toNat)
        1 3 (en.getLsbD 1) au.toNat) 0 1 (en.getLsbD 0) aot.toNat
    pure { c.w with st := c.w.st.updSlices c.gang (fun _ x => { x with modem := f x.modem }) })

/-! ### Words that do not decode, and fetches that fail -/

/-- UNASSIGNED_OPCODE (R68, R53): UDI before any effect. -/
def execUnassignedOpcode (_x : Word) (s : State) : Host.Outcome State Fault Refusal :=
  issueState s (fun c => c.raise .udi)

/-- FETCH_FAULT (R51, R122, R294, R390). A poisoned sector is an asynchronous cause: it is held for
the wave until it can be delivered, and the gang fetches again after (R232, R233). -/
def execFetchFault (s : State) : Host.Outcome State Fault Refusal :=
  issueState s (fun c =>
    match c.s.fetch c.w c.sl with
    | .word _ _ | .stuck => pure c.s
    | .fault t =>
      if t.asy then pure ((c.s.block c.u c.sl .stall).updWave c.u (fun w => w.hold t.cause t.fa)) else pure (c.s.takeTrap c.u c.sl t))

end Sys2Proof.Machine
end

