-- ==== Sys2Proof/Machine/Barrier.lean ====
section
/-! DEFINITION. Barriers (R283 to R289) and fences of kinds all, loads and stores (R132, R137, R322). -/

namespace Sys2Proof.Machine

/-! ### Waiting for accesses -/

/-- Every earlier access of the issuing threads has been performed, as far as a release at the scope waits for it (R133, R167). Log entry
20: DESIGN CHOICE. -/
def Ctx.drained (c : Ctx) (sc : Nat) : Chk Unit := c.until (c.w.inflight.all (fun a => a.leftBehind c.act sc))

/-- An access that reads: a load, or an atomic other than a write (R128). -/
def Access.reads (a : Access) : Bool :=
  match a.op with
  | .load _ _ => true
  | .store _ => false
  | .atomic op _ _ => decide (op ≠ .write)

/-- An access that writes. -/
def Access.writes (a : Access) : Bool :=
  match a.op with
  | .load _ _ => false
  | .store _ => true
  | .atomic op _ _ => decide (op ≠ .read)

/-- What a fence waits for: earlier accesses of the issuing threads that its kind names, as far as its scope asks (R132, R137, R167). -/
def Ctx.fenceWait (c : Ctx) (sc : Nat) (onlyReads : Bool) : Chk Unit :=
  c.until (c.w.inflight.all (fun a => a.leftBehind c.act sc || (onlyReads && !a.reads)))

/-- An acquire at a scope: one wider than `.core` invalidates the core data cache, and one at `.fab` the cluster's read copies (R115, R139,
R166). -/
def State.acquire (s : State) (core sc : Nat) : State :=
  if core ≥ 512 then s
  else
    let s1 := if sc ≥ 2 then s.updCore core (fun k => { k with dcache := [] }) else s
    if sc = 4 then s1.updCluster (clusterOf core) (fun k => { k with peers := [] }) else s1

/-- The wave after an acquire fence of kind loads, or of kind all: what its active threads have acquired, or all that they have done, happens
before what any of them does next (R132, R133). -/
def Ctx.acqFence (c : Ctx) (sc : Nat) (all : Bool) : Wave :=
  let w := c.w.takeHeard c.u c.act sc
  w.learn (if all then c.s.releaseEvs c.u w c.act w.nextAcc else w.acquired c.act w.nextAcc) c.act

/-- FENCE_ALL (R137). -/
def execFenceAll (sc : Fin 8) (s : State) : Host.Outcome State Fault Refusal :=
  issueState s (fun c => do
    c.start (.fenceAll sc) true []
    c.fenceWait sc.val false
    let w := c.acqFence sc.val true
    pure (((c.put (w.relFence c.act sc.val (w.acquired c.act w.nextAcc))).acquire c.w.core sc.val).irrevocable c.u))
/-- FENCE_LOADS (R137). -/
def execFenceLoads (sc : Fin 8) (s : State) : Host.Outcome State Fault Refusal :=
  issueState s (fun c => do
    c.start (.fenceLoads sc) true []
    c.fenceWait sc.val true
    pure ((c.put (c.acqFence sc.val false)).acquire c.w.core sc.val))
/-- FENCE_STORES (R137). -/
def execFenceStores (sc : Fin 8) (s : State) : Host.Outcome State Fault Refusal :=
  issueState s (fun c => do
    c.start (.fenceStores sc) true []
    c.fenceWait sc.val false
    pure ((c.put (c.w.relFence c.act sc.val c.passes)).irrevocable c.u))

/-! ### Barriers -/

/-- A barrier; one not listed is uninitialised. -/
def CoreSt.bar (k : CoreSt) (b : Nat) : Barrier := (Map.find? k.bars b).getD Barrier.init
/-- Stores a barrier. -/
def State.setBar (s : State) (core b : Nat) (x : Barrier) : State := s.updCore core (fun k => { k with bars := Map.insert k.bars b x })

/-- The waves of a core group. -/
def State.wavesOf (s : State) (g : Nat) : List Nat := (s.waves.filter (fun e => decide (e.2.group = g) && e.2.plain)).map (·.1)

/-- Releases a waiter: its instruction completes, and is irrevocable (R241). -/
def State.releaseIrr (s : State) (x : Nat × Nat) (y : Wait) : State := (s.release x.1 x.2 y).irrevocable x.1

/-- The threads that wait for something in a slice's gang, or behind the trap that the gang has taken. -/
def WaveCore.waitThreads (w : WaveCore) (sl : Nat) (x : Wait) : Lanes :=
  match w.trap with
  | some t => if w.waitsBehind sl x then t.saved.foldl (fun m y => m ||| ofSlice y.mask y.sl) 0 else w.active sl
  | none => w.active sl

/-- A waiter acquires events. -/
def State.learnGang (s : State) (evs : List Nat) (x : Nat × Nat) (y : Wait) : State :=
  match s.wave? x.1 with
  | some w => s.learn x.1 evs (w.st.waitThreads x.2 y)
  | none => s

/-- The phase of a barrier completes: every waiter is released, after an acquire of what the arrivals released (R285). -/
def State.completePhase (s : State) (core b : Nat) (x : Barrier) : State :=
  x.waiters.foldl (fun s e => (s.learnGang x.evs e (.barrier b)).releaseIrr e (.barrier b))
    (s.setBar core b { x with cnt := 0, arr := [], waiters := [], evs := [] })

/-- A waiter ends its wait with a trap of its own; one behind another trap will issue its instruction again after it. -/
def State.trapWaiter (s : State) (x : Cause) (e : Nat × Nat) (y : Wait) : State :=
  match s.wave? e.1 with
  | none => s
  | some w => if w.st.waitsBehind e.2 y then s.setWave e.1 { w with st := w.st.endBehind false } else s.takeTrap e.1 e.2 { cause := x, mask := w.st.active e.2, fa := 0, s2 := false, asy := false, unr := false }

/-- The barrier becomes poisoned: every waiter ends its wait with MBF (R285). -/
def State.poisonBar (s : State) (core b : Nat) (x : Barrier) : State :=
  x.waiters.foldl (fun s e => s.trapWaiter .mbf e (.barrier b)) (s.setBar core b { x with psn := true, waiters := [] })

/-- The checks that barrier instructions share: UDI, OPC, MBF in a partial handler; the mask's register is waited for, whatever MODE.FE says
(R283). -/
def Ctx.barStart (c : Ctx) (i : Instr) (m : Operand) (readsMask : Bool) : Chk Unit := do
  c.start i false [m]
  c.need (isUni m) .opc
  c.shared
  if readsMask then c.readsFull [m] else pure ()

/-- The checks of R285 on an arrival or a wait: BRI, then MBF of a poisoned barrier. -/
def Ctx.barChecks (c : Ctx) (x : Barrier) (arrives : Bool) : Chk Unit := do
  c.need (x.val && decide (x.own = c.w.group) && x.part.contains c.u && !(arrives && x.arr.contains c.u)) .bri
  c.need (!x.psn) .mbf

/-- The mask given, and the active set, agree with the barrier's MASK. -/
def Ctx.barMaskOk (c : Ctx) (x : Barrier) (m : Operand) : Bool := decide (c.r.uni m = x.mask) && decide (c.act = x.mask &&& c.live)

/-- A disagreement poisons the barrier, and the issuing wave raises MBF. -/
def Ctx.barPoison (c : Ctx) (b : Nat) (x : Barrier) : State :=
  (c.s.poisonBar c.w.core b x).takeTrap c.u c.sl { cause := .mbf, mask := c.act, fa := 0, s2 := false, asy := false, unr := false }

/-- BAR_INIT (R284). -/
def execBarInit (b : Fin 32) (m : Operand) (s : State) : Host.Outcome State Fault Refusal :=
  issueState s (fun c => do
    c.start (.barInit b m) false [m]
    c.need (isUni m) .opc
    c.full
    c.shared
    c.readsFull [m]
    let x := c.core.bar b.val
    c.need (!(x.val && decide (x.own ≠ c.w.group)) && x.waiters.isEmpty) .bri
    let part := c.s.wavesOf c.w.group
    let y : Barrier := { val := true, own := c.w.group, exp := part.length, cnt := 0, mask := c.r.uni m, psn := false, arr := [],
                         part := part, waiters := [], evs := [] }
    pure (((c.put c.w).setBar c.w.core b.val y).irrevocable c.u))

/-- A barrier with an arrival entered, and what it releases. -/
def Barrier.arrive (x : Barrier) (u : Nat) (evs : List Nat) : Barrier :=
  { x with arr := u :: x.arr, cnt := x.cnt + 1, evs := joinEvs x.evs evs }

/-- BAR_ARRIVE (R285). -/
def execBarArrive (b : Fin 32) (m : Operand) (s : State) : Host.Outcome State Fault Refusal :=
  issueState s (fun c => do
    c.barStart (.barArrive b m) m true
    let x := c.core.bar b.val
    c.barChecks x true
    if !c.barMaskOk x m then pure (c.barPoison b.val x) else do
      c.drained 1
      let y := x.arrive c.u c.passes
      let s' := c.put c.w
      let s'' := if y.cnt = y.exp then s'.completePhase c.w.core b.val y else s'.setBar c.w.core b.val y
      pure (s''.irrevocable c.u))

/-- The issuing gang waits at a barrier. -/
def Ctx.barBlock (c : Ctx) (b : Nat) (x : Barrier) : State :=
  (c.s.block c.u c.sl (.barrier b)).setBar c.w.core b { x with waiters := x.waiters ++ [(c.u, c.sl)] }

/-- BAR_WAIT (R286): of a wave that has not arrived in the current phase, it completes and orders nothing (R289). -/
def execBarWait (b : Fin 32) (m : Operand) (s : State) : Host.Outcome State Fault Refusal :=
  issueState s (fun c => do
    c.barStart (.barWait b m) m true
    let x := c.core.bar b.val
    c.barChecks x false
    if !c.barMaskOk x m then pure (c.barPoison b.val x)
    else if x.arr.contains c.u then pure (c.barBlock b.val x)
    else pure ((c.put c.w).irrevocable c.u))

/-- BAR_SYNC (R286): an arrival, then the wait for its phase. The arrival is irrevocable at once. -/
def execBarSync (b : Fin 32) (m : Operand) (s : State) : Host.Outcome State Fault Refusal :=
  issueState s (fun c => do
    c.barStart (.barSync b m) m true
    let x := c.core.bar b.val
    c.barChecks x true
    if !c.barMaskOk x m then pure (c.barPoison b.val x) else do
      c.drained 1
      let y := x.arrive c.u c.passes
      if y.cnt = y.exp then pure ((((c.put c.w).learn c.u y.evs c.act).completePhase c.w.core b.val y).irrevocable c.u)
      else pure ((c.barBlock b.val y).irrevocable c.u))

/-- BAR_INVAL (R287): the value of its mask specifier is ignored. -/
def execBarInval (b : Fin 32) (m : Operand) (s : State) : Host.Outcome State Fault Refusal :=
  issueState s (fun c => do
    c.barStart (.barInval b m) m false
    let x := c.core.bar b.val
    c.need (!(x.val && decide (x.own ≠ c.w.group)) && x.waiters.isEmpty) .bri
    pure (((c.put c.w).setBar c.w.core b.val { x with val := false }).irrevocable c.u))

/-- A wave that ends leaves a barrier (R288). -/
def State.leaveBar (s : State) (core u b : Nat) : State :=
  let x := (s.core core).bar b
  let here (l : List (Nat × Nat)) : List (Nat × Nat) := l.filter (fun e => e.1 ≠ u)
  if x.val && x.part.contains u then
    let y : Barrier := { x with exp := x.exp - 1, cnt := if x.arr.contains u then x.cnt - 1 else x.cnt,
                                arr := x.arr.filter (· ≠ u), part := x.part.filter (· ≠ u), waiters := here x.waiters }
    if y.cnt = y.exp ∧ y.cnt > 0 then s.completePhase core b y else s.setBar core b y
  else s

/-- A wave that ends leaves every barrier. -/
def State.leaveBars (s : State) (core u : Nat) : State := (List.range 32).foldl (fun s b => s.leaveBar core u b) s

end Sys2Proof.Machine
end

