-- ==== Sys2Proof/Machine/Handles.lean ====
section
/-! DEFINITION. The buffer table and its five instructions (R153, R171, R323 to R327), and the baton (R159, R300, R301). -/

namespace Sys2Proof.Machine

/-- A handle; one not listed is free and unowned. -/
def CoreSt.handle (k : CoreSt) (h : Nat) : Handle := (Map.find? k.handles h).getD Handle.init
/-- Stores a handle. -/
def State.setHandle (s : State) (core h : Nat) (x : Handle) : State :=
  s.updCore core (fun k => { k with handles := Map.insert k.handles h x })

/-- The oldest waiter of one kind, and the others. -/
def popWaiter (fill : Bool) (l : List (Nat × Nat × Bool)) : Option (Nat × Nat) × List (Nat × Nat × Bool) :=
  match l.find? (fun e => e.2.2 == fill) with
  | some e => (some (e.1, e.2.1), l.erase e)
  | none => (none, l)

/-- FS: a FILL naming the handle has started and not completed (R153). -/
def Handle.fs (x : Handle) : Bool := decide (x.fills ≠ 0)

/-- A handle becomes free: it serves the oldest `hb.fill` that waits (R153, R326). -/
def State.freeHandle (s : State) (core h : Nat) : State :=
  let x := (s.core core).handle h
  match popWaiter true x.waiters with
  | (some e, r) => (s.setHandle core h { x with st := .filling, owner := some e.1, waiters := r }).releaseIrr e (.handle h)
  | (none, _) => s.setHandle core h { x with st := .free, owner := none }

/-- A FILL's handle becomes full: it serves the oldest `hb.acq` that waits. FS stays 1 while another FILL of the handle runs, and one whose core
group has ended becomes free when its last FILL completes (R146, R153, R324). -/
def State.fullHandle (s : State) (core h : Nat) : State :=
  let x0 := (s.core core).handle h
  let x := { x0 with fills := x0.fills - 1 }
  if x.grp.isNone then s.setHandle core h (if x.fs then x else { x with st := .free, owner := none })
  else match popWaiter false x.waiters with
    | (some e, r) => ((s.setHandle core h { x with st := .draining, owner := some e.1, waiters := r }).learnGang x.evs e (.handle h)).releaseIrr e (.handle h)
    | (none, _) => s.setHandle core h { x with st := .full, owner := none }

/-- The checks of R325 up to HBF that the handle's number and core-group owner decide. `cfg` and `state` take a handle with no owner.
Answers whether the k guard lets the instruction act. -/
def Ctx.hbStart (c : Ctx) (i : Instr) (ops : List Operand) (writes anyOwner : Bool) (dOk : Bool) (a : Operand) (srcs : List Operand) :
    Chk Bool := do
  c.start i false ops
  c.guardOk
  c.need (dOk && srcs.all (fun o => isUni o)) .opc
  c.noPGuard
  if writes then c.uwp else pure ()
  if !c.kOn then pure false else do
    c.reads (srcs.map (fun o => (o, false)))
    let n := c.r.uni a
    let x := c.core.handle n.toNat
    if n.toNat ≥ 32 ∨ !(x.grp = some c.w.group ∨ (anyOwner ∧ x.grp = none)) then c.raiseAt .hbf (n.zeroExtend 64) else pure true

/-- HBF unless a condition holds. -/
def Ctx.hbNeed (c : Ctx) (a : Operand) (ok : Bool) : Chk Unit := if ok then .ok () else c.raiseAt .hbf ((c.r.uni a).zeroExtend 64)

/-- The issuing gang joins a handle's waiters. -/
def Ctx.hbBlock (c : Ctx) (h : Nat) (fill : Bool) : State :=
  let x := c.core.handle h
  (c.s.block c.u c.sl (.handle h)).setHandle c.w.core h { x with waiters := x.waiters ++ [(c.u, c.sl, fill)] }

/-- HB_FILL (R153). -/
def execHbFill (a : Operand) (s : State) : Host.Outcome State Fault Refusal :=
  issueState s (fun c => do
    if !(← c.hbStart (.hbFill a) [a] false false true a [a]) then pure (c.put c.w) else do
      let h := (c.r.uni a).toNat
      let x := c.core.handle h
      if x.st = .free then
        pure (((c.put c.w).setHandle c.w.core h { x with st := .filling, owner := some c.u }).irrevocable c.u)
      else pure (c.hbBlock h true))

/-- HB_ACQ (R153): an acquire of the FILL that made the handle full (R171). -/
def execHbAcq (a : Operand) (s : State) : Host.Outcome State Fault Refusal :=
  issueState s (fun c => do
    if !(← c.hbStart (.hbAcq a) [a] false false true a [a]) then pure (c.put c.w) else do
      let h := (c.r.uni a).toNat
      let x := c.core.handle h
      if x.st = .full then
        pure ((((c.put c.w).learn c.u x.evs c.act).setHandle c.w.core h { x with st := .draining, owner := some c.u }).irrevocable c.u)
      else pure (c.hbBlock h false))

/-- An engine word reads its A operand through a handle. -/
def EngKind.usesHandle (k : EngKind) (h : Nat) : Bool :=
  match k with
  | .word _ _ a _ _ _ _ _ => decide (a = h)
  | .load _ _ | .zero _ | .norm _ _ => false

/-- Words of a core's engine queue become undefined (R163). -/
def CoreSt.taintEng (k : CoreSt) (f : EngOp → Bool) : CoreSt :=
  { k with eng := k.eng.map (fun o => if f o then { o with taint := true } else o) }

/-- HB_REL (R153): of a handle that the wave drains, or of an orphaned one in filling; a release of the wave's accesses (R171). A word that
is queued with the handle becomes undefined (R163). -/
def execHbRel (a : Operand) (s : State) : Host.Outcome State Fault Refusal :=
  issueState s (fun c => do
    if !(← c.hbStart (.hbRel a) [a] false false true a [a]) then pure (c.put c.w) else do
      let h := (c.r.uni a).toNat
      let x := c.core.handle h
      c.hbNeed a ((decide (x.st = .draining) && decide (x.owner = some c.u)) || (decide (x.st = .filling) && x.owner.isNone && !x.fs))
      c.until (c.w.inflight.all (fun a => a.leftBehind (BitVec.allOnes 32) 1))
      let s1 := (c.put c.w).setHandle c.w.core h { x with evs := c.s.allPasses c.u c.w }
      let s' := s1.updCore c.w.core (fun k => k.taintEng (fun o => o.kind.usesHandle h))
      pure ((s'.freeHandle c.w.core h).irrevocable c.u))

/-- The code of a state in a table entry. -/
def hstCode : HState → Nat
  | .free => 0
  | .filling => 1
  | .full => 2
  | .draining => 3

/-- A handle's table entry (R153). -/
def State.handleWord (s : State) (x : Handle) : Word :=
  let own := match x.owner with
    | some u => match s.wave? u with
      | some w => 2 ^ 10 + w.quad * 2 ^ 8 + w.slot * 2 ^ 4
      | none => 0
    | none => 0
  BitVec.ofNat 32 ((if x.sp then 2 ^ 31 else 0) + x.off.toNat * 2 ^ 21 + x.szm1.toNat * 2 ^ 11 + own + (if x.fs then 8 else 0) + hstCode x.st)

/-- HB_STATE (R153). -/
def execHbState (d a : Operand) (s : State) : Host.Outcome State Fault Refusal :=
  issueState s (fun c => do
    if !(← c.hbStart (.hbState d a) [d, a] true true (isS d) a [a]) then pure (c.put c.w) else do
      c.free (dstOf d).toList
      match d with
      | .s n => pure (c.put (c.w.putS n.val (c.s.handleWord (c.core.handle (c.r.uni a).toNat))))
      | .v _ | .a _ | .p _ | .k _ | .zero | .lane | .par1 | .par2 | .imm _ => pure (c.put c.w))

/-- HB_CFG (R153, R325): HBF unless the handle is free and bits 10–0 are zero; SPF unless the region lies in the allocation. -/
def execHbCfg (a b : Operand) (s : State) : Host.Outcome State Fault Refusal :=
  issueState s (fun c => do
    if !(← c.hbStart (.hbCfg a b) [a, b] false true true a [a, b]) then pure (c.put c.w) else do
      let h := (c.r.uni a).toNat
      let x := c.core.handle h
      let w := c.r.uni b
      c.hbNeed a (decide (x.st = .free) && decide (w.extractLsb' 0 11 = 0))
      let off := w.extractLsb' 21 10
      let szm1 := w.extractLsb' 11 10
      let inside := match c.s.group? c.w.group with
        | some g => inAlloc g (if w.getLsbD 31 then 2 else 1) (256 * off.toNat) (256 * (szm1.toNat + 1))
        | none => false
      c.need inside .spf
      let y := { x with sp := w.getLsbD 31, off := off, szm1 := szm1, grp := some c.w.group }
      pure (((c.put c.w).setHandle c.w.core h y).irrevocable c.u))

/-- First location and length of a handle's region. -/
def Handle.region (x : Handle) (core : Nat) : Nat × Nat :=
  ((if x.sp then locA core else locS core) + 256 * x.off.toNat, 256 * (x.szm1.toNat + 1))

/-- A wave that ends gives its handles up (R153): those in draining become free, those in filling lose their owner. -/
def State.dropHandle (s : State) (core u h : Nat) : State :=
  let x := (s.core core).handle h
  let y := { x with waiters := x.waiters.filter (fun e => e.1 ≠ u) }
  let s1 := if x.waiters = y.waiters then s else s.setHandle core h y
  if x.owner = some u then
    (match x.st with
      | .draining => s1.freeHandle core h
      | .filling => s1.setHandle core h { y with owner := none }
      | .free | .full => s1)
  else s1

/-- A wave that ends gives every handle up. -/
def State.dropHandles (s : State) (core u : Nat) : State := (List.range 32).foldl (fun s h => s.dropHandle core u h) s

/-- A handle of a core group that ends (R324). -/
def State.endHandle (s : State) (core g h : Nat) : State :=
  let x := (s.core core).handle h
  if x.grp = some g then
    let y := { x with grp := none, sp := false, off := 0, szm1 := 0, owner := none, waiters := [] }
    if x.st = .filling ∧ x.fs then s.setHandle core h y else s.setHandle core h { y with st := .free }
  else s

/-! ### The baton -/

/-- The baton goes to the first waiter, whose `bton.take` completes, or becomes free (R159). -/
def State.passBaton (s : State) (core : Nat) : State :=
  match (s.core core).batonQ with
  | [] => s.updCore core (fun k => { k with baton := none })
  | e :: r => (s.updCore core (fun k => { k with baton := some e.1, batonQ := r })).release e.1 e.2 .baton

/-- A wave leaves the baton: it passes it, and leaves the waiters. -/
def State.leaveBaton (s : State) (core u : Nat) : State :=
  let s1 := if (s.core core).batonQ.any (fun e => e.1 == u) then
      s.updCore core (fun k => { k with batonQ := k.batonQ.filter (fun e => e.1 ≠ u) })
    else s
  if (s1.core core).baton = some u then s1.passBaton core else s1

/-- A wave that is no more leaves what the waves of its core share: its handles, the baton and its place at barriers (R153, R159). -/
def State.leaveShared (s : State) (core u : Nat) : State := ((s.dropHandles core u).leaveBaton core u).leaveBars core u

/-- BTON_TAKE (R301). -/
def execBtonTake (s : State) : Host.Outcome State Fault Refusal :=
  issueState s (fun c => do
    c.start .btonTake false []
    c.full
    c.shared
    if c.core.baton = some c.u then pure (c.put c.w)
    else if c.core.baton = none then pure ((c.put c.w).updCore c.w.core (fun k => { k with baton := some c.u }))
    else pure ((c.s.block c.u c.sl .baton).updCore c.w.core (fun k => { k with batonQ := k.batonQ ++ [(c.u, c.sl)] })))

/-- BTON_PASS (R300). -/
def execBtonPass (s : State) : Host.Outcome State Fault Refusal :=
  issueState s (fun c => do
    c.start .btonPass false []
    c.full
    c.shared
    c.need (decide (c.core.baton = some c.u)) .btf
    pure ((c.put c.w).passBaton c.w.core))

end Sys2Proof.Machine
end

