-- ==== Sys2Proof/Machine/Matrix.lean ====
section
/-! DEFINITION. The matrix engine: bank loads and the image, tiles and their exact accumulation, the C views, and the engine's instructions
and happenings (R97 to R100, R108, R154 to R164, R169, R172, R342, R344 to R346). -/

namespace Sys2Proof.Machine

/-! ### Slots, tiles and views -/

/-- Moves a range of bytes, keeping what lies outside the destination. -/
def Mem.copyRange (m : Mem) (src dst n : Nat) : Mem :=
  m.filter (fun c => c.1 < dst)
    ++ ((m.filter (fun c => src ≤ c.1 && c.1 < src + n)).map (fun c => (c.1 - src + dst, c.2)))
    ++ m.filter (fun c => dst + n ≤ c.1)

/-- The mantissa in a slot of a core's C buffer (R97, R108). -/
def State.slot (s : State) (core n : Nat) : Int := signExt (s.mem.readN (locC core + 6 * n) 6) 48

/-- The F32 view of a slot: under the E and Q of its row's tag, +0 in an untagged row (R97, R157). -/
def State.slotF32 (s : State) (core n : Nat) : Nat :=
  let k := s.core core
  match Map.find? k.tags (n / 256) with
  | none => 0
  | some c =>
    if k.cq.contains c then f32.canon
    else match Map.find? k.ce c with
      | none => 0
      | some e => let m := s.slot core n; f32.round 0 0 (.fin (decide (m < 0)) m.natAbs e)

/-- A slot as the C.raw view reads it: 64 bits; 0 in an untagged row. -/
def State.slotRaw (s : State) (core n : Nat) : Nat :=
  if (Map.find? (s.core core).tags (n / 256)).isSome then (BitVec.ofInt 64 (s.slot core n)).toNat else 0

/-- The first C row of a handle's tile. -/
abbrev tileRow (c : Nat) : Nat := 4 * c

/-- The C handle that an operation of the queue writes. -/
def EngKind.tile? : EngKind → Option Nat
  | .load _ _ => none
  | .word _ c _ _ _ _ _ _ => some c
  | .zero c => some c
  | .norm c _ => some c

/-- A queued operation's tile holds a slot: a view reads an undefined value there (R163). -/
def CoreSt.slotBusy (k : CoreSt) (n : Nat) : Bool :=
  k.eng.any (fun o => match o.kind.tile? with
    | some c => decide (1024 * c ≤ n ∧ n < 1024 * c + 8192)
    | none => false)

/-- The latest operation on a row of C has completed, but a reader other than its wave is not ordered after that wave's acquire of it: it reads
an undefined value (R172). The wave itself reads the tile from the completion on. Log entry 24: DEDUCED. -/
def CoreSt.rowUnsync (k : CoreSt) (r : Reader) (row : Nat) : Bool :=
  k.unsync.any (fun x => decide (x.1 = row) && decide (r.src ≠ some x.2.1) && !r.knows.contains x.2.2)

/-- The rows of an operation's tile, with its number among events: other agents are not ordered after it yet. -/
def State.markRows (s : State) (core c wave : Nat) : State :=
  State.updCore { s with nextEv := s.nextEv + 1 } core (fun k =>
    { k with unsync := k.unsync.filter (fun x => !(decide (4 * c ≤ x.1) && decide (x.1 < 4 * c + 32)))
        ++ (List.range 32).map (fun i => (4 * c + i, wave, s.nextEv)) })

/-- The completed operations of a wave, which its `mwait` or its fence of kind engines acquires (R169, R172). -/
def CoreSt.opsOf (k : CoreSt) (u : Nat) : List Nat := joinEvs [] ((k.unsync.filter (fun x => decide (x.2.1 = u))).map (·.2.2))

/-- n bytes of a view of a core's C buffer, as a wave or another agent reads them. -/
def State.viewBytes (s : State) (reader : Reader) (core : Nat) (raw : Bool) (addr n : Nat) : List Byte :=
  let w := if raw then 8 else 4
  (List.range n).map (fun i =>
    let q := (addr + i) / w
    if (s.core core).slotBusy q || (s.core core).rowUnsync reader (q / 256) then Config.freeByte (s.freeCtr + i)
    else BitVec.ofNat 8 ((if raw then s.slotRaw core q else s.slotF32 core q) / 256 ^ ((addr + i) % w)))

/-- A location in the F32 view, or the raw view, of some core. -/
def isF32View (l : Nat) : Bool := decide (cf32Base ≤ l ∧ l < cf32Base + 512 * 2 ^ 18)
/-- A location in the raw view of some core. -/
def isRawView (l : Nat) : Bool := decide (crawBase ≤ l ∧ l < crawBase + 512 * 2 ^ 18)

/-- n bytes from a location on, of memory or of a view of C. -/
def State.bytesAt (s : State) (reader : Reader) (l n : Nat) : List Byte :=
  if isF32View l then s.viewBytes reader ((l - cf32Base) / 2 ^ 18) false ((l - cf32Base) % 2 ^ 18) n
  else if isRawView l then s.viewBytes reader ((l - crawBase) / 2 ^ 18) true ((l - crawBase) % 2 ^ 18) n
  else s.mem.bytes l n

/-- A tile's 8,192 mantissas. -/
def State.tile (s : State) (core c : Nat) : List Int := (List.range 8192).map (fun i => s.slot core (1024 * c + i))

/-- Stores a tile. -/
def State.setTile (s : State) (core c : Nat) (ms : List Int) : State :=
  { s with mem := s.mem.writeBytes (locC core + 6144 * c) (ms.flatMap (fun m => natLe 6 (BitVec.ofInt 48 m).toNat)) }

/-- Exponent and flag of a C handle, and the tags of its rows, after an operation on its tile (R157). -/
def State.setTileState (s : State) (core c : Nat) (e : Option Int) (q : Bool) : State :=
  s.updCore core (fun k =>
    { k with ce := Map.set k.ce c e, cq := if q then c :: k.cq.filter (· ≠ c) else k.cq.filter (· ≠ c),
             tags := (List.range 32).foldl (fun t i => Map.insert t (tileRow c + i) c) k.tags })

/-! ### Accumulation (R97 to R100, R161) -/

/-- Round half to even of x / 2^n. -/
def halfEven (x : Int) (n : Nat) : Int :=
  let q := x / (2 ^ n : Nat)
  let r := x % (2 ^ n : Nat)
  if 2 * r > (2 ^ n : Nat) ∨ (2 * r = (2 ^ n : Nat) ∧ q % 2 = 1) then q + 1 else q

/-- x × 2^k rounded half to even. -/
def scaleHalfEven (x : Int) (k : Int) : Int := if k ≥ 0 then x * (2 ^ k.toNat : Nat) else halfEven x (-k).toNat

/-- |m| + |B| × 2^k ≥ 2^47, exactly. -/
def overflows (m b k : Int) : Bool :=
  if k ≥ 0 then decide (m.natAbs + b.natAbs * 2 ^ k.toNat ≥ 2 ^ 47)
  else decide (m.natAbs * 2 ^ (-k).toNat + b.natAbs ≥ 2 ^ 47 * 2 ^ (-k).toNat)

/-- A contribution of a block to one element: position in the tile, B, and the natural exponent unless a scale is 0xFF. -/
structure Contrib where
  /-- position -/
  at_ : Nat
  /-- B, 0 when a scale is 0xFF -/
  b : Int
  /-- n -/
  n : Option Int
deriving Repr

/-- The pre-shift loop of R99. -/
def preShift (cs : List Contrib) : Nat → List Int → Int → List Int × Int
  | 0, ms, e => (ms, e)
  | fuel + 1, ms, e =>
    let arr := ms.toArray
    if cs.any (fun (x : Contrib) => overflows (arr.getD x.at_ 0) x.b ((x.n.getD e) - e)) then
      preShift cs fuel (ms.map (fun m => halfEven m 1)) (e + 1)
    else (ms, e)

/-- The loop after the last block. -/
def postShift : Nat → List Int → Int → List Int × Int
  | 0, ms, e => (ms, e)
  | fuel + 1, ms, e =>
    if ms.any (fun m => decide (m.natAbs ≥ 2 ^ 46)) then postShift fuel (ms.map (fun m => halfEven m 1)) (e + 1) else (ms, e)

/-- Shifts that any tile and any contribution can need. -/
abbrev shiftFuel : Nat := 34000

/-- The least of a list of integers. -/
def leastInt : List Int → Option Int
  | [] => none
  | x :: r => some (r.foldl min x)

/-- One block of R99: the mantissas and exponent after it. -/
def accBlock (cs : List Contrib) (t : List Int × Option Int) : List Int × Option Int :=
  let e0 := match t.2 with
    | some e => some e
    | none => leastInt (cs.filterMap (fun (x : Contrib) => x.n))
  match e0 with
  | none => (t.1, none)
  | some e =>
    let (ms, e1) := preShift cs shiftFuel t.1 e
    let add := cs.foldl (fun (a : Array Int) (x : Contrib) =>
      a.set! x.at_ (a.getD x.at_ 0 + scaleHalfEven x.b ((x.n.getD e1) - e1))) ms.toArray
    (add.toList, some e1)

/-- Weight w′ of a DW8 code (R91). -/
def dw8 (x : Nat) : Int :=
  let term (sg c : Nat) : Int := if c = 7 then 0 else (if sg = 1 then -1 else 1) * (2 ^ (6 - c) : Nat)
  term (x / 128) (x / 16 % 8) + term (x / 8 % 2) (x % 8)

/-- What a word reads: kind, A bytes, image bytes, scale word of each row. -/
structure WordIn where
  /-- 0 BI8, 1 BI4, 2 INT8 weights -/
  kind : Nat
  /-- rows -/
  rows : Nat
  /-- byte select -/
  sel : Nat
  /-- bytes of the A operand -/
  a : Array Byte
  /-- cells, then the scale row -/
  img : Array Byte
  /-- scale words by row -/
  scale : Array Word

/-- A element x′ of row i and index k (R98, R158). -/
def WordIn.x (w : WordIn) (i k : Nat) : Int :=
  if w.kind = 1 then
    let b := (w.a.getD (128 * i + k / 2) 0).toNat
    16 * signExt (b / 16 ^ (k % 2)) 4
  else signExt (w.a.getD (256 * i + k) 0).toNat 8

/-- Weight of row k and column j. -/
def WordIn.w (w : WordIn) (k j : Nat) : Int :=
  let b := (w.img.getD (256 * k + j) 0).toNat
  if w.kind = 2 then signExt b 8 else dw8 b

/-- Contributions of block g (R98, R161). -/
def WordIn.block (w : WordIn) (g : Nat) : List Contrib :=
  (List.range w.rows).flatMap (fun i => (List.range 256).map (fun j =>
    let ea := (w.scale.getD i 0).toNat / 256 ^ (g % 4) % 256
    let ew := (w.img.getD (65536 + 256 * g + j) 0).toNat
    if ea = 255 ∨ ew = 255 then { at_ := 256 * i + j, b := 0, n := none }
    else
      { at_ := 256 * i + j,
        b := (List.range 32).foldl (fun acc k => acc + w.x i (32 * g + k) * w.w (32 * g + k) j) 0,
        n := some ((ea : Int) + ew - 254 - (if w.kind = 2 then 6 else 12)) }))

/-- The tile after the four blocks of a word, its exponent, and whether some scale was 0xFF (R99). -/
def accWord (w : WordIn) (ms : List Int) (e : Option Int) : List Int × Option Int × Bool :=
  let gs := (List.range 4).map (fun g => w.block (4 * w.sel + g))
  let bad := gs.any (fun cs => cs.any (fun (x : Contrib) => x.n.isNone))
  let (ms1, e1) := gs.foldl (fun t cs => accBlock cs t) (ms, e)
  match e1 with
  | none => (ms1, none, bad)
  | some e2 => let (ms2, e3) := postShift shiftFuel ms1 e2; (ms2, some e3, bad)

/-- The left shifts of `mnorm` (R100). -/
def leftShift : Nat → List Int → Int → List Int × Int
  | 0, ms, e => (ms, e)
  | fuel + 1, ms, e =>
    if ms.any (fun m => m ≠ 0) && ms.all (fun m => decide (m.natAbs < 2 ^ 45)) && decide (e > -32767) then
      leftShift fuel (ms.map (fun m => 2 * m)) (e - 1)
    else (ms, e)

/-- `mnorm` on a tile (R100). -/
def normTile (ms : List Int) (e : Option Int) : List Int × Option Int :=
  match e with
  | none => (ms, none)
  | some x =>
    let (m1, e1) := postShift shiftFuel ms x
    let (m2, e2) := leftShift shiftFuel m1 e1
    if m2.all (· = 0) then (m2, none) else (m2, some e2)

/-! ### The queue -/

/-- Operations that take a place: all but the bank loads that an `mma` queued (R155, R160). -/
def CoreSt.engCount (k : CoreSt) : Nat :=
  (k.eng.filter (fun o => match o.kind with
    | .load _ sel => sel
    | .word _ _ _ _ _ _ _ _ | .zero _ | .norm _ _ => true)).length

/-- The bank that the image will hold at the end of the queue (R155). -/
def CoreSt.bankAhead (k : CoreSt) : Option Nat :=
  k.eng.foldl (fun b o => match o.kind with
    | .load n _ => some n
    | .word _ _ _ _ _ _ _ _ | .zero _ | .norm _ _ => b) k.image

/-- An operation as queued. -/
def EngOp.new (wave grp : Nat) (kind : EngKind) : EngOp :=
  { wave := wave, grp := grp, id := 0, kind := kind, started := false, computed := false, taint := false, aLoc := 0, aLen := 0, scale := [] }

/-- Queues operations. -/
def State.enqueue (s : State) (core : Nat) (os : List EngOp) : State := s.updCore core (fun k => { k with eng := k.eng ++ os })

/-- C handle c's tile lies in the core group's allocation (R156). -/
def State.tileOk (s : State) (grp c : Nat) : Bool :=
  match s.group? grp with
  | some g => decide (c ≤ 24) && decide (g.cUnit ≤ c ∧ c + 8 ≤ g.cUnit + g.cLen)
  | none => false

/-- Bank b belongs to the core group (R154). -/
def State.bankOk (s : State) (grp b : Nat) : Bool :=
  match s.group? grp with
  | some g => g.banks.contains b
  | none => false

/-- Rows by code: 8, 16, 32. -/
def rowsOf (r : Nat) : Nat := if r = 0 then 8 else if r = 1 then 16 else 32

/-- A write to the A region of an `mma` that does not happen before the wave's latest `mfence` has been performed (R163, R172). Log entry 23:
DEDUCED. -/
def State.unfenced (s : State) (u : Nat) (w : Wave) (l n : Nat) : Bool :=
  s.evs.any (fun e => isA e.loc && overlap l n e.loc e.n && !(decide (e.src = some u) && decide (e.acc < w.st.mfenceAt)) && !w.st.mfenceSeen.contains e.id)

/-- An `mma` (R160, R344, R345). -/
def Ctx.mma (c : Ctx) (i : Instr) (kind : Nat) (ch h : Fin 32) (bank : Fin 4) (v : Fin 64) (sel rows : Nat) (acc : Bool) : Chk State := do
  c.start i false [.v v]
  c.alloc [.v v]
  c.need (c.w.st.ganged c.sl && decide (c.live = BitVec.allOnes 32) && decide (c.act = BitVec.allOnes 32)) .mbf
  c.shared
  c.reads [(.v v, false)]
  let k := c.core
  c.need (decide (k.baton = some c.u)) .btf
  let x := k.handle h.val
  let len := rowsOf rows * (if kind = 1 then 128 else 256)
  if decide (x.st = .draining) && decide (x.owner = some c.u) && decide (x.grp = some c.w.group) && x.sp && decide (len ≤ (x.region c.w.core).2)
  then pure () else c.raiseAt .hbf (BitVec.ofNat 64 h.val)
  c.need (c.s.bankOk c.w.group bank.val && c.s.tileOk c.w.group ch.val) .spf
  c.until (decide (k.engCount < 8))
  let load := if k.bankAhead = some bank.val then [] else [EngOp.new c.u c.w.group (.load bank.val false)]
  let aLoc := (x.region c.w.core).1
  let op : EngOp :=
    { wave := c.u, grp := c.w.group, id := c.w.nextAcc, kind := .word kind ch.val h.val bank.val sel (rowsOf rows) acc v.val, started := false,
      computed := false, taint := c.s.unfenced c.u c.w aLoc len, aLoc := aLoc, aLen := len,
      scale := (List.range 32).map (fun t => c.r.src (.v v) t) }
  let w := { c.w with nextAcc := c.w.nextAcc + 1,
                      watch := c.w.watch ++ [{ id := op.id, v := v.val, hit := false }] }
  pure ((c.put w).enqueue c.w.core (load ++ [op]))

/-- MMA_BI8 (R344). -/
def execMmaBi8 (c a : Fin 32) (w : Fin 4) (v : Fin 64) (sl : Fin 4) (rows : Fin 4) (acc : Bool) (st : State) : Host.Outcome State Fault Refusal :=
  issueState st (fun x => x.mma (.mmaBi8 c a w v sl rows acc) 0 c a w v sl.val rows.val acc)
/-- MMA_BI4 (R344). -/
def execMmaBi4 (c a : Fin 32) (w : Fin 4) (v : Fin 64) (sl : Fin 4) (rows : Fin 4) (acc : Bool) (st : State) : Host.Outcome State Fault Refusal :=
  issueState st (fun x => x.mma (.mmaBi4 c a w v sl rows acc) 1 c a w v sl.val rows.val acc)
/-- MMA_I8W (R344). -/
def execMmaI8w (c a : Fin 32) (w : Fin 4) (v : Fin 64) (sl : Fin 4) (rows : Fin 4) (acc : Bool) (st : State) : Host.Outcome State Fault Refusal :=
  issueState st (fun x => x.mma (.mmaI8w c a w v sl rows acc) 2 c a w v sl.val rows.val acc)

/-- MWAIT (R172, R346). -/
def execMwait (s : State) : Host.Outcome State Fault Refusal :=
  issueState s (fun c => do
    c.start .mwait false []
    c.until (!c.core.eng.any (fun o => o.wave == c.u))
    pure ((c.put c.w).learn c.u (c.core.opsOf c.u) c.act))

/-- The checks that `mzero`, `mnorm` and `mwsel` share (R346). -/
def Ctx.engStart (c : Ctx) (i : Instr) (ops : List Operand) (dOk writes : Bool) (a : Operand) : Chk Unit := do
  c.start i false ops
  c.need (dOk && isUni a) .opc
  if writes then c.uwp else pure ()
  c.full
  c.shared
  c.reads [(a, false)]
  c.need (decide (c.core.baton = some c.u)) .btf

/-- The C handle that an operand names: HBF for bits 31–5, SPF by R156. -/
def Ctx.tileArg (c : Ctx) (a : Operand) : Chk Nat := do
  let n := (c.r.uni a).toNat
  if n ≥ 32 then c.raiseAt .hbf (BitVec.ofNat 64 n) else pure ()
  c.need (c.s.tileOk c.w.group n) .spf
  pure n

/-- MZERO (R162, R346). -/
def execMzero (a : Operand) (s : State) : Host.Outcome State Fault Refusal :=
  issueState s (fun c => do
    c.engStart (.mzero a) [a] true false a
    let n ← c.tileArg a
    c.until (decide (c.core.engCount < 8))
    pure ((c.put c.w).enqueue c.w.core [EngOp.new c.u c.w.group (.zero n)]))

/-- MNORM (R162, R346): sD is empty from issue on. -/
def execMnorm (d a : Operand) (s : State) : Host.Outcome State Fault Refusal :=
  issueState s (fun c => do
    c.engStart (.mnorm d a) [d, a] (isS d) true a
    let n ← c.tileArg a
    c.free (dstOf d).toList
    c.until (decide (c.core.engCount < 8))
    match d with
    | .s r =>
      let w := (c.w.logReg (.s r.val)).setRegs (c.r.mark (.s r.val) true)
      pure ((c.put w).enqueue c.w.core [EngOp.new c.u c.w.group (.norm n r.val)])
    | .v _ | .a _ | .p _ | .k _ | .zero | .lane | .par1 | .par2 | .imm _ => pure (c.put c.w))

/-- MWSEL (R155, R162). -/
def execMwsel (a : Operand) (s : State) : Host.Outcome State Fault Refusal :=
  issueState s (fun c => do
    c.engStart (.mwsel a) [a] true false a
    let b := (c.r.uni a).toNat % 4
    c.need (c.s.bankOk c.w.group b) .spf
    c.until (decide (c.core.engCount < 8))
    pure ((c.put c.w).enqueue c.w.core [EngOp.new c.u c.w.group (.load b true)]))

/-- A store to the A space of some core. -/
def Access.storesA (a : Access) : Bool :=
  a.writes && a.pieces.any (fun p => isSA p.loc && !isSpaceS p.loc)

/-- The wave after an `mfence`, or a fence of kind engines, which its later `mma` operations are ordered after: its own earlier writes to A and the
others' that happen before it are ordered before them, and so is what the fence itself acquires (R163, R169, R172). -/
def Ctx.fenced (c : Ctx) (evs : List Nat) : Wave := { c.w with st := { c.w.st with mfenceAt := c.w.nextAcc, mfenceSeen := joinEvs c.passes evs } }

/-- MFENCE (R163, R342). -/
def execMfence (s : State) : Host.Outcome State Fault Refusal :=
  issueWave s (fun c => do
    c.start .mfence false []
    c.until (!c.w.inflight.any (·.storesA) && c.r.allFull)
    pure (c.fenced []))

/-- The completed packets of a wave that an acquire of its threads at a scope takes (R169, R170). -/
def Wave.packetEvs (w : Wave) (u sc : Nat) : List Nat :=
  (w.done.filter (fun d => inclusive (w.place u) sc d.who (max d.scope 2))).foldl (fun l d => joinEvs l d.evs) []

/-- FENCE_ENGINES (R169): it waits for the wave's queued operations and posted packets; it acquires what completed, the engine being one agent at
`.core` (R172); and as a release toward its later `mma` operations and packets it waits for its accesses. -/
def execFenceEngines (sc : Fin 8) (s : State) : Host.Outcome State Fault Refusal :=
  issueState s (fun c => do
    c.start (.fenceEngines sc) true []
    c.until (!c.core.eng.any (fun o => o.wave == c.u) && c.w.posted.isEmpty
      && c.w.inflight.all (fun a => a.leftBehind (BitVec.allOnes 32) sc.val))
    let engine := decide (sc.val ≥ 1)
    let evs := joinEvs (c.w.packetEvs c.u sc.val) (if engine then c.core.opsOf c.u else [])
    let w := if engine then c.fenced evs else c.w
    pure ((((c.put (w.relFence c.act sc.val c.passes)).learn c.u evs c.act).acquire c.w.core sc.val).irrevocable c.u))

/-! ### What other agents' writes do to queued operations (R163) -/

/-- Bytes of A were written: words of the queue that read them become undefined. -/
def State.touchA (s : State) (l n : Nat) : State :=
  if isA l then s.updCore ((l - bufBase) / coreWindow) (fun k => k.taintEng (fun o => overlap l n o.aLoc o.aLen)) else s

/-! ### Happenings of the engine -/

/-- Takes the front operation away. -/
def State.popEng (s : State) (core : Nat) : State := s.updCore core (fun k => { k with eng := k.eng.drop 1 })

/-- Marks an operation of the queue, by place, as started. -/
def State.startEng (s : State) (core i : Nat) : State :=
  s.updCore core (fun k => { k with eng := k.eng.modify i (fun o => { o with started := true }) })

/-- A bank load. -/
def EngKind.isLoad : EngKind → Bool
  | .load _ _ => true
  | .word _ _ _ _ _ _ _ _ | .zero _ | .norm _ _ => false

/-- A word that may still compute. -/
def EngOp.toCompute (o : EngOp) : Bool :=
  match o.kind with
  | .word _ _ _ _ _ _ _ _ => !(o.started && o.computed)
  | .load _ _ | .zero _ | .norm _ _ => false

/-- The bank load that may start: the first of the queue, not started, when no word ahead of it has still to compute (R155). -/
def CoreSt.loadReady (k : CoreSt) : Option Nat :=
  match k.eng.findIdx? (fun o => o.kind.isLoad) with
  | none => none
  | some i => if (k.eng.take i).any (·.toCompute) || ((k.eng[i]?).map (·.started)).getD true then none else some i

/-- A core's clocks run: no machine check has stopped its column (R220). -/
def State.clocked (s : State) (core : Nat) : Bool := !(s.col (colOf core)).stopped

/-- A happening of a core's engine, whose clocks run (R220). -/
def State.engineAct (s : State) (core : Nat) (f : State → State) : Host.Outcome State Fault Refusal := .next (if s.clocked core then f s else s)

/-- BANK_LOAD_START (R155): neither half-array computes. -/
def execBankLoadStart (core : Nat) (s : State) : Host.Outcome State Fault Refusal :=
  s.engineAct core (fun s => match (s.core core).loadReady with
    | some i => (s.startEng core i).updCore core (fun k => { k with imgTaint := [] })
    | none => s)

/-- The last compute cycle of a started word has passed: its half-array is free (R164). -/
def CoreSt.compute (k : CoreSt) (i : Nat) : CoreSt :=
  { k with eng := k.eng.modify i (fun o => if o.started then { o with computed := true } else o) }

/-- Copies the poison of a range of sectors to another. -/
def State.movePoison (s : State) (src dst n : Nat) : State :=
  let from_ := (s.poison.filter (fun x => src / 32 ≤ x && x < (src + n) / 32)).map (fun x => x - src / 32 + dst / 32)
  { s with poison := s.poison.filter (fun x => !(dst / 32 ≤ x && x < (dst + n) / 32)) ++ from_ }

/-- The front bank load, started, is done: the image holds the bank, undefined where a copy overlapped the load (R155). -/
def State.loadDone (s : State) (core : Nat) : State :=
  match (s.core core).eng with
  | [] => s
  | o :: _ => match o.kind with
    | .load b _ =>
      if !o.started then s
      else
        let w := locW core
        let i := locImg core
        let m := (s.mem.copyRange (w + 65536 * b) i 65536).copyRange (w + 0x40000 + 2048 * b) (i + 65536) 2048
        let s1 := ({ s with mem := m }.movePoison (w + 65536 * b) i 65536).movePoison (w + 0x40000 + 2048 * b) (i + 65536) 2048
        let s2 := (s.core core).imgTaint.foldl (fun s x => s.scramble (i + x) 1) s1
        (s2.updCore core (fun k => { k with image := some b, imgTaint := [] })).popEng core
    | .word _ _ _ _ _ _ _ _ | .zero _ | .norm _ _ => s

/-- BANK_LOAD_COMPLETE (R155). -/
def execBankLoadComplete (core : Nat) (s : State) : Host.Outcome State Fault Refusal := s.engineAct core (fun s => s.loadDone core)

/-- The half-array of a word. -/
def EngKind.half? : EngKind → Option (Nat × Nat)
  | .word _ _ _ b sel _ _ _ => some (sel, b)
  | .load _ _ | .zero _ | .norm _ _ => none

/-- The next word of a half-array that may start: the first of that half in the queue that has not, with no load ahead, the loaded bank its
own, and the half free: no word of it that has started has still to compute (R164). -/
def CoreSt.wordReady (k : CoreSt) (half : Nat) : Option Nat :=
  let busy := k.eng.any (fun o => match o.kind.half? with
    | some (h, _) => o.started && !o.computed && h == half
    | none => false)
  let ahead := k.eng.takeWhile (fun o => !o.kind.isLoad)
  if busy then none
  else (List.range ahead.length).find? (fun i => match ahead[i]? with
    | some o => !o.started && (match o.kind.half? with
      | some (h, b) => h == half && decide (k.image = some b)
      | none => false)
    | none => false)

/-- MMA_WORD_START (R164). -/
def execMmaWordStart (core half : Nat) (s : State) : Host.Outcome State Fault Refusal :=
  s.engineAct core (fun s => match (s.core core).wordReady half with
    | some i => s.startEng core i
    | none => s)

/-- No write has met the scale register of a word since its issue (R163); a wave that has ended has left word of it with the operation. -/
def State.scaleKept (s : State) (o : EngOp) : Bool :=
  match s.wave? o.wave with
  | none => true
  | some w => !w.watch.any (fun x => decide (x.id = o.id) && x.hit)

/-- A word's scale register is watched no longer. -/
def Wave.unwatch (w : Wave) (o : EngOp) : Wave := { w with watch := w.watch.filter (fun x => x.id ≠ o.id) }

/-- The free mantissas of elements that R163 makes undefined. Log entry 24: DEDUCED. -/
def freeMantissa (ctr i : Nat) : Int := signExt (leNat ((List.range 6).map (fun k => Config.freeByte (ctr + 6 * i + k)))) 48

/-- A range of whole sectors loses its poison: every byte has been written (R390). -/
def State.cleanse (s : State) (l n : Nat) : State :=
  { s with poison := s.poison.filter (fun x => !(decide (l ≤ 32 * x) && decide (32 * x + 32 ≤ l + n))) }

/-- The front word, started, is done: it updates and tags its tile (R160, R163, R164). -/
def State.wordDone (s : State) (core : Nat) : State :=
  match (s.core core).eng with
  | [] => s
  | o :: _ => match o.kind with
    | .word kind c _ _ sel rows acc _ =>
      if !o.started then s
      else
        let s0 := s.logTile o.wave core c ((List.range 32).map (· + tileRow c))
        let k := s0.core core
        let w : WordIn := { kind := kind, rows := rows, sel := sel, a := (s0.mem.bytes o.aLoc o.aLen).toArray,
                            img := (s0.mem.bytes (locImg core) 67584).toArray, scale := o.scale.toArray }
        let ms := if acc then s0.tile core c else List.replicate 8192 0
        let r := accWord w ms (if acc then Map.find? k.ce c else none)
        let bad := o.taint || !s0.scaleKept o
        let out := if bad then (List.range (256 * rows)).map (freeMantissa s0.freeCtr) ++ r.1.drop (256 * rows) else r.1
        let s1 := (s0.setTile core c out).setTileState core c r.2.1 (r.2.2 || (acc && k.cq.contains c))
        let s2 := if bad then { s1 with freeCtr := s1.freeCtr + 6 * 256 * rows } else s1
        let hurt := s.poison.any (fun x => (sectorsOf o.aLoc o.aLen).contains x
          || (sectorsOf (locImg core + 256 * 128 * sel) 32768).contains x || (sectorsOf (locImg core + 65536 + 1024 * sel) 1024).contains x)
        let s3 := if hurt then
            let t := sectorsOf (locC core + 6144 * c) 49152
            { (s2.updWave o.wave (fun w => w.hold .uce 0)) with poison := s2.poison.filter (fun x => !t.contains x) ++ t }
          else if acc then s2 else s2.cleanse (locC core + 6144 * c) 49152
        ((s3.updWave o.wave (fun w => w.unwatch o)).markRows core c o.wave).popEng core
    | .load _ _ | .zero _ | .norm _ _ => s

/-- MMA_WORD_COMPLETE (R160, R163, R164). -/
def execMmaWordComplete (core : Nat) (s : State) : Host.Outcome State Fault Refusal := s.engineAct core (fun s => s.wordDone core)

/-- The front `mzero` is done (R162, R164). -/
def State.zeroDone (s : State) (core : Nat) : State :=
  match (s.core core).eng with
  | [] => s
  | o :: _ => match o.kind with
    | .zero c =>
      let s0 := s.logTile o.wave core c ((List.range 32).map (· + tileRow c))
      let s1 := { s0 with mem := s0.mem.zeroRange (locC core + 6144 * c) 49152 }.cleanse (locC core + 6144 * c) 49152
      ((s1.setTileState core c none false).markRows core c o.wave).popEng core
    | .load _ _ | .word _ _ _ _ _ _ _ _ | .norm _ _ => s

/-- MZERO_COMPLETE (R162, R164). -/
def execMzeroComplete (core : Nat) (s : State) : Host.Outcome State Fault Refusal := s.engineAct core (fun s => s.zeroDone core)

/-- The front `mnorm` is done: the tile is normalised, and sD receives E and Q and becomes full (R100, R162). -/
def State.normDone (s : State) (core : Nat) : State :=
  match (s.core core).eng with
  | [] => s
  | o :: _ => match o.kind with
    | .norm c r =>
      let s0 := s.logTile o.wave core c ((List.range 32).map (· + tileRow c))
      let k := s0.core core
      let q := k.cq.contains c
      let t := normTile (s0.tile core c) (Map.find? k.ce c)
      let s1 := (s0.setTile core c t.1).setTileState core c t.2 q
      let x : Word := BitVec.ofInt 16 (t.2.getD (-32768)) |>.zeroExtend 32
      let s2 := s1.updWave o.wave (fun w =>
        w.setRegs ({ w.st.regs with s := w.st.regs.s.setIfInBounds r (x ||| (if q then 0x10000 else 0)) }.mark (.s r) false))
      (s2.markRows core c o.wave).popEng core
    | .load _ _ | .word _ _ _ _ _ _ _ _ | .zero _ => s

/-- MNORM_COMPLETE (R100, R162). -/
def execMnormComplete (core : Nat) (s : State) : Host.Outcome State Fault Refusal := s.engineAct core (fun s => s.normDone core)

end Sys2Proof.Machine
end

