-- ==== Sys2Proof/Machine/Aperture.lean ====
section
/-! DEFINITION. The register apertures (R253), layout changes (R251, R254 to R256), operating points (R223), triggers (R204), and virtual
ranges as an agent outside the cores reads them. -/

namespace Sys2Proof.Machine

/-! ### Virtual ranges -/

/-- n bytes of a virtual range as pieces that lie within 64 KiB units, or the first address that fails; `fuel` bounds the units. -/
def State.spans (s : State) (cs : List RcEnt) (part space cluster : Nat) (need : BitVec 4) : Nat → Nat → Nat → Except (Nat × XErr) (List (Nat × Nat))
  | 0, _, _ => .ok []
  | fuel + 1, va, n =>
    if n = 0 then .ok []
    else
      let k := min n (65536 - va % 65536)
      match s.xlate cs part space cluster va need with
      | .error e => .error (va, e)
      | .ok r => match s.spans cs part space cluster need fuel (va + k) (n - k) with
        | .error e => .error e
        | .ok l => .ok ((r.loc, k) :: l)

/-- The units that n bytes can touch. -/
abbrev unitsOf (n : Nat) : Nat := n / 65536 + 2

/-- A range as Trailhead, outside every cluster, translates it. -/
def State.thSpans (s : State) (part space : Nat) (need : BitVec 4) (va n : Nat) : Except (Nat × XErr) (List (Nat × Nat)) :=
  s.spans [] part space 64 need (unitsOf n) va n

/-- n bytes of a range as Trailhead reads them; none where translation or permission fails, or a peer does not acknowledge (R263). -/
def State.thBytes (s : State) (part space va n : Nat) : Option (List Byte) :=
  match s.thSpans part space needRead va n with
  | .error _ => none
  | .ok l => if l.any (fun p => s.deafAt p.1) then none else some (l.flatMap (fun p => s.mem.bytes p.1 p.2))

/-- Pieces lie with a peer that the ports do not carry requests to (R254). -/
def State.spansAway (s : State) (l : List (Nat × Nat)) : Bool := l.any (fun p => !s.reach p.1 && !s.deafAt p.1)

/-- n bytes of a range have no defined translation, or lie with a peer that the ports do not carry requests to (R10, R254): Trailhead waits. -/
def State.thAway (s : State) (part space : Nat) (need : BitVec 4) (va n : Nat) : Bool :=
  match s.thSpans part space need va n with
  | .error (_, .undef) => true
  | .error (_, .mk _ _) => false
  | .ok l => s.spansAway l

/-- The location of an address as Trailhead translates it. -/
def State.thLoc (s : State) (part space : Nat) (need : BitVec 4) (va n : Nat) : Option Nat :=
  match s.thSpans part space need va n with
  | .ok [(l, _)] => some l
  | .ok _ | .error _ => none

/-! ### Layout registers (R251, R254 to R256) -/

/-- CLUSPART of a cluster in a register set. -/
def Layout.clus (l : Layout) (c : Nat) : Word := (Map.find? l.cluspart c).getD 0
/-- CONNMAT row of a cluster. -/
def Layout.conn (l : Layout) (c : Nat) : BitVec 128 := (Map.find? l.connmat c).getD 0
/-- PARTCFG of a partition; WT and BWS reset to 1. -/
def Layout.cfg (l : Layout) (p : Nat) : Word := (Map.find? l.partcfg p).getD 0x00010100
/-- Partition that a cluster is assigned to in a register set. -/
def Layout.pid (l : Layout) (c : Nat) : Option Nat :=
  let r := l.clus c
  if r.getLsbD 31 then some (r.extractLsb' 0 5).toNat else none

/-- PARTCFG.WT. -/
def cfgWt (x : Word) : Nat := (x.extractLsb' 16 8).toNat
/-- PARTCFG.BWS. -/
def cfgBws (x : Word) : Nat := (x.extractLsb' 8 8).toNat

/-- A write of LAYSTG (R254, R255): staging begins, or RES becomes 1; nothing while Basecamp stays in reset (R261). -/
def State.stage (s : State) (x : Word) : State :=
  let g := x.extractLsb' 0 16
  if s.booted.isNone then s
  else if g = s.gen + 1 ∧ s.sgen = 0 then { s with shadow := s.live, sgen := g, stag := s.bootcnt.zeroExtend 16 } else { s with res := 1 }

/-- The second check of a commit (R255). -/
def Layout.consistent (l : Layout) : Bool :=
  (List.range 64).all (fun c => match l.pid c with
    | none => true
    | some p => (l.cfg p).getLsbD 31 && (List.range 64).all (fun d => decide (l.pid d ≠ some p) || decide (l.conn d = l.conn c)))
  && (List.range 32).all (fun p => !(l.cfg p).getLsbD 31 || (decide (cfgWt (l.cfg p) ≠ 0) && decide (cfgBws (l.cfg p) ≠ 0)))

/-- The clusters whose PID or V the staged layout changes. -/
def State.movedClusters (s : State) : List Nat :=
  (List.range 64).filter (fun c => decide (s.live.clus c &&& 0x8000001F ≠ s.shadow.clus c &&& 0x8000001F))

/-- A context that holds no wave: a configuration alone. -/
def Context.idle (x : Context) : Bool := x.waves.isEmpty

/-- A core's Cistern holds no wave. -/
def State.cisternFree (s : State) (core : Nat) : Bool :=
  match (s.core core).cistern with
  | some x => x.idle
  | none => true

/-- A cluster holds a core group, a parked wave, a registered queue, or a context in a Cistern (R255). -/
def State.clusterBusy (s : State) (c : Nat) : Bool :=
  s.groups.any (fun e => decide (clusterOf e.2.core = c)) || s.waves.any (fun e => e.2.plain && decide (clusterOf e.2.core = c))
  || s.copyQs.any (fun e => decide (e.1 / 64 = c)) || (coresOf c).any (fun k => !s.cisternFree k)

/-- The checks of a commit, in order: the result for RES (R255). Log entry 34: DEDUCED. -/
def State.layCheck (s : State) (x : Word) : Nat :=
  let g := x.extractLsb' 0 16
  if g ≠ s.gen + 1 ∨ s.sgen ≠ g ∨ s.stag ≠ s.bootcnt.zeroExtend 16 then 1
  else if !s.shadow.consistent then 2
  else if s.movedClusters.any (fun c => s.clusterBusy c) then 3
  else 0

/-- A cluster that changes owner holds nothing of the old one's in its caches and Cisterns (R255, R258). -/
def State.flushCluster (s : State) (c : Nat) : State :=
  (coresOf c).foldl (fun s k => s.updCore k (fun x => { x with dcache := [], icache := [], cistern := none })) (s.updCluster c (fun x => { x with peers := [] }))

/-- The apply of a commit (R255). -/
def State.applyLayout (s : State) : State :=
  let s1 := s.movedClusters.foldl (fun s c => s.flushCluster c) s
  { s1 with live := s.shadow, gen := s.gen + 1, sgen := 0, res := 0, commitRec := false }

/-- A write of LAYCMT (R255): the checks, then the record and the apply; a commit whose record stands is applied. -/
def State.commit (s : State) (x : Word) : State :=
  if s.booted.isNone then s
  else if s.commitRec then s.applyLayout
  else
    let r := s.layCheck x
    if r = 0 then s.applyLayout else { s with res := BitVec.ofNat 2 r }

/-- The first half of a commit: the record is written, or the refusal. -/
def State.commitRecord (s : State) (x : Word) : State :=
  let r := s.layCheck x
  if s.booted.isNone then s
  else if r = 0 then { s with commitRec := true } else { s with res := BitVec.ofNat 2 r }

/-- LAYSTG (R255). -/
def execLaystg (x : Word) (s : State) : Host.Outcome State Fault Refusal := .next (s.stage x)
/-- LAYCMT (R255). -/
def execLaycmt (x : Word) (s : State) : Host.Outcome State Fault Refusal := .next (s.commit x)

/-! ### FABID (R254) -/

/-- Every Farfold Link port is idle: it carries no request, or no access to a peer is in flight. -/
def State.portsIdle (s : State) : Bool := !s.fabricUp || !s.waves.any (fun e => e.2.inflight.any (fun a => a.pieces.any (fun p => isPeer p.loc)))

/-- A write of FABID takes effect when the ports are idle. Log entry 34: DEDUCED. -/
def State.setFabid (s : State) (x : Word) : State :=
  if s.booted.isNone then s
  else if s.portsIdle then { s with fabid := x &&& 0x800003FF, fabNext := none } else { s with fabNext := some (x &&& 0x800003FF) }

/-- FABID (R254). -/
def execFabid (x : Word) (s : State) : Host.Outcome State Fault Refusal := .next (s.setFabid x)

/-! ### ISLPT (R223) -/

/-- A store of ISLPT (R6, R223): its fields, and a change when REQ differs from the point in force; one made while BUSY is kept. Log entry 33:
DEDUCED. -/
def ClusterSt.putIslpt (k : ClusterSt) (x : Word) : ClusterSt :=
  let r := x.extractLsb' 0 2
  if k.islBusy then { k with islNext := some x }
  else { k with islReq := r, islCur := x.extractLsb' 4 2, islBusy := x.getLsbD 31 || decide (r ≠ k.islCur) }

/-- Basecamp's own request of a point: a store that leaves CUR as it is, or as the change in progress will leave it. -/
def ClusterSt.request (k : ClusterSt) (r : BitVec 2) : ClusterSt :=
  k.putIslpt (BitVec.ofNat 32 (16 * (if k.islBusy then k.islReq else k.islCur).toNat + r.toNat))

/-- The end of a change of point: CUR and BUSY are updated, and a write kept meanwhile is acted on. -/
def ClusterSt.changed (k : ClusterSt) : ClusterSt :=
  let k1 := { k with islCur := k.islReq, islBusy := false, islNext := none }
  match k.islNext with
  | some x => k1.putIslpt x
  | none => k1

/-- ISLPT (R223). -/
def execIslpt (isl : Nat) (x : Word) (s : State) : Host.Outcome State Fault Refusal := .next (s.updCluster isl (fun k => k.putIslpt x))

/-- ISLPT_CHANGE_DONE (R223). -/
def execIslptChangeDone (isl : Nat) (s : State) : Host.Outcome State Fault Refusal :=
  .next (if (s.cluster isl).islBusy then s.updCluster isl ClusterSt.changed else s)

/-- COOLING_SHORTFALL (R27, R223): Basecamp lowers the island's point to 0, 1 or 2, throttles its cores (4) until cooling is back (5), or
stops its column 0 or 1 (6, 7), which COLUMN_RESTART restarts. Log entry 35: DESIGN CHOICE. -/
def execCoolingShortfall (isl : Nat) (point : Nat) (s : State) : Host.Outcome State Fault Refusal :=
  let throttle (b : Bool) : State := (coresOf isl).foldl (fun s c => s.updCore c (fun k => { k with thrCool := b })) s
  let stop (i : Nat) : State := s.setCol (2 * isl + i) { s.col (2 * isl + i) with stopped := true }
  .next (if point = 4 then throttle true
    else if point = 5 then throttle false
    else if point = 6 then stop 0
    else if point = 7 then stop 1
    else if point < (s.cluster isl).islCur.toNat then s.updCluster isl (fun k => k.request (BitVec.ofNat 2 point))
    else s)

/-! ### TRIG (R204) -/

/-- Parameter block size of a graph image (R203). -/
def Graph.psz (g : Graph) : Nat := leNat ((g.image.drop 4).take 4)

/-- The patches of a list whose bytes follow its count. -/
def patchesOf : Nat → List Byte → List (Nat × Word)
  | 0, _ => []
  | n + 1, bs => (leNat (bs.take 4), BitVec.ofNat 32 (leNat ((bs.drop 4).take 4))) :: patchesOf n (bs.drop 8)

/-- A patch list read from an address; none for one that does not translate or holds a bad entry. -/
def State.readPatches (s : State) (part : Nat) (g : Graph) (addr : Nat) : Option (List (Nat × Word)) :=
  if addr = 0 then some []
  else match s.thBytes part g.space addr 4 with
    | none => none
    | some hd =>
      let n := leNat hd
      if n > 1024 then none
      else match s.thBytes part g.space (addr + 8) (8 * n) with
        | none => none
        | some bs =>
          let ps := patchesOf n bs
          if ps.all (fun p => decide (p.1 % 4 = 0 ∧ p.1 < g.psz)) then some ps else none

/-- Key of a graph. -/
abbrev graphKey (part gid : Nat) : Nat := 65536 * part + gid

/-- A store of 8 bytes to TRIG: a pending run, or nothing. -/
def State.trig (s : State) (part : Nat) (x : DWord) : State :=
  let key := graphKey part (x.extractLsb' 48 16).toNat
  match Map.find? s.graphs key with
  | none => s
  | some g =>
    if x.extractLsb' 46 2 ≠ 0 ∨ g.pending.length ≥ 8 then s
    else match s.readPatches part g (64 * (x.extractLsb' 0 46).toNat) with
      | none => s
      | some ps => { s with graphs := Map.insert s.graphs key { g with pending := g.pending ++ [ps] } }

/-- The patch list that a store to TRIG names cannot be read yet (R10, R254). -/
def State.trigAway (s : State) (part : Nat) (x : DWord) : Bool :=
  match Map.find? s.graphs (graphKey part (x.extractLsb' 48 16).toNat) with
  | none => false
  | some g =>
    let addr := 64 * (x.extractLsb' 0 46).toNat
    let n := min (leNat ((s.thBytes part g.space addr 4).getD [])) 1024
    decide (addr ≠ 0) && (s.thAway part g.space needRead addr 4 || s.thAway part g.space needRead (addr + 8) (8 * n))

/-- A store to TRIG; during a take-over it is queued (R211), and so it is while its list cannot be read. -/
def State.trigStore (s : State) (part : Nat) (x : DWord) : State :=
  if s.takeover || s.trigAway part x then { s with heldTrigs := s.heldTrigs ++ [(part, x)] } else s.trig part x

/-- TRIG (R204). -/
def execTrig (part : Nat) (x : DWord) (s : State) : Host.Outcome State Fault Refusal := .next (if part < 32 then s.trigStore part x else s)

/-! ### The apertures (R253) -/

/-- Word k of a 128-bit register. -/
def pieceOf (x : BitVec 128) (k : Nat) : Word := x.extractLsb' (32 * k) 32
/-- Word k of a 128-bit register replaced. -/
def setPiece (x : BitVec 128) (k : Nat) (w : Word) : BitVec 128 :=
  (x &&& ~~~((0xFFFFFFFF : BitVec 128) <<< (32 * k))) ||| (w.zeroExtend 128 <<< (32 * k))

/-- STATE of COLPWR (R228). -/
def powerCode : ColPower → Nat
  | .on => 0
  | .gated => 1
  | .waking => 2
  | .retired => 3

/-- A rail of a column. -/
def ColSt.rail (k : ColSt) (m : Nat) : Rail := k.rails.getD m Rail.init

/-- COLPWR (R228); a count of failed phases that its field cannot hold shows as 7. -/
def ColSt.word (k : ColSt) : Word :=
  BitVec.ofNat 32 ((if k.wakePending then 2 ^ 31 else 0) + k.step % 16 * 2 ^ 24 + min (k.rail 2).failed 7 * 2 ^ 8 + min (k.rail 1).failed 7 * 2 ^ 5
    + min (k.rail 0).failed 7 * 2 ^ 2 + powerCode k.power)

/-- A store of COLPWR (R6, R228): its fields. Log entry 33: DEDUCED. -/
def ColSt.putWord (k : ColSt) (x : Word) : ColSt :=
  let p : ColPower := if x.extractLsb' 0 2 = 0 then .on else if x.extractLsb' 0 2 = 1 then .gated else if x.extractLsb' 0 2 = 2 then .waking else .retired
  let fail (k : ColSt) (m lo : Nat) : ColSt :=
    { k with rails := k.rails.setIfInBounds m { k.rails.getD m Rail.init with failed := (x.extractLsb' lo 3).toNat } }
  { fail (fail (fail k 0 2) 1 5) 2 8 with power := p, step := (x.extractLsb' 24 4).toNat, wakePending := x.getLsbD 31 }

/-- ISLPT (R223). -/
def ClusterSt.islpt (k : ClusterSt) : Word :=
  BitVec.ofNat 32 ((if k.islBusy then 2 ^ 31 else 0) + k.islCur.toNat * 2 ^ 4 + k.islReq.toNat)

/-- The register set that a copy names: a shadow reads as the live copy while nothing is staged. -/
def State.layoutOf (s : State) (sh : Bool) : Layout := if sh && decide (s.sgen ≠ 0) then s.shadow else s.live

/-- A 4-byte read of a register. -/
def State.apWord (s : State) (l : Nat) : Word :=
  match apReg l with
  | .trig _ _ => 0
  | .filter i => (Map.find? s.filter i).getD 0
  | .colpwr n => (s.col n).word
  | .laygen k => if k = 0 then s.stag ++ (s.bootcnt ++ s.res) else s.gen ++ s.sgen
  | .laystg => s.sgen.zeroExtend 32
  | .laycmt => 0
  | .fabid => s.fabid
  | .lbcfg => s.lbcfg
  | .cluspart sh c => (s.layoutOf sh).clus c
  | .lantcfg c => (s.cluster c).lantPeriod.zeroExtend 32
  | .islpt c => (s.cluster c).islpt
  | .connmat sh c k => pieceOf ((s.layoutOf sh).conn c) k
  | .partcfg sh p => (s.layoutOf sh).cfg p
  | .inwin i k => pieceOf ((Map.find? s.inwin i).getD 0) k
  | .none => 0

/-- A read of n bytes of an aperture: of 4 or 8 bytes, aligned; any other reads zero. -/
def State.apRead (s : State) (l n : Nat) : Nat :=
  if l % n ≠ 0 then 0
  else if n = 4 then (s.apWord l).toNat
  else if n = 8 then (s.apWord l).toNat + (s.apWord (l + 4)).toNat * 2 ^ 32
  else 0

/-- A change of the shadow set while something is staged. -/
def State.setShadow (s : State) (sh : Bool) (f : Layout → Layout) : State :=
  if sh && decide (s.sgen ≠ 0) then { s with shadow := f s.shadow } else s

/-- A store of a word of LAYGEN (R6, R255): its fields. Log entry 33: DEDUCED. -/
def State.putLaygen (s : State) (k : Nat) (x : Word) : State :=
  if k = 0 then { s with stag := x.extractLsb' 16 16, bootcnt := x.extractLsb' 2 14, res := x.extractLsb' 0 2 }
  else { s with gen := x.extractLsb' 16 16, sgen := x.extractLsb' 0 16 }

/-- A 4-byte write of a register, field by field (R6); the live layout registers ignore it (R253), and Basecamp's registers while it stays in
reset (R261). Reserved bits are not held. Log entry 33: DEDUCED. -/
def State.apPut (s : State) (l : Nat) (x : Word) : State :=
  if apBase ≤ l ∧ s.booted.isNone then s
  else match apReg l with
  | .trig _ _ => s
  | .filter i => { s with filter := Map.insert s.filter i (x &&& 0xFFFFFFF8) }
  | .colpwr n => s.setCol n ((s.col n).putWord x)
  | .laygen k => s.putLaygen k x
  | .laystg => s.stage x
  | .laycmt => s.commit x
  | .fabid => s.setFabid x
  | .lbcfg => { s with lbcfg := x }
  | .cluspart sh c => s.setShadow sh (fun l => { l with cluspart := Map.insert l.cluspart c (x &&& 0x8000001F) })
  | .lantcfg c => s.updCluster c (fun k => { k with lantPeriod := x.extractLsb' 0 16 })
  | .islpt c => s.updCluster c (fun k => k.putIslpt x)
  | .connmat sh c k => s.setShadow sh (fun l => { l with connmat := Map.insert l.connmat c (setPiece (l.conn c) k x) })
  | .partcfg sh p => s.setShadow sh (fun l => { l with partcfg := Map.insert l.partcfg p (x &&& 0x80FFFF00) })
  | .inwin i k =>
    let m : Word := if k = 0 then 0x1 else if k = 1 then 0xFF000000 else 0xFFFFFFFF
    { s with inwin := Map.insert s.inwin i (setPiece ((Map.find? s.inwin i).getD 0) k (x &&& m)) }
  | .none => s

/-- A write of n bytes of an aperture. -/
def State.apWrite (s : State) (l n x : Nat) : State :=
  if l % n ≠ 0 then s
  else if n = 4 then s.apPut l (BitVec.ofNat 32 x)
  else if n = 8 then
    match apReg l with
    | .trig p off => if off = 0 then s.trigStore p (BitVec.ofNat 64 x) else s
    | .filter _ | .colpwr _ | .laygen _ | .laystg | .laycmt | .fabid | .lbcfg | .cluspart _ _ | .lantcfg _ | .islpt _ | .connmat _ _ _
    | .partcfg _ _ | .inwin _ _ | .none => (s.apPut l (BitVec.ofNat 32 x)).apPut (l + 4) (BitVec.ofNat 32 (x / 2 ^ 32))
  else s

/-- REGISTER_WRITE (R253): a store of n bytes to a physical address of an aperture. -/
def execRegisterWrite (pa n : Nat) (x : DWord) (s : State) : Host.Outcome State Fault Refusal :=
  .next (if isAperture pa then s.apWrite pa n x.toNat else s)

end Sys2Proof.Machine
end

