-- ==== Sys2Proof/Machine/Agents.lean ====
section
/-! DEFINITION. Memory as agents other than a core's data cache reach it: stores and reads at their homes, the read copies of peer sectors
(R166), poison (R390), the pending-kick bitmap (R195), and completion stores (R197, R210, R211). -/

namespace Sys2Proof.Machine

/-! ### Poison -/

/-- The location whose sector holds what a location of a C view shows; any other location itself. -/
def baseLoc (l : Nat) : Nat :=
  if isF32View l then locC ((l - cf32Base) / 2 ^ 18) + (l - cf32Base) % 2 ^ 18 / 4 * 6
  else if isRawView l then locC ((l - crawBase) / 2 ^ 18) + (l - crawBase) % 2 ^ 18 / 8 * 6
  else l

/-- A byte's location is poisoned. -/
def State.isPoisoned (s : State) (l : Nat) : Bool :=
  s.poison.contains (sectorOf (baseLoc l)) || (decide (baseLoc l ≠ l) && s.poison.contains (sectorOf (baseLoc l + 5)))

/-- Some byte of a list of pieces lies in a poisoned sector; its place among the bytes of all. -/
def State.poisonAt (s : State) (n l : Nat) : Option Nat := if s.poison.isEmpty then none else (List.range n).find? (fun i => s.isPoisoned (l + i))

/-! ### Writes -/

/-- A sector with the bytes of a write from l on merged into it. -/
def mergeSector (old : BitVec 256) (k l : Nat) (bs : List Byte) : BitVec 256 :=
  BitVec.ofNat 256 (leNat ((List.range 32).map (fun i =>
    if l ≤ 32 * k + i ∧ 32 * k + i < l + bs.length then bs.getD (32 * k + i - l) 0 else old.extractLsb' (8 * i) 8)))

/-- Cached sectors updated where a write meets one that is present; none is added. -/
def updSectors (c : Map (BitVec 256)) (l : Nat) (bs : List Byte) : Map (BitVec 256) :=
  if c.isEmpty then c
  else (sectorsOf l bs.length).foldl (fun c k => match Map.find? c k with
    | some old => Map.insert c k (mergeSector old k l bs)
    | none => c) c

/-- The bits of the work queues whose header line a write meets are set; a queue in STOP or ERROR sets none (R195). -/
def State.kick (s : State) (l n : Nat) : State :=
  let hit := s.workQs.filter (fun e => decide (e.2.st = .run) && overlap l n e.2.hdr 128 && !s.kicks.contains e.1)
  if hit.isEmpty then s else { s with kicks := s.kicks ++ hit.map (·.1) }

/-- Image bytes that a copy into W overlaps while their bank is being loaded become undefined when the load ends (R155). -/
def CoreSt.taintImg (k : CoreSt) (off n : Nat) : CoreSt :=
  match k.eng.find? (fun o => o.started && (match o.kind with
      | .load _ _ => true
      | .word _ _ _ _ _ _ _ _ | .zero _ | .norm _ _ => false)) with
  | none => k
  | some o => match o.kind with
    | .load b _ =>
        let cells := (List.range n).filterMap (fun i => if 65536 * b ≤ off + i ∧ off + i < 65536 * (b + 1) then some (off + i - 65536 * b) else none)
        let scale := (List.range n).filterMap (fun i =>
          if 0x40000 + 2048 * b ≤ off + i ∧ off + i < 0x40000 + 2048 * (b + 1) then some (65536 + (off + i - 0x40000 - 2048 * b)) else none)
        { k with imgTaint := k.imgTaint ++ cells ++ scale }
    | .word _ _ _ _ _ _ _ _ | .zero _ | .norm _ _ => k

/-- A location of the W buffer of some core. -/
def isW (l : Nat) : Bool :=
  decide (bufBase ≤ l ∧ l < bufBase + 512 * coreWindow) && decide (0x100000 ≤ (l - bufBase) % coreWindow ∧ (l - bufBase) % coreWindow < 0x180000)

/-- A write into W meets a running load. -/
def State.touchW (s : State) (l n : Nat) : State :=
  if isW l then s.updCore ((l - bufBase) / coreWindow) (fun k => k.taintImg ((l - bufBase) % coreWindow - 0x100000) n) else s

/-- A cluster's read copies meet a write to a peer: they are updated where present (R166). -/
def State.mergeCopies (s : State) (cluster l : Nat) (bs : List Byte) : State :=
  if isPeer l && decide (cluster < 64) then s.updCluster cluster (fun k => { k with peers := updSectors k.peers l bs }) else s

/-- A write as it is performed at its home, by an agent of a cluster; 64 stands for the agents outside every cluster. Registers take it as R253
gives; the issuing cluster's read copy of a peer sector is updated where present (R166); release sequences end there (R133). -/
def State.storeAt (s : State) (cluster l : Nat) (bs : List Byte) : State :=
  if isAperture l then s.apWrite l bs.length (leNat bs)
  else
    let s1 := ({ s with mem := s.mem.writeBytes l bs }).cutSyncs l bs.length
    (((s1.mergeCopies cluster l bs).touchA l bs.length).touchW l bs.length).kick l bs.length

/-- The byte at a location of a peer among the pieces of a store that is on its way there: its place in the order of the sendings, and it. Of
several threads' bytes the last in the order of the threads stands (R379). -/
def Access.sentByte (a : Access) (l : Nat) : Option (Nat × Byte) :=
  match a.sent, (a.pieces.filter (fun p => decide (p.loc ≤ l ∧ l < p.loc + p.n))).getLast? with
  | some k, some p => some (k, BitVec.ofNat 8 (p.data / 256 ^ (l - p.loc)))
  | _, _ => none

/-- A byte of peer memory as the package sees it: the latest store on its way there, else what the home holds (R130, R133, R167; log entry
61, DEDUCED). -/
def State.peerByte (s : State) (l : Nat) : Byte :=
  let xs := s.waves.flatMap (fun e => e.2.inflight.filterMap (fun a => a.sentByte l))
  match xs.foldl (fun (b : Option (Nat × Byte)) x => match b with
    | some y => if y.1 < x.1 then some x else some y
    | none => some x) none with
  | some x => x.2
  | none => s.mem.read l

/-- A read of n bytes by a wave or another agent of a cluster: registers as R253 gives, peers through the cluster's read copies (R166), else
as stored. -/
def State.fetchBy (s : State) (reader : Reader) (cluster l n : Nat) : List Byte :=
  if isAperture l then natLe n (s.apRead l n)
  else if isPeer l && decide (cluster < 64) then
    let c := (s.cluster cluster).peers
    (List.range n).map (fun i => match Map.find? c (sectorOf (l + i)) with
      | some x => x.extractLsb' (8 * ((l + i) % 32)) 8
      | none => s.peerByte (l + i))
  else s.bytesAt reader l n

/-- A read by an agent that is no wave. -/
def State.fetchAt (s : State) (cluster l n : Nat) : List Byte := s.fetchBy (Reader.agent []) cluster l n

/-- A store as a core makes it outside its data cache's allocation: the core's own copy is updated where present (R115). -/
def State.coreStore (s : State) (core l : Nat) (bs : List Byte) : State :=
  (s.storeAt (clusterOf core) l bs).updCore core (fun k => { k with dcache := updSectors k.dcache l bs })

/-- The line of a location leaves a core's data cache: an atomic touched it (R115). The line is taken as the 128 bytes of an L2 line. Log entry 63:
DESIGN CHOICE. -/
def State.dropLine (s : State) (core l : Nat) : State := s.updCore core (fun k => { k with dcache := k.dcache.filter (fun e => e.1 / 4 ≠ l / 128) })

/-- What an atomic to a peer leaves of the issuing cluster's read copy, which stays (R166): its own bytes are as it found or left them, so that no
later load of its threads finds an older write than it read (R130). Log entry 63: DESIGN CHOICE. -/
def State.refreshCopy (s : State) (core l n : Nat) : State :=
  if core < 512 then s.mergeCopies (clusterOf core) l (s.mem.bytes l n) else s

/-- Sectors become poisoned: no core data cache holds them (R390). -/
def State.addPoison (s : State) (ks : List Nat) : State :=
  let new := (ks.filter (fun k => !s.poison.contains k)).eraseDups
  if new.isEmpty then s
  else { s with poison := s.poison ++ new,
                cores := s.cores.map (fun e => (e.1, { e.2 with dcache := e.2.dcache.filter (fun x => !new.contains x.1) })) }

/-- Sectors that one instruction wrote whole are poisoned no longer (R390). -/
def State.heal (s : State) (ks : List Nat) : State :=
  if s.poison.isEmpty then s else { s with poison := s.poison.filter (fun k => !ks.contains k) }

/-! ### Trailhead's stores -/

/-- An 8-byte store of Trailhead's, as a release at `.fab` (R197, R205). -/
def State.thSend (s : State) (loc : Nat) (x : DWord) : State := (s.storeAt 64 loc (natLe 8 x.toNat)).thSync loc 8

/-- A completion store: recorded in the journal first, and held back during a take-over (R197, R210, R211). One to a peer is held until the
peer's endpoint has acknowledged it, or is found not to (R254, R263). -/
def State.complete (s : State) (loc : Nat) (x : DWord) : State :=
  if s.takeover || isPeer loc then { s with heldStores := s.heldStores ++ [(loc, x)] }
  else ({ s with journal := .complete loc :: s.journal }).thSend loc x

/-- A change of a context's waves. -/
def Context.everyWave (x : Context) (f : Wave → Wave) : Context := { x with waves := x.waves.map (fun e => (e.1, f e.2)) }

/-- A change of every wave, in the Cisterns and in HBM too (R247). -/
def State.everyWave (s : State) (f : Wave → Wave) : State :=
  { s with waves := s.waves.map (fun e => (e.1, f e.2)), stored := s.stored.map (fun x => x.everyWave f),
           cores := s.cores.map (fun e => (e.1, { e.2 with cistern := e.2.cistern.map (fun x => x.everyWave f) })) }

/-- The record of an endpoint that does not acknowledge, in the hypervisor's ring (R259, R263; the layout is log entry 13, DESIGN CHOICE). -/
def awayRecord (addr : Nat) : List Byte := natLe 4 0 ++ natLe 4 0 ++ natLe 4 0 ++ natLe 4 0 ++ natLe 8 addr ++ natLe 8 0

/-- An owner's event ring can be reached, or there is none. -/
def State.ringReached (s : State) (owner : Nat) : Bool :=
  match (Map.find? s.svcQs owner).bind (·.evRing) with
  | some (l, _) => s.reach l
  | none => true

/-- The records that waited for their rings are written, in order; one whose ring is not reached yet waits on (R254). -/
def State.releaseRecs (s : State) : State := s.heldRecs.foldl (fun s e => s.postEvent e.1 e.2) { s with heldRecs := [] }

/-- A note to the hypervisor and Basecamp. -/
def State.note (s : State) (e : Event) : State := { s with events := e :: s.events }

/-! ### Leaky buckets (R266) -/

/-- LBCFG.MARK (R254). -/
def State.mark (s : State) : Nat := (s.lbcfg.extractLsb' 0 16).toNat

/-- Count of a bucket. -/
def State.bucket (s : State) (b : Bucket) : Nat := ((s.buckets.find? (fun e => e.1 == b)).map (·.2)).getD 0

/-- One more on a bucket (R266): the event is raised when the count reaches MARK, and then not again before it has fallen. -/
def State.charge (s : State) (b : Bucket) : State :=
  let n := s.bucket b + 1
  let s1 := { s with buckets := (b, n) :: s.buckets.filter (fun e => !(e.1 == b)) }
  if s.mark ≠ 0 ∧ n ≥ s.mark ∧ !s.raised.contains b then ({ s1 with raised := b :: s1.raised }).note (.predictive b) else s1

/-- The bytes of an atomic's location at its home: of HBM, a buffer, a register or a peer. -/
def State.homeValue (s : State) (l n : Nat) : Nat := if isAperture l then s.apRead l n else leNat (s.mem.bytes l n)

/-! ### Queues of packets (R140 to R143, R149) -/

/-- Location of the slot of an index. -/
def Queue.slot (x : Queue) (i : Word) : Nat := x.ring + 64 * (i.toNat % x.size)

/-- The write index that a queue's header shows. -/
def State.widx (s : State) (x : Queue) : Word := BitVec.ofNat 32 (s.mem.readN x.hdr 4)

/-- The packet at the internal RIDX, when the queue runs, the header shows one, and it is ready (R143); one that lies with a peer is read when the
ports carry requests and the peer answers (R254, R263). -/
def State.head? (s : State) (x : Queue) : Option (List Byte) :=
  let d := (s.widx x - x.ridx).toNat
  if x.st = .run ∧ 1 ≤ d ∧ d ≤ x.size ∧ s.reach x.hdr ∧ s.reach (x.slot x.ridx) then
    let b := s.mem.bytes (x.slot x.ridx) 64
    if leNat (b.take 4) / 2 ^ 31 = 1 then some b else none
  else none

/-- The error record of R149. Log entry 29 (DESIGN CHOICE) says for which codes it has a faulting address. -/
def errRecord (code stCode : Nat) (ridx widx : Word) (addr : Nat) : List Byte :=
  natLe 4 (code + stCode * 2 ^ 8) ++ natLe 4 ridx.toNat ++ natLe 4 widx.toNat ++ natLe 4 0 ++ natLe 8 addr ++ natLe 8 0

/-- The state that a failed check leaves: ERROR for codes 1 and 2, else STOP; codes 5 and 6 quarantine the packet (R149, R200): its index is
kept, and nothing more follows from it. Log entry 29: DESIGN CHOICE. -/
def Queue.failed (x : Queue) (code : Nat) : Queue :=
  { x with st := if code ≤ 2 then .error else .stop, quarantine := if code = 5 ∨ code = 6 then x.quarantine ++ [x.ridx] else x.quarantine }

/-- The code of the write index a header shows, when it is wrong (R149). -/
def State.headerCode (s : State) (x : Queue) : Nat :=
  let d := (s.widx x - x.ridx).toNat
  if d ≥ 2 ^ 31 then 2 else if d > x.size then 1 else 0

/-- The bytes 0 to 3 of the head's slot become zero and the read index moves on, in the header too (R143). -/
def State.popSlot (s : State) (cluster : Nat) (x : Queue) : State :=
  (s.storeAt cluster (x.slot x.ridx) (natLe 4 0)).storeAt cluster (x.hdr + 64) (natLe 4 (x.ridx + 1).toNat)

/-- Keeps the n low bits of an address that may have left the range of 64 bits. -/
abbrev wrap64 (x : Int) : Nat := (BitVec.ofInt 64 x).toNat

end Sys2Proof.Machine
end

