-- ==== Sys2Proof/Machine/Copies.lean ====
section
/-! DEFINITION. Copy queues, packets, batches: posting from a wave, the copy engines' happenings, and what waits for them (R140 to R152, R170,
R174, R201, R290, R312, R385). -/

namespace Sys2Proof.Machine

/-! ### Packets (R144, R145) -/

/-- A packet's fields. -/
structure Packet where
  /-- KIND -/
  kind : Nat
  /-- DIM -/
  dim : Nat
  /-- TOSP -/
  tosp : Nat
  /-- FROMSP -/
  frsp : Nat
  /-- RTYPE -/
  rtype : Nat
  /-- SCOPE -/
  scope : Nat
  /-- CV -/
  cv : Nat
  /-- TO -/
  to_ : Nat
  /-- FROM, or a SIGNAL's value -/
  from_ : Nat
  /-- XCNT -/
  x : Nat
  /-- YCNT -/
  y : Nat
  /-- ZCNT -/
  z : Nat
  /-- TO strides -/
  tys : Int
  /-- TO Z stride -/
  tzs : Int
  /-- FROM strides -/
  fys : Int
  /-- FROM Z stride -/
  fzs : Int
  /-- HANDLE -/
  handle : Nat
  /-- TCORE -/
  tcore : Nat
deriving DecidableEq, Repr

/-- Fields of a packet's bytes. -/
def packetOf (b : List Byte) : Packet :=
  let h := pkField b 0 4
  { kind := h / 2 ^ 28 % 8, dim := h / 2 ^ 26 % 4, tosp := h / 2 ^ 24 % 4, frsp := h / 2 ^ 22 % 4, rtype := h / 2 ^ 20 % 4,
    scope := h / 2 ^ 17 % 8, cv := h / 2 ^ 16 % 2, to_ := pkField b 8 8, from_ := pkField b 16 8, x := pkField b 24 4,
    y := pkField b 28 2, z := pkField b 30 2, tys := signExt (pkField b 32 4) 32, tzs := signExt (pkField b 36 4) 32,
    fys := signExt (pkField b 40 4) 32, fzs := signExt (pkField b 44 4) 32, handle := pkField b 48 4 / 2 ^ 9 % 32,
    tcore := pkField b 48 4 % 512 }

/-- The packet writes global or peer memory (R237, R305). -/
def Packet.writesGlobal (p : Packet) : Bool := decide (p.kind = 3 ∨ p.kind = 4) || (decide (p.kind = 1) && decide (p.tosp = 0))

/-- TCORE is used (R145). -/
def Packet.usesCore (p : Packet) : Bool := decide (p.kind = 2) || (decide (p.kind = 1 ∨ p.kind = 3) && decide (p.tosp ≠ 0 ∨ p.frsp ≠ 0))

/-- A COPY, FILL or REDUCE-COPY. -/
def Packet.moves (p : Packet) : Bool := decide (p.kind = 1 ∨ p.kind = 2 ∨ p.kind = 3)

/-- What code 3 names: a reserved code, CV with another origin, or a reserved field that is not zero (R149). -/
def Packet.malformed (p : Packet) (b : List Byte) : Bool :=
  decide (p.kind > 4 ∨ p.scope > 4) || decide (p.cv = 1 ∧ p.frsp ≠ 3) || decide (pkField b 4 2 ≠ 0) || decide (pkField b 48 4 / 2 ^ 14 ≠ 0)
  || decide (pkField b 52 4 ≠ 0 ∨ pkField b 56 8 ≠ 0)
  || (if p.moves then
        decide (p.dim = 3) || (if p.kind = 3 then decide (p.rtype > 1) else decide (p.rtype ≠ 0))
        || (decide (p.kind ≠ 2) && decide (p.handle ≠ 0)) || (!p.usesCore && decide (p.tcore ≠ 0))
        || (decide (p.dim < 2) && decide (p.z ≠ 0 ∨ p.tzs ≠ 0 ∨ p.fzs ≠ 0))
        || (decide (p.dim = 0) && decide (p.y ≠ 0 ∨ p.tys ≠ 0 ∨ p.fys ≠ 0))
      else
        decide (p.tosp ≠ 0 ∨ p.frsp ≠ 0 ∨ p.rtype ≠ 0 ∨ p.cv ≠ 0) || decide (pkField b 24 8 ≠ 0 ∨ pkField b 32 8 ≠ 0 ∨ pkField b 40 8 ≠ 0)
        || decide (pkField b 48 4 ≠ 0)
        || (if p.kind = 4 then decide (p.dim < 2 ∧ pkField b 20 4 ≠ 0) else decide (p.dim ≠ 0 ∨ p.to_ ≠ 0 ∨ p.from_ ≠ 0)))

/-- Bytes of an element of a REDUCE-COPY, of a SIGNAL's datum. -/
def Packet.elem (p : Packet) : Nat := if p.kind = 3 then (if p.rtype = 0 then 4 else 2) else if p.dim < 2 then 4 else 8

/-- What code 4 names, given the handle (R146, R149). A handle without a core-group owner that no FILL is filling names no space: it stops the
queue with code 9 (R324). -/
def Packet.forbidden (p : Packet) (cluster : Nat) (h : Handle) : Bool :=
  (p.usesCore && decide (clusterOf p.tcore ≠ cluster))
  || (decide (p.kind = 2) && decide (p.frsp ≠ 0 ∨ p.tosp = 0 ∨ p.tosp = 3 ∨ ((h.grp.isSome = true ∨ h.st = .filling) ∧ p.tosp ≠ (if h.sp then 2 else 1))))
  || (decide (p.kind = 3) && decide (p.tosp ≠ 0 ∨ p.frsp > 1))

/-- What code 7 names (R146). -/
def Packet.misaligned (p : Packet) : Bool :=
  if p.kind = 1 ∧ p.tosp = 3 then decide (p.to_ % 32 ≠ 0 ∨ p.x % 32 ≠ 0 ∨ p.tys % 32 ≠ 0 ∨ p.tzs % 32 ≠ 0)
  else if p.kind = 3 then
    decide (p.to_ % p.elem ≠ 0 ∨ p.from_ % p.elem ≠ 0 ∨ p.x % p.elem ≠ 0) || decide (p.tys % p.elem ≠ 0 ∨ p.tzs % p.elem ≠ 0)
    || decide (p.fys % p.elem ≠ 0 ∨ p.fzs % p.elem ≠ 0)
  else if p.kind = 4 then decide (p.to_ % p.elem ≠ 0)
  else false

/-- First addresses of the rows, destination and origin, in plane and row order; none when a count is zero (R145). -/
def Packet.rows (p : Packet) : List (Int × Int) :=
  let ys := if p.dim = 0 then 1 else p.y
  let zs := if p.dim = 2 then p.z else 1
  if p.x = 0 then []
  else (List.range zs).flatMap (fun (zi : Nat) => (List.range ys).map (fun (yi : Nat) =>
    ((p.to_ : Int) + (zi : Int) * p.tzs + (yi : Int) * p.tys, (p.from_ : Int) + (zi : Int) * p.fzs + (yi : Int) * p.fys)))

/-- The location of a byte of a typed-buffer space of a core: 1 S, 2 A, 3 W; as origin 3 and 4 are the C views. -/
def engineLoc (core sp : Nat) (dst : Bool) (cv addr : Nat) : Nat :=
  if sp = 1 then locS core + addr else if sp = 2 then locA core + addr
  else if dst then locW core + addr else if cv = 1 then locF32 core + addr else locRaw core + addr

/-- n bytes from an address of a typed-buffer space lie inside it (R16, R146). -/
def engineFits (sp : Nat) (dst : Bool) (cv : Nat) (addr : Int) (n : Nat) : Bool :=
  let inside (lo hi : Int) : Bool := decide (lo ≤ addr ∧ addr + n ≤ hi)
  if sp = 1 then inside 0 0x40000
  else if sp = 2 then inside 0 0x20000
  else if dst then inside 0 0x42000
  else if cv = 1 then inside 0 0x20000
  else inside 0 0x40000

/-- Code of a translation failure (R149): 6 for a permission that is missing, else 5. A translation that is undefined has none: 0 stands for it, and
the engine, or Trailhead, is left blocked on the packet (R10, R120; log entry 58, DESIGN CHOICE). -/
def xCode (e : XErr) : Nat :=
  match e with
  | .undef => 0
  | .mk _ _ => if e.isAs true then 6 else 5

/-- The first of some pieces from an address on that meets a register of view P, which a partition's packet may not touch (R6; log entry 66,
DEDUCED). -/
def privateAt : List (Nat × Nat) → Nat → Option Nat
  | [], _ => none
  | (l, n) :: r, va => if apPrivate l n then some va else privateAt r (va + n)

/-- Pieces of a packet, or code 6 where they meet a register of view P. -/
def viewChecked (l : List (Nat × Nat)) (va : Nat) : Except (Nat × Nat) (List (Nat × Nat)) :=
  match privateAt l va with
  | some a => .error (6, a)
  | none => .ok l

/-- Pieces of one row in one space, or the code and address that stop the queue. -/
def State.rowSpans (s : State) (x : Queue) (cluster : Nat) (p : Packet) (dst : Bool) (sp : Nat) (need : BitVec 4) (base lim addr : Int) (n : Nat) :
    Except (Nat × Nat) (List (Nat × Nat)) :=
  if sp = 0 then
    match s.spans (s.cluster cluster).rc x.owner x.space cluster need (unitsOf n) (wrap64 addr) n with
    | .ok l => viewChecked l (wrap64 addr)
    | .error (a, e) => .error (xCode e, a)
  else if engineFits sp dst p.cv (base + addr) n && decide (0 ≤ addr ∧ addr + n ≤ lim) then
    .ok [(engineLoc p.tcore sp dst p.cv (base + addr).toNat, n)]
  else .error (8, 0)

/-- The pieces of every row: destination and origin. -/
abbrev Plan := List (List (Nat × Nat) × List (Nat × Nat))

/-- The pieces of all rows: row by row, the destination before the origin. The first that fails is reported, so that an extent (8) goes before a
code 5 or 6 of the row's origin or of a later row. Log entry 29: DESIGN CHOICE. -/
def State.planOf (s : State) (x : Queue) (cluster : Nat) (p : Packet) (h : Handle) : Except (Nat × Nat) Plan :=
  let big : Int := 2 ^ 64
  let base : Int := if p.kind = 2 then 256 * h.off.toNat else 0
  let lim : Int := if p.kind = 2 then 256 * (h.szm1.toNat + 1) else big
  p.rows.foldr (fun r acc =>
    match s.rowSpans x cluster p true p.tosp (if p.kind = 3 then needAtomic else needWrite) base lim r.1 p.x with
    | .error e => .error e
    | .ok d => match s.rowSpans x cluster p false p.frsp needRead 0 big r.2 p.x with
      | .error e => .error e
      | .ok o => match acc with
        | .error e => .error e
        | .ok l => .ok ((d, o) :: l)) (.ok [])

/-- The checks of a packet before any byte moves (R149): its plan, or the code and faulting address. Codes 3 and 4 come first, then 5, 6 and 8 row by
row, 7 for misalignment in the place of 8 or after all rows, and 9; a FILL of a handle that its core group has left stops with 9 at once (R324).
Log entry 29: DESIGN CHOICE. -/
def State.checkPacket (s : State) (x : Queue) (cluster : Nat) (b : List Byte) : Except (Nat × Nat) Plan :=
  let p := packetOf b
  let h := (s.core p.tcore).handle p.handle
  if p.malformed b then .error (3, 0)
  else if p.forbidden cluster h then .error (4, 0)
  else if p.kind = 4 then
    match s.spans (s.cluster cluster).rc x.owner x.space cluster (if p.dim % 2 = 1 then needAtomic else needWrite) 2 p.to_ p.elem with
    | .error (a, e) => .error (xCode e, a)
    | .ok l => match viewChecked l p.to_ with
      | .error e => .error e
      | .ok l => if p.misaligned then .error (7, 0) else .ok [(l, [])]
  else if p.kind = 0 then .ok []
  else if p.kind = 2 ∧ h.grp.isNone ∧ h.st ≠ .filling then .error (9, 0)
  else match s.planOf x cluster p h with
    | .error e => if e.1 = 8 ∧ p.misaligned then .error (7, 0) else .error e
    | .ok l => if p.misaligned then .error (7, 0)
      else if p.kind = 2 ∧ h.st ≠ .filling then .error (9, 0)
      else .ok l

/-! ### Moving bytes (R145, R146, R390) -/

/-- A location lies in one of a list of pieces. -/
def inSpans (l : List (Nat × Nat)) (x : Nat) : Bool := l.any (fun p => decide (p.1 ≤ x ∧ x < p.1 + p.2))

/-- The bytes of a list of pieces, as a packet agent that events happen before reads them. -/
def State.spanBytes (s : State) (r : Reader) (cluster : Nat) : List (Nat × Nat) → List Byte
  | [] => []
  | (l, n) :: rest =>
    (if s.racing r l n then (s.freeBytes n).1 else s.fetchBy r cluster l n) ++ State.spanBytes { s with freeCtr := s.freeCtr + n } r cluster rest

/-- The locations of a list of pieces, in order. -/
def spanLocs (l : List (Nat × Nat)) : List Nat := l.flatMap (fun p => (List.range p.2).map (· + p.1))

/-- Stores bytes over a list of pieces. -/
def State.storeSpans (s : State) (cluster : Nat) : List (Nat × Nat) → List Byte → State
  | [], _ => s
  | (l, n) :: r, bs => (s.storeAt cluster l (bs.take n)).storeSpans cluster r (bs.drop n)

/-- A packet's writes of pieces in A are events (R163). -/
def State.spanEvents (s : State) (who : Place) (l : List (Nat × Nat)) : State := l.foldl (fun s p => s.packetEventA who p.1 p.2) s

/-- Sectors that pieces of destination wrote from poisoned origins become poisoned, and those that a REDUCE-COPY read poisoned itself stay so; the
others that the packet wrote whole are not (R390). -/
def State.carryPoison (s : State) (before : State) (reads : Bool) (plan : Plan) : State :=
  if before.poison.isEmpty then s
  else
    let dst := plan.flatMap (·.1)
    let bad := plan.flatMap (fun r => ((spanLocs r.1).zip (spanLocs r.2)).filterMap (fun e =>
      if before.isPoisoned e.2 || (reads && before.isPoisoned e.1) then some (sectorOf e.1) else none))
    let whole := (dst.flatMap (fun p => sectorsOf p.1 p.2)).filter (fun k => (List.range 32).all (fun i => inSpans dst (32 * k + i)))
    { s with poison := s.poison.filter (fun k => !(whole.contains k && !bad.contains k)) }.addPoison bad

/-- Bytes read, with those that lie where the packet also writes replaced by free values: an overlap leaves them undefined (R145). -/
def freeOverlap (ctr : Nat) (src dst : List (Nat × Nat)) (bs : List Byte) : List Byte :=
  if dst.any (fun p => src.any (fun o => overlap p.1 p.2 o.1 o.2)) then
    ((spanLocs dst).zip bs).zipIdx.map (fun e => if inSpans src e.1.1 then Config.freeByte (ctr + e.2) else e.1.2)
  else bs

/-- A COPY or FILL moves its bytes: all are read, then all are written. Log entry 29: DESIGN CHOICE. -/
def State.moveBytes (s : State) (rd : Reader) (cluster : Nat) (plan : Plan) : State :=
  let src := plan.flatMap (·.2)
  let dst := plan.flatMap (·.1)
  let raw := s.spanBytes rd cluster src
  let bs := freeOverlap (s.freeCtr + raw.length) src dst raw
  (State.storeSpans { s with freeCtr := s.freeCtr + 2 * raw.length } cluster dst bs).carryPoison s false plan

/-- One element of a REDUCE-COPY: TO plus FROM, rounded RNE (R146, R174). -/
def reduceElem (rtype old x : Nat) : Nat :=
  let f := if rtype = 0 then f32 else bf16
  f.round 0 0 ((f.val old).add 0 (f.val x))

/-- A REDUCE-COPY adds its elements, one atomic add each (R174). Each ends the release sequences at its location, since R133 lets the
read-modify-writes of `atom.*` go on with them. Log entry 70: DESIGN CHOICE. -/
def State.reduceBytes (s : State) (rd : Reader) (cluster : Nat) (p : Packet) (plan : Plan) : State :=
  let src := plan.flatMap (·.2)
  let dst := plan.flatMap (·.1)
  let bs := s.spanBytes rd cluster src
  let n := p.elem
  let ls := spanLocs dst
  let add (s : State) (i : Nat) : State :=
    let l := ls.getD (n * i) 0
    let old := s.homeValue l n
    let new := natLe n (reduceElem p.rtype old (leNat ((bs.drop (n * i)).take n)))
    s.storeAt cluster l new
  let s1 := (List.range (ls.length / n)).foldl add s
  let clash := (ls.zipIdx.filter (fun e => inSpans src e.1))
  let s2 := clash.foldl (fun t e => t.storeAt cluster e.1 [Config.freeByte (s.freeCtr + bs.length + e.2)]) s1
  ({ s2 with freeCtr := s.freeCtr + bs.length + ls.length }).carryPoison s true plan

/-! ### Completion (R150, R152, R170) -/

/-- DONE advances over closed, complete batches (R150). -/
def WaveCore.advanceDone (posted : List Posted) : Nat → WaveCore → WaveCore
  | 0, w => w
  | fuel + 1, w =>
    let b := w.dne + 1
    if b = w.opn ∨ posted.any (fun p => p.batch == b) then w else WaveCore.advanceDone posted fuel { w with dne := b }

/-- DONE of a wave, and of its checkpoint, advances. -/
def Wave.advanceDone (w : Wave) : Wave :=
  { w with st := w.st.advanceDone w.posted (w.st.opn - w.st.dne).toNat, ck := w.ck.advanceDone w.posted (w.ck.opn - w.ck.dne).toNat }

/-- The completed packets with one more; those of batches that no `wait.bat` can name any more are dropped (R152). -/
def noteDone (l : List Done) (dne : BitVec 16) (e : Done) : List Done :=
  e :: l.filter (fun x => decide (x ≠ e) && decide ((BitVec.ofNat 16 x.batch - dne).toNat < 32768 ∨ (dne - BitVec.ofNat 16 x.batch).toNat < 32768))

/-- A wave's packet has completed: of the registration of the queue that it was posted to (R150), with its agent and what its completion passes
on. -/
def Wave.packetDone (w : Wave) (q : Nat) (idx : Word) (reg : Nat) (who : Place) (evs : List Nat) : Wave :=
  match w.posted.find? (fun p => decide (p.q = q) && decide (p.idx = idx) && decide (p.reg = reg)) with
  | none => w
  | some p => Wave.advanceDone { w with posted := w.posted.erase p,
                                        done := noteDone w.done w.st.dne { batch := p.batch.toNat, scope := p.scope, who := who, evs := evs } }

/-- A node of a graph run has completed (R205). -/
def State.nodeDone (s : State) (part gid node : Nat) : State :=
  match Map.find? s.graphs (graphKey part gid) with
  | none => s
  | some g =>
    let g1 := { g with run := g.run.map (fun r => { r with done := node :: r.done }) }
    { s with graphs := Map.insert s.graphs (graphKey part gid) g1 }

/-- Stores a copy queue. -/
def State.setCq (s : State) (q : Nat) (x : Queue) : State := { s with copyQs := Map.insert s.copyQs q x }

/-- The agent of a packet of a queue's cluster (R170): it lies with core TCORE, or with every core of the cluster when the packet names no typed
buffer. -/
def Packet.agent (p : Packet) (cluster : Nat) : Place := { wave := none, cores := if p.usesCore then [p.tcore] else coresOf cluster }

/-- A packet of a copy queue completes: its wave's batches and its graph node learn of it, and what it passes on (R150, R170, R205). -/
def State.finishPacket (s : State) (q : Nat) (x : Queue) (p : Packet) (idx : Word) (node : Option (Nat × Nat × Nat)) (evs : List Nat) : State :=
  let s1 := s.everyWave (fun w => w.packetDone q idx x.reg (p.agent (q / 64)) evs)
  match node with
  | some (part, gid, n) => (s1.nodeDone part gid n).tellTrailhead evs
  | none => s1

/-- The job of a queue that an index names. -/
def Queue.job? (x : Queue) (idx : Word) : Option Job := x.jobs.find? (fun j => decide (j.idx = idx))

/-! ### The engines' happenings -/

/-- A location of memory that the cluster's ports reach (R117, R251), or of a peer that acknowledges its requests (R263). -/
def State.portOk (s : State) (cluster l : Nat) : Bool := if isPeer l then !s.deafAt l else (s.physLoc cluster l).isSome

/-- An engine's store of an error record; a port that is not granted carries none (R251). -/
def State.storeErr (s : State) (q : Nat) (x : Queue) (bs : List Byte) : State :=
  if s.portOk (q / 64) x.err then s.storeAt (q / 64) x.err bs else s

/-- A copy queue's header line shows a wrong write index, in RUN or in STOP: the code (R149). The engine sees it when a port carries its read,
and its error record (R254). -/
def State.badHeader (s : State) (q : Nat) (x : Queue) : Nat :=
  if x.st = .error ∨ !s.portOk (q / 64) x.hdr ∨ !s.reach x.hdr ∨ s.spansAway [(x.err, 32)] then 0 else s.headerCode x

/-- HEADER_LINE_CHANGE (R149): the write index is checked against the internal read index. -/
def execHeaderLineChange (q : Nat) (s : State) : Host.Outcome State Fault Refusal :=
  match Map.find? s.copyQs q with
  | none => .next s
  | some x =>
    let code := s.badHeader q x
    if code ≠ 0 then .next ((s.storeErr q x (errRecord code 2 x.ridx (s.widx x) 0)).setCq q (x.failed code)) else .next s

/-- The queue stops on a failed check (R149), once the ports carry its error record (R254). -/
def State.stopCq (s : State) (q : Nat) (x : Queue) (e : Nat × Nat) : State :=
  if e.1 = 0 ∨ s.spansAway [(x.err, 32)] then s else (s.storeErr q x (errRecord e.1 1 x.ridx (s.widx x) e.2)).setCq q (x.failed e.1)

/-- The packet that a copy engine finds at the head of a queue, when its ports carry the reads (R143, R251). -/
def State.cqHead? (s : State) (q : Nat) (x : Queue) : Option (List Byte) :=
  if s.portOk (q / 64) x.hdr && s.portOk (q / 64) (x.slot x.ridx) then s.head? x else none

/-- A queue with the address space in which its head's addresses are translated: the graph's, of its partition, for the packet of a graph node
(R203). -/
def State.headSpace (s : State) (x : Queue) : Queue :=
  match x.nodes.find? (fun n => decide (n.1 = x.ridx)) with
  | none => x
  | some n => match Map.find? s.graphs (graphKey n.2.1 n.2.2.1) with
    | none => x
    | some g => { x with owner := n.2.1, space := g.space }

/-- The pieces of a plan. -/
def Plan.pieces (plan : Plan) : List (Nat × Nat) := plan.flatMap (fun r => r.1 ++ r.2)

/-- The address of a packet, TO before FROM, with a location of which something holds. -/
def Packet.awayAddr (p : Packet) (plan : Plan) (f : Nat → Bool) : Nat := if plan.any (fun r => r.1.any (fun e => f e.1)) then p.to_ else p.from_

/-- The queue stops for an endpoint that does not acknowledge, at the packet of an index, and the hypervisor's ring is told. -/
def State.cqAway (s : State) (q : Nat) (x : Queue) (idx : Word) (va : Nat) : State :=
  ((((s.note (.unreachable va)).postEvent 32 (awayRecord va))).storeErr q x (errRecord 5 1 idx (s.widx x) va)).setCq q
    { x.failed 5 with quarantine := x.quarantine ++ [idx] }

/-- The engine's read of READY is an acquire at the packet's SCOPE: at `.fab` the serving cluster's read copies go (R166, R170). -/
def State.engineAcquire (s : State) (cluster scope : Nat) : State :=
  if scope = 4 then s.updCluster cluster (fun k => { k with peers := [] }) else s

/-- A packet that uses buffers of a halted core is not taken (R246). -/
def State.mayTake (s : State) (p : Packet) : Bool := !(p.usesCore && (s.cluster (clusterOf p.tcore)).halted)

/-- The graph node whose packet stands at an index of a copy queue. -/
def Queue.nodeAt (x : Queue) (idx : Word) : Option (Nat × Nat × Nat) :=
  (x.nodes.find? (fun n => decide (n.1 = idx))).map (fun n => (n.2.1, n.2.2.1, n.2.2.2))

/-- What happens before a packet's accesses: the releases that its engine acquires as it reads READY at the packet's SCOPE, what its handle's
`hb.rel` passed on to a FILL, and what happens before Trailhead's post of a graph node (R170, R171, R205). -/
def State.packetEvs (s : State) (q : Nat) (x : Queue) (p : Packet) : List Nat :=
  let a := evsOf (s.syncsAt (p.agent (q / 64)) p.scope (x.slot x.ridx) 64)
  let b := if p.kind = 2 then joinEvs a ((s.core p.tcore).handle p.handle).evs else a
  if (x.nodeAt x.ridx).isSome then joinEvs b s.thSeen else b

/-- The head packet, taken: the slot is cleared, the read index moves on, and the packet is a job, which events happen before. -/
def State.takeCq (s : State) (q : Nat) (x : Queue) (b : List Byte) (fill : Option (Nat × Nat)) (acted : Bool) (loc : Nat) (evs : List Nat) : State :=
  let j : Job := { idx := x.ridx, bytes := b, fill := fill, node := x.nodeAt x.ridx, acted := acted, loc := loc, launch := none, evs := evs }
  (s.popSlot (q / 64) x).setCq q { x with ridx := x.ridx + 1, jobs := x.jobs ++ [j], nodes := x.nodes.filter (fun n => n.1 ≠ x.ridx) }

/-- Stores that have set out for a peer before, and have not come home, meet what a packet writes there: it waits for them (R130). -/
def State.spansWait (s : State) (l : List (Nat × Nat)) : Bool :=
  s.waves.any (fun e => e.2.inflight.any (fun b => b.sent.isSome && b.pieces.any (fun x => l.any (fun p => overlap x.loc x.n p.1 p.2))))

/-- The engine takes the head packet when it is of a kind: it checks it, and then acts on its plan; while the fabric ports carry no request,
a packet for a peer waits (R254), and one whose destinations in a peer stores on their way meet. A peer that does not acknowledge stops the queue
(R263; log entry 62, DESIGN CHOICE). -/
def State.takeKind (s : State) (q kind : Nat) (act : State → Queue → List Byte → Packet → Plan → State) : State :=
  match Map.find? s.copyQs q with
  | none => s
  | some x => match s.cqHead? q x with
    | none => s
    | some b =>
      let p := packetOf b
      if p.kind ≠ kind ∨ !s.mayTake p then s
      else match s.checkPacket (s.headSpace x) (q / 64) b with
        | .error e => s.stopCq q x e
        | .ok plan =>
          if s.spansAway plan.pieces || s.spansWait (plan.flatMap (·.1)) then s
          else if plan.pieces.any (fun e => s.deafAt e.1) then s.cqAway q x x.ridx (p.awayAddr plan s.deafAt)
          else act (s.engineAcquire (q / 64) p.scope) x b p plan

/-- A packet that moves bytes is taken and acts: `move` does, as its agent reads; its writes to A are events that its completion passes on. -/
def State.takeMove (s : State) (q : Nat) (x : Queue) (b : List Byte) (p : Packet) (plan : Plan) (fill : Option (Nat × Nat))
    (move : State → Reader → State) : State :=
  let evs := s.packetEvs q x p
  let dst := plan.flatMap (·.1)
  let mine := (List.range (dst.filter (fun e => isA e.1)).length).map (· + s.nextEv)
  (move ((s.spanEvents (p.agent (q / 64)) dst).takeCq q x b fill true 0 (joinEvs evs mine)) (Reader.agent evs))

/-- COPY (R146). -/
def execCopy (q : Nat) (s : State) : Host.Outcome State Fault Refusal :=
  .next (s.takeKind q 1 (fun s x b p plan => s.takeMove q x b p plan none (fun t rd => t.moveBytes rd (q / 64) plan)))

/-- FILL (R146, R153): FS is 1 from the start on. -/
def execFill (q : Nat) (s : State) : Host.Outcome State Fault Refusal :=
  .next (s.takeKind q 2 (fun s x b p plan => s.takeMove q x b p plan (some (p.tcore, p.handle)) (fun t rd =>
    (t.setHandle p.tcore p.handle { (t.core p.tcore).handle p.handle with fills := ((t.core p.tcore).handle p.handle).fills + 1 }).moveBytes rd (q / 64) plan)))

/-- REDUCE_COPY (R146, R174). -/
def execReduceCopy (q : Nat) (s : State) : Host.Outcome State Fault Refusal :=
  .next (s.takeKind q 3 (fun s x b p plan => s.takeMove q x b p plan none (fun t rd => t.reduceBytes rd (q / 64) p plan)))

/-- A SIGNAL's store, or its atomic add, as a release at the wider of SCOPE and `.clus` that passes events on (R146, R170). -/
def State.signalStore (s : State) (cluster : Nat) (p : Packet) (loc : Nat) (evs : List Nat) : State :=
  let old := if p.dim % 2 = 1 then s.homeValue loc p.elem else 0
  let ys := if p.dim % 2 = 1 then s.syncs.filter (fun y => overlap y.loc y.n loc p.elem) else []
  let s1 := s.storeAt cluster loc (natLe p.elem (old + p.from_))
  State.addSync { s1 with syncs := s1.syncs ++ ys } { loc := loc, n := p.elem, who := p.agent cluster, scope := max p.scope 2, evs := evs }

/-- A SIGNAL that was taken acts once every earlier packet of its queue has completed (R143). -/
def State.signalJob (s : State) (q : Nat) (x : Queue) (j : Job) : State :=
  (s.signalStore (q / 64) (packetOf j.bytes) j.loc (joinEvs x.evs j.evs)).setCq q
    { x with jobs := x.jobs.map (fun k => if k.idx = j.idx then { k with acted := true } else k) }

/-- A SIGNAL may act on its location: the ports carry requests when it is a peer's, and the stores on their way there are home (R130, R254). -/
def State.signalReady (s : State) (j : Job) : Bool :=
  !isPeer j.loc || (s.fabricUp && !s.spansWait [(j.loc, (packetOf j.bytes).elem)])

/-- The endpoint of a peer that a SIGNAL already taken, or the head packet, reaches does not acknowledge (R263): the queue stops as for an
address that does not translate, and the hypervisor's ring is told; nothing more follows from such a SIGNAL. Log entry 62: DESIGN CHOICE. -/
def State.packetUnreachable (s : State) (q : Nat) : State :=
  match Map.find? s.copyQs q with
  | none => s
  | some x => match x.jobs.head?.filter (fun j => !j.acted && isPeer j.loc) with
    | some j => s.cqAway q { x with jobs := x.jobs.erase j } j.idx (packetOf j.bytes).to_
    | none => match s.cqHead? q x with
      | none => s
      | some b =>
        let p := packetOf b
        match s.checkPacket (s.headSpace x) (q / 64) b with
        | .error _ => s
        | .ok plan =>
          if plan.any (fun r => (r.1 ++ r.2).any (fun e => isPeer e.1)) then s.cqAway q x x.ridx (p.awayAddr plan isPeer) else s

/-- COPY_SIGNAL (R143, R146): a SIGNAL that stands first among the packets not completed acts; else the head, when it is a SIGNAL, is
taken. -/
def execCopySignal (q : Nat) (s : State) : Host.Outcome State Fault Refusal :=
  match Map.find? s.copyQs q with
  | none => .next s
  | some x => match x.jobs.head? with
    | some j =>
      if !j.acted then .next (if s.deafAt j.loc then s.packetUnreachable q else if s.signalReady j then s.signalJob q x j else s)
      else .next (s.takeKind q 4 (fun s x b p plan => s.takeCq q x b none false (((plan.flatMap (·.1)).headD (0, 0)).1) (s.packetEvs q x p)))
    | none => .next (s.takeKind q 4 (fun s x b p plan =>
        let loc := ((plan.flatMap (·.1)).headD (0, 0)).1
        let evs := s.packetEvs q x p
        (s.takeCq q x b none true loc evs).signalStore (q / 64) p loc (joinEvs x.evs evs)))

/-- COPY_VOID (R146): completes when taken. A reserved KIND fails here too (R149). -/
def execCopyVoid (q : Nat) (s : State) : Host.Outcome State Fault Refusal :=
  .next ([5, 6, 7].foldl (fun s k => s.takeKind q k (fun s _ _ _ _ => s)) (s.takeKind q 0 (fun s x _ p _ =>
    let s1 := (s.popSlot (q / 64) x).setCq q { x with ridx := x.ridx + 1, nodes := x.nodes.filter (fun n => n.1 ≠ x.ridx) }
    s1.finishPacket q x p x.ridx (x.nodeAt x.ridx) (s.packetEvs q x p))))

/-- PACKET_COMPLETE (R150, R170): any packet but a FILL, whose effect is done. -/
def execPacketComplete (q : Nat) (idx : Word) (s : State) : Host.Outcome State Fault Refusal :=
  match Map.find? s.copyQs q with
  | none => .next s
  | some x => match x.job? idx with
    | none => .next s
    | some j =>
      if j.fill.isSome || !j.acted then .next s
      else .next ((s.setCq q { x with jobs := x.jobs.erase j, evs := joinEvs x.evs j.evs }).finishPacket q x (packetOf j.bytes) idx j.node j.evs)

/-- FILL_COMPLETE (R146, R153, R171). -/
def execFillComplete (q : Nat) (idx : Word) (s : State) : Host.Outcome State Fault Refusal :=
  match Map.find? s.copyQs q with
  | none => .next s
  | some x => match x.job? idx with
    | none => .next s
    | some j => match j.fill with
      | none => .next s
      | some (core, h) =>
        let s1 := s.setCq q { x with jobs := x.jobs.erase j, evs := joinEvs x.evs j.evs }
        let s2 := if j.evs.isEmpty then s1 else s1.setHandle core h { (s1.core core).handle h with evs := j.evs }
        .next ((s2.fullHandle core h).finishPacket q x (packetOf j.bytes) idx j.node j.evs)

/-! ### The instructions -/

/-- The message filter table permits a kind from a partition into a queue (R201). -/
def State.filterOk (s : State) (src : Nat) (copy : Bool) (q kind : Nat) : Bool :=
  s.filter.any (fun e => decide (e.1 < 1024) && e.2.getLsbD 31 && decide ((e.2.extractLsb' 26 5).toNat = src) && decide (e.2.getLsbD 25 = copy)
    && decide ((e.2.extractLsb' 11 14).toNat = q) && decide (kind < 8) && e.2.getLsbD (3 + kind))

/-- The queue that a `cq.post` may post to (R147). -/
def Ctx.postQueue (c : Ctx) (q kind : Nat) : Option Queue :=
  match Map.find? c.s.copyQs q with
  | none => none
  | some x => if q < 4096 ∧ (x.owner = c.s.partOfWave c.w ∨ c.s.filterOk (c.s.partOfWave c.w) true q kind = true) then some x else none

/-- The packet that a `cq.post` writes, with READY set (R147). -/
def Ctx.postBytes (c : Ctx) (f : Nat) (scope : Nat) : List Byte :=
  let r (i : Nat) : Nat := (c.r.s.getD (f + i) 0).toNat
  let h := r 0
  let head := 2 ^ 31 + h / 2 ^ 20 % 2 ^ 11 * 2 ^ 20 + scope * 2 ^ 17 + h / 2 ^ 16 % 2 * 2 ^ 16 + c.w.st.opn.toNat
  let poster := 2 ^ 31 + c.w.core * 2 ^ 22 + c.w.quad * 2 ^ 20 + c.w.slot * 2 ^ 16
  natLe 4 head ++ natLe 4 poster ++ (List.range 14).flatMap (fun i => natLe 4 (r (i + 2)))

/-- A post that claims its slot: WIDX rises, the packet stands in the slot, and the wave counts it in its open batch (R142, R147). Log
entry 32: DESIGN CHOICE. -/
def Ctx.post (c : Ctx) (q : Nat) (x : Queue) (widx : Word) (k f : Nat) : State :=
  let core := c.w.core
  let scope := max (modeSC c.mm) 2
  let b := c.postBytes f scope
  let w1 := c.w.putK k true
  let w2 := { w1 with
    st := { w1.st with openCnt := w1.st.openCnt + 1, openGlob := w1.st.openGlob || (packetOf b).writesGlobal },
    posted := w1.posted ++ [{ q := q, idx := widx, reg := x.reg, batch := c.w.st.opn, scope := scope, glob := (packetOf b).writesGlobal }] }
  let s1 := ((c.put w2).storeAt (clusterOf core) x.hdr (natLe 4 (widx + 1).toNat)).dropLine core x.hdr
  let s2 := s1.coreStore core (x.slot widx) b
  (s2.addSync { loc := x.slot widx, n := 64, who := c.w.place c.u, scope := scope, evs := c.passes }).irrevocable c.u

/-- CQ_POST (R147, R312). A header line or slot that no granted port reaches raises TRF with its physical address, the virtual one being kept
nowhere. Log entry 32: DESIGN CHOICE. -/
def execCqPost (k : Fin 4) (q : Operand) (f : Fin 32) (s : State) : Host.Outcome State Fault Refusal :=
  issueState s (fun c => do
    c.start (.cqPost k q f) false [q]
    c.guardOk
    c.need (!modemReserved c.mm) .udi
    c.need (isUni q) .opc
    c.noPGuard
    c.uwp
    if !c.kOn then pure (c.put c.w) else do
      c.reads ((q, false) :: (regSpan (.s f) 16).map (fun o => (o, false)))
      let n := (c.r.uni q).toNat
      match c.postQueue n ((c.r.s.getD f.val 0).toNat / 2 ^ 28 % 8) with
      | none => c.raise .pmf
      | some x =>
        if x.st ≠ .run ∨ c.w.st.openCnt ≥ 65535 then pure ((c.put (c.w.putK k.val false)).irrevocable c.u) else do
          c.drained (max (modeSC c.mm) 2)
          let widx := c.s.widx x
          let ridx : Word := BitVec.ofNat 32 (c.s.mem.readN (x.hdr + 64) 4)
          let cl := clusterOf c.w.core
          c.until (!c.s.spansAway [(x.hdr, 128), (x.slot widx, 64)])
          if !c.s.portOk cl x.hdr then .error (.trap .trf c.act (BitVec.ofNat 64 x.hdr) true)
          else if !c.s.portOk cl (x.slot widx) then .error (.trap .trf c.act (BitVec.ofNat 64 (x.slot widx)) true)
          else if (widx - ridx).toNat ≥ x.size then pure ((c.put (c.w.putK k.val false)).irrevocable c.u)
          else pure (c.post n x widx k.val f.val))

/-- BAT_CLOSE (R151, R290). -/
def execBatClose (d : Operand) (s : State) : Host.Outcome State Fault Refusal :=
  issueWave s (fun c => do
    c.start (.batClose d) false [d]
    c.guardOk
    c.need (isS d) .opc
    c.noPGuard
    c.uwp
    if !c.kOn then pure c.w else do
      c.free (dstOf d).toList
      let st := c.w.st
      c.until (decide ((st.opn - st.dne).toNat < 32767))
      match d with
      | .s n =>
        let w := c.w.putS n.val (st.opn.zeroExtend 32)
        pure (Wave.advanceDone { w with st := { w.st with opn := st.opn + 1, openCnt := 0, openGlob := false } })
      | .v _ | .a _ | .p _ | .k _ | .zero | .lane | .par1 | .par2 | .imm _ => pure c.w)

/-- WAIT_BAT (R152, R385). -/
def execWaitBat (a : Operand) (s : State) : Host.Outcome State Fault Refusal :=
  issueState s (fun c => do
    c.start (.waitBat a) false [a]
    c.guardOk
    c.need (isUni a) .opc
    c.noPGuard
    if !c.kOn then pure (c.put c.w) else do
      c.reads [(a, true)]
      let st := c.w.st
      let b0 : BitVec 16 := (c.r.uni a).extractLsb' 0 16
      let b := if (b0 - st.opn).toNat < 32768 then st.opn - 1 else b0
      c.until (decide ((st.dne - b).toNat < 32768))
      let mine := c.w.done.filter (fun e => decide ((b - BitVec.ofNat 16 e.batch).toNat < 32768))
      let evs := (mine.filter (fun e => inclusive (c.w.place c.u) e.scope e.who (max e.scope 2))).foldl (fun l e => joinEvs l e.evs) []
      pure (mine.foldl (fun s e => s.acquire c.w.core e.scope) ((c.put c.w).learn c.u evs c.act)))

end Sys2Proof.Machine
end

