-- ==== Sys2Proof/Machine/Recursion.lean ====
section
/-! DEFINITION. Recursion objects and the unfolding engine (R178 to R191, R193, R363). -/

namespace Sys2Proof.Machine

/-! ### Work -/

/-- Adds routines in front of those that a core-group thread has still to run. -/
def RunSt.pushTasks (r : RunSt) (p : Nat) (ts : List Task) : RunSt :=
  let x := (Map.find? r.threads p).getD ⟨[], 0⟩
  { r with threads := Map.insert r.threads p { x with tasks := ts ++ x.tasks } }

/-- Gives the frames of a list, by rank, to the threads of their ranks, as the routine to run, where a condition holds (R184, R188). -/
def RunSt.deal (r : RunSt) (rout : Rout) (fs : List Frame) (f : Frame → Bool) : RunSt :=
  fs.zipIdx.foldl (fun r e => if f e.1 then r.pushTasks e.2 [{ rout := rout, frame := e.1 }] else r) r

/-- Some thread has a routine to run, or a call is in progress. -/
def RunSt.working (r : RunSt) : Bool := !r.calls.isEmpty || r.threads.any (fun e => !e.2.tasks.isEmpty)

/-- The children of a frame, in child order. -/
def Frame.children (f : Frame) : List Frame :=
  (List.range f.cnt).map (fun k => { off := f.kid + k * f.stride, depth := f.depth + 1, kid := 0, cnt := 0, stride := 0 })

/-- The frames of the level worked. -/
def RunSt.levelFrames (r : RunSt) : List Frame := r.levels.getD r.level []

/-- The passage to the next level, or to the depth phase or the combine phase, after the passes of a level (R185, R186, R188). -/
def RunSt.nextLevel (r : RunSt) : RunSt :=
  let kids := r.levelFrames.flatMap Frame.children
  let stop := r.levelEnd + r.fan * r.levelFrames.length * r.fb
  if kids.isEmpty then ({ r with phase := .comb, bb := stop }).deal .combine r.levelFrames (fun f => decide (f.cnt ≠ 0))
  else if kids.length ≥ r.lsw ∨ r.level + 1 = r.dmax then
    kids.zipIdx.reverse.foldl (fun r e => r.pushTasks (e.2 % r.lsw) [{ rout := .divide, frame := e.1 }]) { r with phase := .depth, bb := stop }
  else
    ({ r with phase := .div, level := r.level + 1, levelEnd := stop, levels := r.levels ++ [kids] }).deal .divide kids (fun _ => true)

/-- The next pass or phase, once nothing is left of the one in hand; `none` when the run has ended. -/
def RunSt.nextPass (r : RunSt) : Option RunSt :=
  match r.phase with
  | .div => some (({ r with phase := .bas }).deal .base r.levelFrames (fun f => decide (f.cnt = 0)))
  | .bas => some r.nextLevel
  | .depth => some (({ r with phase := .comb }).deal .combine r.levelFrames (fun f => decide (f.cnt ≠ 0)))
  | .comb =>
    if r.level = 0 then none
    else
      let r1 := { r with level := r.level - 1 }
      some (r1.deal .combine r1.levelFrames (fun f => decide (f.cnt ≠ 0)))

/-- Passes until some thread has work; `none` when the run has ended. -/
def RunSt.advance : Nat → RunSt → Option RunSt
  | 0, r => some r
  | n + 1, r => if r.working then some r else match r.nextPass with
    | none => none
    | some r1 => RunSt.advance n r1

/-- Passes that any run can need at once. -/
abbrev passFuel : Nat := 400

/-- The place of a wave among those of a run. -/
def RunSt.place (r : RunSt) (u : Nat) : Option Nat := r.snaps.findIdx? (fun x => x.w == u)

/-- The call that a wave at a place gets next: the routine of the lowest thread with work, and every thread of the wave whose next routine is
of that kind (R187). -/
def RunSt.nextCall (r : RunSt) (i : Nat) : Option RCall :=
  let heads := (List.range 32).filterMap (fun t => ((Map.find? r.threads (32 * i + t)).bind (fun x => x.tasks.head?)).map (fun k => (t, k)))
  match heads with
  | [] => none
  | (_, k0) :: _ =>
    let fs := (heads.filter (fun e => decide (e.2.rout = k0.rout))).map (fun e => (e.1, e.2.frame))
    some { rout := k0.rout, frames := fs, returned := 0 }

/-- What the end of a routine on a frame leaves its thread (R186): its task goes; after a divide of the depth phase the base, or the children's
subtrees and the combine, come first; after a combine of that phase the children's slots are free. -/
def RunSt.endRoutine (r : RunSt) (rout : Rout) (p : Nat) (f : Frame) : RunSt :=
  let x := (Map.find? r.threads p).getD ⟨[], 0⟩
  let rest := x.tasks.drop 1
  let put (ts : List Task) (top : Nat) : RunSt := { r with threads := Map.insert r.threads p { tasks := ts, top := top } }
  match rout with
  | .base => { put rest x.top with ended := r.ended + 1 }
  | .combine => { put rest (if r.phase = .depth then x.top - f.cnt else x.top) with ended := r.ended + 1 }
  | .divide =>
    if r.phase = .depth then
      let own : List Task := if f.cnt = 0 then [{ rout := .base, frame := f }]
        else f.children.map (fun c => { rout := .divide, frame := c : Task }) ++ [{ rout := .combine, frame := f }]
      put (own ++ rest) x.top
    else
      let r1 := put rest x.top
      { r1 with levels := r1.levels.modify r1.level (fun l => l.set p f) }

/-- A call on the wave at a place ends. -/
def RunSt.endCall (r : RunSt) (u i : Nat) (c : RCall) : RunSt :=
  let r1 := { r with calls := r.calls.erase u }
  c.frames.foldl (fun r e => r.endRoutine c.rout (32 * i + e.1) e.2) r1

/-! ### The end of a run (R189) -/

/-- The status word. -/
def RunSt.word (r : RunSt) : Word := BitVec.ofNat 32 ((min r.ended (2 ^ 24 - 1)) * 2 ^ 8 + r.killed.getD 0)

/-- A wave leaves the waiters of the handles, the baton and the barriers that it does not wait at any more. Log entry 56: DEDUCED. -/
def State.leaveWaits (s : State) (core u : Nat) (c : WaveCore) : State :=
  s.updCore core (fun k =>
    { k with batonQ := k.batonQ.filter (fun e => e.1 ≠ u),
             handles := k.handles.map (fun e => (e.1, { e.2 with waiters := e.2.waiters.filter (fun x => x.1 ≠ u) })),
             bars := k.bars.map (fun e => (e.1, { e.2 with waiters := e.2.waiters.filter (fun x =>
               decide (x.1 ≠ u) || decide ((c.slice x.2).wait = some (.barrier e.1))) })) })

/-- The registers that the engine writes at a call's start and at a run's end, as the undo log names them. -/
def callRegs : List RegId :=
  (List.range 5).map .v ++ (List.range 32).map .s ++ (List.range 16).map .a ++ (List.range 3).map .k ++ (List.range 8).map .b

/-- The engine is about to write a wave's registers, v0 to v4 in some threads: what the undo log and the matrix engine note of any write (R163,
R240). -/
def Wave.noteEngine (w : Wave) (m : Lanes) : Wave :=
  (List.range 5).foldl (fun w n => w.watchV n m) (callRegs.foldl (fun w g => w.logReg g) w)

/-- An access in flight after the run: a uniform register that it was to write stays as the snapshot has it (R189). -/
def Access.keepS (a : Access) : Access :=
  match a.dst with
  | some (.s _) => { a with dst := none }
  | some (.v _) | none => a

/-- A wave leaves the run: the snapshot is back, v0 to v4 are undefined, and it continues past its `rec.run` in one gang, out of a trap that
it took in the run. It continues at PC + 4 (R180) also when its `rec.run` is an operation of an `mcall`, whose later operations are then not
run (log entry 67, DESIGN CHOICE). -/
def Wave.leaveRun (w : Wave) (x : RSnap) (ctr : Nat) : Wave :=
  let r0 := { w.st.regs with s := x.s, k := x.k, a := x.a, b := x.b, sEmpty := 0 }
  let r1 := (List.range 5).foldl (fun r n => r.setV n (BitVec.allOnes 32) (fun t => Config.freeWord (ctr + 32 * n + t))) r0
  let st := { w.st with regs := r1 }
  let st1 := st.updSlices (List.range 8) (fun i y =>
    { y with pc := x.pc, mask := st.liveBits i, stack := [], modex := x.modex, modem := x.modem, gang := st.unfinished.headD 0, sleep := 0,
             wait := none, mac := none })
  { w.noteEngine (BitVec.allOnes 32) with st := { st1 with trap := x.trap }, inflight := w.inflight.map Access.keepS }

/-- A wave of a run that is killed stands still until the run has ended: its call is over, and so is a trap that it took in the run (R190). -/
def Wave.stopCall (w : Wave) (x : RSnap) : Wave :=
  { w with st := { w.st.updSlices w.st.unfinished (fun _ y => { y with stack := [], mac := none, sleep := 0, wait := some .returned }) with trap := x.trap } }

/-- An `mnorm` of a wave that has left a run writes no register: 32 stands for none. -/
def EngOp.keepS (u : Nat) (o : EngOp) : EngOp :=
  match o.kind with
  | .norm c _ => if o.wave = u then { o with kind := .norm c 32 } else o
  | .load _ _ | .word _ _ _ _ _ _ _ _ | .zero _ => o

/-- What the engine's write to STAT finds in the address space of the run's owner, when STAT is not 0 and global. -/
def State.statRes (s : State) (r : RunSt) : Option (Except XErr XRes) :=
  if r.stat = 0 || r.ssp then none
  else (r.snaps.findSome? (fun x => s.wave? x.w)).map (fun w => s.xlateWave w r.stat.toNat needWrite)

/-- The run cannot end yet: the translation of STAT is undefined, or the ports do not carry the write (R10, R189, R254). -/
def State.statAway (s : State) (r : RunSt) : Bool :=
  match s.statRes r with
  | some (.error .undef) => true
  | some (.ok x) => !s.reach x.loc && !s.deafAt x.loc
  | some (.error (.mk _ _)) | none => false

/-- Where the status word goes: nowhere when STAT is 0, or when its translation or permission fails, or a peer does not acknowledge it. Log entry
57: DEDUCED. -/
def State.statLoc (s : State) (core : Nat) (r : RunSt) : Option Nat :=
  if r.stat ≠ 0 ∧ r.ssp then some (locS core + r.stat.toNat)
  else match s.statRes r with
    | some (.ok x) => if s.reach x.loc then some x.loc else none
    | some (.error _) | none => none

/-- The status word stored, as a release at `.core` of the run's routines, which is irrevocable for its waves (R175, R189, R241). -/
def State.storeStatus (s : State) (core : Nat) (r : RunSt) : State :=
  match s.statLoc core r with
  | none => s
  | some l => r.snaps.foldl (fun s x => s.irrevocable x.w)
      ((s.coreStore core l (natLe 4 r.word.toNat)).addSync { loc := l, n := 4, who := { wave := none, cores := [core] }, scope := 1, evs := r.evs })

/-- A wave of a run leaves it, and what it waited for in it. -/
def State.leaveOne (s : State) (core : Nat) (x : RSnap) : State :=
  match s.wave? x.w with
  | none => s
  | some w =>
    let w1 := w.leaveRun x s.freeCtr
    let s1 := { s.setWave x.w w1 with freeCtr := s.freeCtr + 160 }
    (s1.leaveWaits core x.w w1.st).updCore core (fun k => { k with eng := k.eng.map (EngOp.keepS x.w) })

/-- The run of a core ends: no checkpoint holds it any more, its status word and what its routines passed on stay for `rec.wait`. The registers
that the engine writes back find their room in the undo log (R240, R242). -/
def State.endRun (s : State) (core : Nat) (r : RunSt) : State :=
  let s1 := r.snaps.foldl (fun s x => s.leaveOne core x) s
  let s2 := s1.updCore core (fun k => { k with run := none, status := Map.insert k.status r.grp r.word,
                                                 runEvs := Map.set k.runEvs r.grp (if r.evs.isEmpty then none else some r.evs) })
  (r.snaps.foldl (fun s x => s.relieveRegs x.w) s2).storeStatus core r

/-! ### Starting a run (R180) -/

/-- Every live slice of a wave waits at a `rec.run`, in a handler or out of it: its operands. -/
def Wave.atRecRun (w : Wave) : Option (Word × Word) :=
  match w.st.unfinished with
  | [] => none
  | i :: _ => match (w.st.slice i).wait with
    | some (.recRun a b) => some (a, b)
    | some .stall | some .retry | some (.regang _) | some (.barrier _) | some (.handle _) | some .baton | some .hyper | some .ckpt | some .returned | none => none

/-- Every live slice of the wave waits for the engine's next call. -/
def WaveCore.atEngine (w : WaveCore) : Bool := w.unfinished.all (fun i => match (w.slice i).wait with
  | some (.recRun _ _) | some .returned => true
  | some .stall | some .retry | some (.regang _) | some (.barrier _) | some (.handle _) | some .baton | some .hyper | some .ckpt | none => false)

/-- The waves of a core group that live. -/
def State.groupWaves (s : State) (g : Nat) : List (Nat × Wave) :=
  s.waves.filter (fun e => decide (e.2.group = g) && e.2.plain && !e.2.ending)

/-- A trap in every one of a list of waves, in the gang of its lowest slice. -/
def State.trapAll (s : State) (ws : List (Nat × Wave)) (x : Cause) (fa : DWord) (s2 : Bool) : State :=
  ws.foldl (fun s e =>
    let sl := e.2.st.unfinished.headD 0
    s.takeTrap e.1 sl { cause := x, mask := e.2.st.active sl, fa := fa, s2 := s2, asy := false, unr := false }) s

/-- A field of the descriptor: bits from `lo` on. -/
def dfield (x lo n : Nat) : Nat := x / 2 ^ lo % 2 ^ n

/-- Whether the fields of a descriptor, the root and the status record pass the checks of R180. -/
def descOk (x root waves sEnd : Nat) : Bool :=
  let fb := 16 * (dfield x 99 6 + 1)
  decide (dfield x 126 2 = 0) && decide (dfield x 224 32 = 0) && decide (x / 2 ^ 320 = 0)
  && decide (1 ≤ dfield x 105 7 ∧ dfield x 105 7 ≤ 64) && decide (1 ≤ dfield x 112 12 ∧ dfield x 112 12 ≤ 32 * waves)
  && decide (dfield x 0 32 % 4 = 0 ∧ dfield x 32 32 % 4 = 0 ∧ dfield x 64 32 % 4 = 0)
  && decide (dfield x 128 64 % 16 = 0 ∧ dfield x 192 32 % 16 = 0)
  && decide (root % 16 = 0 ∧ root + fb ≤ dfield x 192 32) && decide (dfield x 256 64 % 4 = 0)
  && (decide (dfield x 125 1 = 0) || decide (dfield x 256 64 + 4 ≤ sEnd))

/-- The run that a descriptor describes, with its root frame's divide to run. -/
def runOf (grp x root : Nat) (dtag : BitVec 3) (daddr : DWord) (snaps : List RSnap) : RunSt :=
  let fb := 16 * (dfield x 99 6 + 1)
  let f : Frame := { off := root, depth := 0, kid := 0, cnt := 0, stride := 0 }
  ({ grp := grp, dtag := dtag, daddr := daddr, div := BitVec.ofNat 32 x, bas := BitVec.ofNat 32 (x / 2 ^ 32), com := BitVec.ofNat 32 (x / 2 ^ 64),
     fan := dfield x 96 3 + 1, fb := fb, dmax := dfield x 105 7, lsw := dfield x 112 12, asp := decide (dfield x 124 1 = 1),
     abase := BitVec.ofNat 64 (x / 2 ^ 128), asize := dfield x 192 32, ssp := decide (dfield x 125 1 = 1),
     stat := BitVec.ofNat 64 (x / 2 ^ 256), snaps := snaps, phase := .div, level := 0, levelEnd := root + fb, levels := [[f]], bb := 0,
     threads := [], calls := [], ended := 0, outs := [], evs := [], hold := false, killed := none } : RunSt).deal .divide [f] (fun _ => true)

/-- The snapshot of a wave (R180). -/
def Wave.snapshot (u : Nat) (w : Wave) : RSnap :=
  let i := w.st.unfinished.headD 0
  { w := u, s := w.st.regs.s, k := w.st.regs.k, a := w.st.regs.a, b := w.st.regs.b, modex := (w.st.slice 0).modex, modem := (w.st.slice 0).modem,
    pc := (w.st.slice i).pc + 4, trap := w.st.trap }

/-- n bytes of the descriptor: the number they make, or the trap: cause, fault address, stage 2; no trap where the translation is undefined, or
the ports do not carry the read (R10, R254). One that a peer does not acknowledge is a stage-2 TRF (R263). -/
def State.readDesc (s : State) (w : Wave) (tag : BitVec 3) (addr : DWord) (off n : Nat) : Except (Option (Cause × DWord × Bool)) Nat :=
  if tag = 1 then
    match s.group? w.group with
    | some g => if inAlloc g 1 addr.toNat 64 then .ok (s.mem.readN (locS w.core + addr.toNat + off) n) else .error (some (.spf, addr, false))
    | none => .error (some (.spf, addr, false))
  else match s.xlateWave w addr.toNat needRead with
    | .error .undef => .error none
    | .error (.mk pmf s2) => .error (some (if pmf then .pmf else .trf, addr, s2))
    | .ok r =>
      if s.deafAt r.loc then .error (some (.trf, addr, true))
      else if s.reach r.loc then .ok (leNat (s.fetchAt (clusterOf w.core) (r.loc + off) n))
      else .error none

/-- Descriptor base register and address of a wave's `rec.run`. -/
def Wave.recDesc (w : Wave) (a : Word) : BReg × DWord :=
  let b := w.st.regs.b.getD 6 ⟨0, 0⟩
  (b, b.base + a.signExtend 64)

/-- The trap that the checks before the descriptor's read raise in the waiting waves: cause and fault address (R180). -/
def runFault (ws : List (Nat × Wave)) (w0 : Wave) (a b : Word) : Option (Cause × DWord) :=
  let (base, addr) := w0.recDesc a
  if ws.any (fun e => decide (e.2.atRecRun ≠ some (a, b))) then some (.mbf, 0)
  else if base.tag ≠ 0 ∧ base.tag ≠ 1 then some (.spf, addr)
  else if addr.toNat % 64 ≠ 0 then some (.alf, addr)
  else none

/-- The waiting waves of a core group start their run, or all take the trap that its checks raise. The descriptor's address and space are those
of the first wave's b6, whatever the others' hold (log entry 67, DESIGN CHOICE). Where the descriptor cannot be read yet they wait on (R10,
R120). -/
def State.startRun (s : State) (core grp : Nat) (ws : List (Nat × Wave)) (w0 : Wave) (a b : Word) : State :=
  let (base, addr) := w0.recDesc a
  match runFault ws w0 a b with
  | some (x, fa) => s.trapAll ws x fa false
  | none => match s.readDesc w0 base.tag addr 0 64 with
    | .error none => s
    | .error (some (x, fa, s2)) => s.trapAll ws x fa s2
    | .ok x =>
      let sEnd := match s.group? grp with
        | some g => g.sOff + g.sLen
        | none => 0
      if !descOk x b.toNat ws.length sEnd then s.trapAll ws .rff addr false
      else s.updCore core (fun k => { k with run := some (runOf grp x b.toNat base.tag addr (ws.map (fun e => e.2.snapshot e.1))) })

/-- The core group's live waves all wait at a `rec.run`: they, and the operands of the first. -/
def State.runWaves (s : State) (grp : Nat) : Option (List (Nat × Wave) × Wave × Word × Word) :=
  let ws := s.groupWaves grp
  if ws.any (fun e => e.2.atRecRun.isNone) then none
  else (ws.head?).bind (fun e => e.2.atRecRun.map (fun p => (ws, e.2, p.1, p.2)))

/-- The run of a core group that its waves' checkpoints hold, as a rollback restores it: a wave that has been killed since has no call and no
routine in it. Log entry 67: DESIGN CHOICE. -/
def State.savedRun (s : State) (core g : Nat) : Option RunSt :=
  (Map.find? (s.core core).runCk g).map (fun r =>
    let lives (i : Nat) : Bool := (((r.snaps[i]?).bind (fun x => s.wave? x.w)).map (fun w => !w.killedBy)).getD false
    let gone : List Nat := ((List.range r.snaps.length).filter (fun i => !lives i)).filterMap (fun i => (r.snaps[i]?).map (·.w))
    { r with calls := r.calls.filter (fun e => !gone.contains e.1), threads := r.threads.filter (fun e => lives (e.1 / 32)) })

/-- A core group at the head of the line takes up again the run that a rollback restored, or starts its run if its waves still wait for it. -/
def State.runGroup (s : State) (core g : Nat) : State :=
  if (s.core core).runBack.contains g then
    let r := s.savedRun core g
    s.updCore core (fun k => { k with run := r, runBack := k.runBack.filter (· ≠ g) })
  else match s.runWaves g with
    | some (ws, w0, a, b) => s.startRun core g ws w0 a b
    | none => s

/-- A core group's run waits for its descriptor, which cannot be read yet (R10, R120, R254). -/
def State.runAway (s : State) (core g : Nat) : Bool :=
  !(s.core core).runBack.contains g && (match s.runWaves g with
    | some (ws, w0, a, b) => (runFault ws w0 a b).isNone && (match s.readDesc w0 (w0.recDesc a).1.tag (w0.recDesc a).2 0 64 with
      | .error none => true
      | .error (some _) | .ok _ => false)
    | none => false)

/-- The core groups in line have their turn until one of them has a run, or waits for its descriptor (R180). -/
def State.nextRuns (core : Nat) : Nat → State → State
  | 0, s => s
  | n + 1, s => match (s.core core).run, (s.core core).runQ with
    | none, g :: rest => if s.runAway core g then s
      else State.nextRuns core n ((s.updCore core (fun k => { k with runQ := rest })).runGroup core g)
    | _, _ => s

/-- The engine is free for the core groups in line. -/
def State.nextRun (s : State) (core : Nat) : State := State.nextRuns core (s.core core).runQ.length s

/-- A core group whose live waves all wait at a `rec.run` stands in line, and starts its run when the engine is free. -/
def State.tryRun (s : State) (core grp : Nat) : State :=
  let own := match (s.core core).run with
    | some r => decide (r.grp = grp)
    | none => false
  if (s.runWaves grp).isNone || own || (s.core core).runQ.contains grp then s
  else (s.updCore core (fun k => { k with runQ := k.runQ ++ [grp] })).nextRun core

/-- The slice of a wave that waits at `ckpt`. -/
def Wave.atCkpt (w : Wave) : Option Nat := w.st.unfinished.find? (fun i => decide ((w.st.slice i).wait = some .ckpt))

/-- A `ckpt` that waits completes if its wave is clean now (R191, R305). -/
def State.endCkpt (s : State) (u : Nat) : State :=
  match (s.wave? u).bind Wave.atCkpt with
  | some sl => if s.clean u then (s.release u sl .ckpt).checkpoint u else s
  | none => s

/-- The calls of a run that holds have ended: the checkpoints for which it held are taken where the other conditions hold (R191). -/
def State.allowCkpts (s : State) (r : RunSt) : State :=
  let s1 := match r.snaps.find? (fun x => (s.wave? x.w).isSome) with
    | some x => s.takeCkpt x.w
    | none => s
  (s1.groupWaves r.grp).foldl (fun s e => s.endCkpt e.1) s1

/-- A run goes on from here: to the pass that follows, or, when it is killed or none follows, to its end. -/
def RunSt.ahead (r : RunSt) : Option RunSt := if r.killed.isSome then none else RunSt.advance passFuel r

/-- The run of a core goes on to its next pass, or ends, once its status word can go where it goes; a checkpoint that waited for its calls is
allowed (R191). -/
def State.pumpRun (s : State) (core : Nat) : State :=
  match (s.core core).run with
  | none => s
  | some r =>
    match r.ahead with
    | none => if s.statAway r then s else (s.endRun core r).nextRun core
    | some r1 =>
      let s1 := s.updCore core (fun k => { k with run := some { r1 with hold := r1.hold && !r1.calls.isEmpty } })
      if r1.hold && r1.calls.isEmpty then s1.allowCkpts r1 else s1

/-- A core's engine can go on by itself: its run has nothing left to call and passes on or ends, or a core group in line has its turn. -/
def State.runDue (s : State) (core : Nat) : Bool :=
  match (s.core core).run with
  | some r => !r.working && (r.ahead.isSome || !s.statAway r)
  | none => match (s.core core).runQ with
    | [] => false
    | g :: _ => !s.runAway core g

/-- A handler kills the run (R190, R234): the calls end where they stand. -/
def State.killRun (s : State) (core code : Nat) : State :=
  match (s.core core).run with
  | none => s
  | some r =>
    let s1 := r.snaps.foldl (fun s x => s.updWave x.w (fun w => w.stopCall x)) s
    (s1.updCore core (fun k => { k with run := some { r with calls := [], threads := [], killed := some code } })).pumpRun core

/-- A wave of a run has not been killed and has not ended. -/
def State.runLives (s : State) (r : RunSt) : Bool := r.snaps.any (fun x => ((s.wave? x.w).map (fun w => !w.killedBy)).getD false)

/-- A wave that is killed leaves its run: its call ends and its routines are not run. A run with no wave left is over, and the engine is free. -/
def State.dropFromRun (s : State) (core u : Nat) : State :=
  match (s.core core).run with
  | none => s
  | some r => match r.place u with
    | none => s
    | some i =>
      let r1 := { r with calls := r.calls.erase u, threads := r.threads.filter (fun e => e.1 / 32 ≠ i) }
      if s.runLives r then (s.updCore core (fun k => { k with run := some r1 })).pumpRun core
      else (s.updCore core (fun k => { k with run := none })).nextRun core

/-- ABASE and ASIZE cannot be read again yet (R10, R254). -/
def State.arenaAway (s : State) (w : Wave) : Bool :=
  match (s.core w.core).run with
  | none => false
  | some r => match s.readDesc w r.dtag r.daddr 16 12 with
    | .error none => true
    | .error (some _) | .ok _ => false

/-- The engine reads ABASE and ASIZE again before a handler's resumption (R190); they stay as they are where the read fails its translation or
permission (log entry 67, DESIGN CHOICE). -/
def State.rereadArena (s : State) (w : Wave) : State :=
  match (s.core w.core).run with
  | none => s
  | some r => match s.readDesc w r.dtag r.daddr 16 12 with
    | .error _ => s
    | .ok x => s.updCore w.core (fun k => { k with run := some { r with abase := BitVec.ofNat 64 x, asize := dfield x 64 32 } })

/-! ### Routine calls (R181) -/

/-- Entry point of a routine. -/
def RunSt.entry (r : RunSt) : Rout → Word
  | .divide => r.div
  | .base => r.bas
  | .combine => r.com

/-- The wave at the start of a call: v0 to v4 are written in the threads that have a frame in it (R181; log entry 67, DESIGN CHOICE). -/
def Wave.enterCall (w : Wave) (r : RunSt) (x : RSnap) (c : RCall) : Wave :=
  let has := lanesWhere (fun t => (Map.find? c.frames t).isSome)
  let fr (t : Nat) : Frame := (Map.find? c.frames t).getD { off := 0, depth := 0, kid := 0, cnt := 0, stride := 0 }
  let comb := decide (c.rout = .combine)
  let b7 : BReg := ⟨r.abase, if r.asp then 1 else 0⟩
  let r0 := { w.st.regs with s := x.s, k := x.k, a := x.a, b := x.b.setIfInBounds 7 b7 }
  let vals (n : Nat) (t : Nat) : Word := BitVec.ofNat 32
    (if n = 0 then (fr t).off else if n = 1 then (fr t).depth
     else if comb then (if n = 2 then (fr t).kid else if n = 3 then (fr t).cnt else (fr t).stride) else 0)
  let r1 := (List.range 5).foldl (fun g n => g.setV n has (vals n)) r0
  let st := { w.st with regs := r1 }
  let pc := st.tx + (r.entry c.rout).zeroExtend 64
  let st1 := st.updSlices (List.range 8) (fun i y =>
    { y with pc := pc, mask := sliceBits has i, stack := [], modex := x.modex, modem := x.modem, gang := st.unfinished.headD 0, sleep := 0,
             wait := none, mac := none })
  { w.noteEngine has with st := st1 }

/-- A wave of a run is parked: a trap taken since the run began is unresolved, in its handler too, or it waits for system software (R190, R232 to
R236). -/
def RSnap.parked (x : RSnap) (w : Wave) : Bool :=
  match w.st.trap with
  | some t => !t.running || x.trap.isNone
  | none => false

/-- The engine may start a call on a wave of the run: it starts calls, no wave of the run is parked, and the wave has no call, waits for
one, and has the registers that the engine writes full (R181, R190, R191). -/
def State.mayCall (s : State) (r : RunSt) (w : Nat) (x : Wave) : Bool :=
  let parked := r.snaps.any (fun y => match s.wave? y.w with
    | some z => y.parked z
    | none => false)
  !r.hold && !parked && x.st.atEngine && s.coreRuns x && (Map.find? r.calls w).isNone
  && decide (x.st.regs.sEmpty = 0) && decide (x.st.regs.vEmpty.extractLsb' 0 5 = 0)

/-- A routine that has ended on a frame passes events on to those that depend on it: the routines on the frame and, after a divide, on its
children (R173). -/
def RunSt.tell (r : RunSt) (rout : Rout) (f : Frame) (evs : List Nat) : RunSt :=
  let add (m : Map (List Nat)) (o : Nat) : Map (List Nat) := Map.insert m o (joinEvs ((Map.find? m o).getD []) evs)
  if evs.isEmpty then r
  else { r with evs := joinEvs r.evs evs, outs := (f.off :: (if rout = .divide then f.children.map (·.off) else [])).foldl add r.outs }

/-- What a routine acquires at its start (R173): a combine also what the last routine on each child passed on. -/
def RunSt.hears (r : RunSt) (rout : Rout) (f : Frame) : List Nat :=
  (f.off :: (if rout = .combine then f.children.map (·.off) else [])).foldl (fun l o => joinEvs l ((Map.find? r.outs o).getD [])) []

/-- ROUTINE_CALL (R181, R187, R190, R191): on a wave of the run with work and no call. -/
def execRoutineCall (core w : Nat) (s : State) : Host.Outcome State Fault Refusal :=
  match (s.core core).run, s.wave? w with
  | some r, some x =>
    match r.place w with
    | none => .next s
    | some i =>
      if !s.mayCall r w x then .next s
      else match r.nextCall i, r.snaps[i]? with
        | some c, some sn =>
          let s1 := s.updCore core (fun k => { k with run := some { r with calls := Map.insert r.calls w c } })
          let s2 := s1.setWave w (x.enterCall r sn c)
          .next ((c.frames.foldl (fun s e => s.learn w (r.hears c.rout e.2) ((1 : Lanes) <<< e.1)) s2).relieveRegs w)
        | _, _ => .next s
  | _, _ => .next s

/-! ### The instructions -/

/-- A core group's run has not ended: it is its core's, or a rollback has restored it and it waits for the engine (R180, R189, R191). -/
def CoreSt.runOn (k : CoreSt) (grp : Nat) : Bool :=
  k.runBack.contains grp || (match k.run with
    | some r => decide (r.grp = grp)
    | none => false)

/-- REC_RUN (R180, R193, R363). The wave's own writes are performed before it waits. Log entry 37: DEDUCED. -/
def execRecRun (a b : Operand) (s : State) : Host.Outcome State Fault Refusal :=
  issueState s (fun c => do
    c.start (.recRun a b) false [a, b]
    c.need (isUni a && isUni b) .opc
    c.need (c.w.st.ganged c.sl && decide (c.live = BitVec.allOnes 32) && decide (c.act = BitVec.allOnes 32)) .mbf
    c.shared
    c.reads [(a, true), (b, false)]
    let k := c.core
    if k.inCall c.u then c.raiseAt .rff (k.frameAddr c.u (firstThread c.act)) else pure ()
    if k.runOn c.w.group then c.raiseAt .rff ((c.r.b.getD 6 ⟨0, 0⟩).base + (c.r.uni a).signExtend 64) else pure ()
    c.until (!c.w.inflight.any (fun a => a.writes && a.sent.isNone))
    pure ((c.s.block c.u c.sl (.recRun (c.r.uni a) (c.r.uni b))).tryRun c.w.core c.w.group))

/-- The divide call that a thread of the wave is in. -/
def CoreSt.divideCall (k : CoreSt) (u : Nat) : Option (RunSt × RCall × Nat) :=
  match k.run with
  | none => none
  | some r => match Map.find? r.calls u, r.place u with
    | some cl, some i => if cl.rout = .divide then some (r, cl, i) else none
    | _, _ => none

/-- Arena offset and stride of the child that a thread's frame gets next (R184, R186). -/
def RunSt.childSlot (r : RunSt) (p : Nat) (f : Frame) : Nat × Nat :=
  if r.phase = .depth then
    let top := ((Map.find? r.threads p).getD ⟨[], 0⟩).top
    (r.bb + (top * r.lsw + p) * r.fb, r.lsw * r.fb)
  else (r.levelEnd + (p * r.fan + f.cnt) * r.fb, r.fb)

/-- The first check of R182 that a thread's frame fails; a thread that has none in the call, as a handler may activate, is not inside it. A slot
is refused when it ends beyond ASIZE, not by its number in the thread's slice (R186; log entry 67, DESIGN CHOICE). -/
def RunSt.childFault (r : RunSt) (p : Nat) (f : Option Frame) : Option Cause :=
  match f with
  | none => some .rff
  | some f =>
    if f.cnt ≥ r.fan then some .rff
    else if f.depth = r.dmax then some .rdo
    else if (r.childSlot p f).1 + r.fb > r.asize then some .rdo
    else none

/-- A thread's frame with its next child reserved. -/
def RunSt.reserve (r : RunSt) (u p t : Nat) (f : Frame) : RunSt :=
  let sl := r.childSlot p f
  let g := { f with cnt := f.cnt + 1, kid := if f.cnt = 0 then sl.1 else f.kid, stride := sl.2 }
  let x := (Map.find? r.threads p).getD ⟨[], 0⟩
  let top := if r.phase = .depth then x.top + 1 else x.top
  match Map.find? r.calls u with
  | some cl => { r with calls := Map.insert r.calls u { cl with frames := Map.insert cl.frames t g },
                        threads := Map.insert r.threads p { x with top := top }, outs := r.outs.erase sl.1 }
  | none => r

/-- REC_CHILD (R182). -/
def execRecChild (d : Operand) (s : State) : Host.Outcome State Fault Refusal :=
  issueState s (fun c => do
    c.start (.recChild d) false [d]
    c.need (decide (clsOf d = .vary)) .opc
    c.alloc [d]
    c.free (dstOf d).toList
    match c.core.divideCall c.u with
    | none => c.raiseAt .rff (c.core.frameAddr c.u (firstThread c.act))
    | some (r, cl, i) =>
      let fr (t : Nat) : Frame := (Map.find? cl.frames t).getD { off := 0, depth := 0, kid := 0, cnt := 0, stride := 0 }
      let ts := threadsOf c.act
      let bad (t : Nat) : Option Cause := r.childFault (32 * i + t) (Map.find? cl.frames t)
      match ts.findSome? bad with
      | some x => .error (.trap x (maskWhere ts (fun t => decide (bad t = some x)))
          (c.core.frameAddr c.u ((ts.find? (fun t => decide (bad t = some x))).getD 0)) false)
      | none => match d with
        | .v n =>
          let w := c.w.putV n.val c.act (fun t => BitVec.ofNat 32 (r.childSlot (32 * i + t) (fr t)).1)
          let r1 := ts.foldl (fun r t => r.reserve c.u (32 * i + t) t (fr t)) r
          pure ((c.put w).updCore c.w.core (fun k => { k with run := some r1 }))
        | .s _ | .a _ | .p _ | .k _ | .zero | .lane | .par1 | .par2 | .imm _ => pure (c.put c.w))

/-- Members of a gang that are empty in mask and stack have returned. -/
def WaveCore.markReturned (w : WaveCore) (g : List Nat) : WaveCore :=
  bif g.all (fun i => decide ((w.slice i).mask = 0) && (w.slice i).stack.isEmpty) then w.updSlices g (fun _ x => { x with wait := some .returned })
  else w

/-- The threads of a gang leave a call (R183, R37). A gang whose members are then empty in mask and stack, at once or after the implicit
`cnv` steps, has returned. -/
def WaveCore.returnThreads (w : WaveCore) (sl : Nat) : WaveCore :=
  let g := w.gangOf sl
  let r := w.retire g (w.active sl)
  bif g.any (fun i => decide ((r.slice i).mask ≠ 0)) then r.advance g else (r.unwind g unwindFuel).markReturned g

/-- A call whose threads have all returned ends; the wave waits for its next one. -/
def State.endCallIf (s : State) (core u : Nat) : State :=
  match (s.core core).run with
  | none => s
  | some r => match Map.find? r.calls u, r.place u with
    | some cl, some i =>
      if cl.frames.all (fun e => cl.returned.getLsbD e.1) then
        let s1 := s.updWave u (fun w => { w with st := w.st.updSlices w.st.unfinished (fun _ x => { x with wait := some .returned }) })
        (s1.updCore core (fun k => { k with run := some (r.endCall u i cl) })).pumpRun core
      else s
    | _, _ => s

/-- Marks threads of a call as returned; `evs` gives what each passes on. -/
def RunSt.markReturned (r : RunSt) (u : Nat) (m : Lanes) (evs : Nat → List Nat) : RunSt :=
  match Map.find? r.calls u with
  | some cl =>
    (threadsOf m).foldl (fun r t => match Map.find? cl.frames t with
      | some f => r.tell cl.rout f (evs t)
      | none => r) { r with calls := Map.insert r.calls u { cl with returned := cl.returned ||| m } }
  | none => r

/-- REC_RET (R183): a release at `.core` of each thread that ran the routine (R173). It is not irrevocable (R363): a rollback restores the run with
all of its waves (R191; log entry 65, DESIGN CHOICE). It waits first, so that no register is empty when it reads A, and MODE.FE never gives it
an FET; outside any call there is no frame, and the RFF has fault address 0 (log entry 67, DESIGN CHOICE). -/
def execRecRet (a : Operand) (s : State) : Host.Outcome State Fault Refusal :=
  issueState s (fun c => do
    c.start (.recRet a) false [a]
    c.need (isVaryUni a) .opc
    c.alloc [a]
    c.need (c.core.inCall c.u) .rff
    c.until c.r.allFull
    c.drained 1
    match c.core.run with
    | none => c.raise .rff
    | some r =>
      let ts := threadsOf c.act
      let wrong (t : Nat) : Bool := match Map.find? r.calls c.u with
        | some cl => match Map.find? cl.frames t with
          | some f => decide (cl.rout = .divide) && decide ((c.r.src a t).toNat ≠ f.cnt)
          | none => false
        | none => false
      match ts.find? wrong with
      | some t => .error (.trap .rff (maskWhere ts wrong) (c.core.frameAddr c.u t) false)
      | none =>
        let s1 := (c.putSt (c.w.st.returnThreads c.sl)).updCore c.w.core (fun k => 
          { k with run := some (r.markReturned c.u c.act (fun t => c.s.releaseEvs c.u c.w ((1 : Lanes) <<< t) c.w.nextAcc)) })
        pure ((s1.regangSteps c.u).endCallIf c.w.core c.u))

/-- REC_WAIT (R189, R363): an acquire of every routine of the run (R173). -/
def execRecWait (d : Operand) (s : State) : Host.Outcome State Fault Refusal :=
  issueWave s (fun c => do
    c.start (.recWait d) false [d]
    c.guardOk
    c.need (isS d) .opc
    c.noPGuard
    c.uwp
    if !c.kOn then pure c.w else do
      c.free (dstOf d).toList
      let k := c.core
      c.until (!k.runOn c.w.group)
      match d with
      | .s n => pure ((c.w.putS n.val ((Map.find? k.status c.w.group).getD 0)).learn ((Map.find? k.runEvs c.w.group).getD []) c.act)
      | .v _ | .a _ | .p _ | .k _ | .zero | .lane | .par1 | .par2 | .imm _ => pure c.w)

end Sys2Proof.Machine
end

