-- ==== Sys2Proof/Machine/Rollback.lean ====
section
/-! DEFINITION. Rollback (R175, R191, R243, R245). -/

namespace Sys2Proof.Machine

/-- The next state of an outcome; a happening has no other. -/
def nextOr (s : State) (o : Host.Outcome State Fault Refusal) : State :=
  match o with
  | .next t => t
  | .fault _ => s
  | .refused _ => s

/-! ### What the logs restore -/

/-- One entry of a memory or buffer undo log restored: bytes and poison. Log entry 25: DEDUCED. -/
def State.undoEnt (s : State) (core : Nat) (e : LogEnt) : State :=
  (e.old.foldl (fun s c => s.coreStore core c.1 [c.2]) s).addPoison e.poison

/-- One tile row restored, with its poison, its tag and the tile's E and Q. -/
def State.undoTile (s : State) (core : Nat) (e : TileLog) : State :=
  let row := sectorsOf (locC core + rowBytes * e.row) rowBytes
  let s1 := { s with mem := s.mem.writeBytes (locC core + rowBytes * e.row) e.old, poison := s.poison.filter (fun x => !row.contains x) ++ e.poison }
  s1.updCore core (fun k =>
    { k with tags := Map.set k.tags e.row e.tag, ce := Map.set k.ce e.c e.e,
             cq := if e.q then e.c :: k.cq.filter (· ≠ e.c) else k.cq.filter (· ≠ e.c) })

/-! ### The matrix engine -/

/-- The front operation of a core's engine starts, if it has not, and completes. -/
def State.finishFront (s : State) (core : Nat) : State :=
  let s1 := s.startEng core 0
  match (s.core core).eng with
  | [] => s
  | o :: _ => match o.kind with
    | .load _ _ => s1.loadDone core
    | .word _ _ _ _ _ _ _ _ => s1.wordDone core
    | .zero _ => s1.zeroDone core
    | .norm _ _ => s1.normDone core

/-- Operations complete until none that the wave queued stands started; each step takes one away. -/
def State.finishStarted (core u : Nat) : Nat → State → State
  | 0, s => s
  | n + 1, s => if (s.core core).eng.any (fun o => o.started && decide (o.wave = u)) then State.finishStarted core u n (s.finishFront core) else s

/-- Engine operations of a wave at its rollback (R243): the unstarted but for bank loads are discarded, the started complete. -/
def State.rollEngine (s : State) (core u : Nat) : State :=
  let keep (o : EngOp) : Bool := o.started || decide (o.wave ≠ u) || (match o.kind with
    | .load _ _ => true
    | .word _ _ _ _ _ _ _ _ | .zero _ | .norm _ _ => false)
  let gone (id : Nat) : Bool := (s.core core).eng.any (fun o => decide (o.wave = u ∧ o.id = id) && !keep o)
  let s0 := s.updWave u (fun w => { w with watch := w.watch.filter (fun x => !gone x.id) })
  let s1 := s0.updCore core (fun k => { k with eng := k.eng.filter keep })
  State.finishStarted core u (s1.core core).eng.length s1

/-! ### One wave -/

/-- A slice as restored: what it waited to do again it issues again; a wait at a barrier or a `regang`, or for a call of the run that the
checkpoint holds, stands. -/
def Slice.restored (inRun : Bool) (x : Slice) : Slice :=
  match x.wait with
  | some (.regang _) | some (.barrier _) | some .returned | none => x
  | some (.recRun _ _) => if inRun then x else { x with wait := none }
  | some .stall | some .retry | some (.handle _) | some .baton | some .hyper | some .ckpt => { x with wait := none }

/-- The checkpoint as the state to go on from. -/
def State.restoredCore (s : State) (inRun : Bool) (c : WaveCore) : WaveCore :=
  { c.updSlices (List.range 8) (fun _ x => x.restored inRun) with children := c.children.filter (fun x => (s.wave? x).isSome) }

/-- Loads and ordinary stores in flight are dropped; atomics that write are performed yet (R243). -/
def Access.survives (a : Access) : Bool :=
  match a.op with
  | .load _ _ | .store _ => false
  | .atomic op _ _ => decide (op ≠ .read)

/-- The wave at its checkpoint; one that has exited still ends. -/
def Wave.restore (w : Wave) (c : WaveCore) : Wave :=
  { w.clearLogs with
    st := c, inflight := w.inflight.filter (·.survives), held := [], ending := decide (c.live = 0), starved := [], lantern := none, counted := false }

/-- The stores to A that a wave's rollback undoes are events no longer, and no write is owed to the reads that it drops. -/
def State.undoEvents (s : State) (u : Nat) (w : Wave) : State :=
  let gone (e : Ev) : Bool := decide (e.src = some u) && isA e.loc && decide (w.ckAcc ≤ e.acc)
  let unread (o : Owed) : Bool := decide (o.src = u ∧ w.ckAcc ≤ o.acc)
  if s.evs.any gone || s.owed.any unread then { s with evs := s.evs.filter (fun e => !gone e), owed := s.owed.filter (fun o => !unread o) } else s

/-- One wave rolls back (R243). -/
def State.rollOne (s : State) (u : Nat) : State :=
  match s.wave? u with
  | none => s
  | some w0 =>
    let core := w0.core
    let s1 := s.rollEngine core u
    match s1.wave? u with
    | none => s1
    | some w =>
      let s2 := w.tileLog.foldl (fun s e => s.undoTile core e) s1
      let s3 := (w.memLog ++ w.bufLog).foldl (fun s e => s.undoEnt core e) s2
      let s3 := s3.undoEvents u w
      let c := s3.restoredCore w.ckRun w.ck
      let s5 := ((s3.leaveWaits core u c).unaudit u).updWave u (fun w => w.restore c)
      if (s5.core core).baton = some u then s5.passBaton core else s5

/-- An asynchronous cause is delivered to the gang of the wave's lowest slice that has not finished, which leaves what it waits for but for
the waits that last, in which it keeps its place (R232). A gang that has run its macro to the end is past its `mcall` (R250, R339). -/
def State.takeAsync (s : State) (u : Nat) (w : Wave) (x : Cause) (fa : DWord) (unr : Bool) : State :=
  match w.st.unfinished with
  | [] => s
  | sl :: _ =>
    let s1 := if s.macOver w sl then s.updWave u (fun w => w.leaveMac sl) else s
    s1.takeTrap u sl { cause := x, mask := w.st.live, fa := fa, s2 := false, asy := true, unr := unr }

/-- A wave that cannot roll back is parked with UCE and UNR (R245); while a trap of its own is unresolved, the cause is held. -/
def State.parkUnr (s : State) (u : Nat) (fa : DWord) : State :=
  match s.wave? u with
  | none => s
  | some w =>
    if w.st.trap.isSome then s.updWave u (fun w => { w with held := w.held ++ [(.uce, fa, true)] })
    else s.takeAsync u w .uce fa true

/-! ### Rollback -/

/-- A replay is given up, and its copy with it; its wave leaves what it shares (R159). -/
def State.dropReplay (s : State) (u : Nat) (w : Wave) (i : Nat) : State :=
  ((s.leaveShared w.core u).dropWave u).updCluster (clusterOf w.core) (fun k => { k with lant := k.lant.erase i })

/-- The waves that roll back with a wave, itself among them: those of its core's run when it is of it, and, when one of these has a checkpoint that
holds a run, the waves of that run (R191). -/
def State.rollsWith (s : State) (u : Nat) : List Nat :=
  match s.wave? u with
  | none => [u]
  | some w =>
    let k := s.core w.core
    let now := if k.runWave u then (s.together u w) else [u]
    let then_ := if now.any (fun x => ((s.wave? x).map (·.ckRun)).getD false) then ((Map.find? k.runCk w.group).map (fun r => r.snaps.map (·.w))).getD []
      else []
    (u :: now ++ then_).eraseDups

/-- The run of a core group after its waves rolled back (R191): as their checkpoints hold it, or abandoned. -/
def State.restoreRun (s : State) (core grp : Nat) (held : Bool) : State :=
  let saved := s.savedRun core grp
  s.updCore core (fun k =>
    let mine := match k.run with
      | some r => decide (r.grp = grp)
      | none => false
    let free := mine || k.run.isNone
    let line := k.runQ.filter (· ≠ grp)
    let back := k.runBack.filter (· ≠ grp)
    if !held then { k with run := if mine then none else k.run, runQ := line, runBack := back }
    else if free then { k with run := saved, runQ := line, runBack := back }
    else { k with runQ := line ++ [grp], runBack := back ++ [grp] })

/-- The waves that live of the run that a core group's checkpoints hold all have it in their checkpoints still. -/
def State.runHeld (s : State) (core grp : Nat) : Bool :=
  match Map.find? (s.core core).runCk grp with
  | some r => r.snaps.all (fun x => ((s.wave? x.w).map (fun w => w.killedBy || w.ckRun)).getD true)
  | none => false

/-- A wave rolls back to its checkpoint, and with it every wave of its run (R191, R243); a pinned one is parked (R245). A wave whose
checkpoint holds a run that another wave of it has left behind, or that one of its present run's has so, cannot roll back either (log entry 38,
DEDUCED). A hidden wave ends its replay. -/
def State.rollback (s : State) (u : Nat) (fa : DWord) : State :=
  match s.wave? u with
  | none => s
  | some w =>
    if w.killedBy then s
    else match w.hidden with
    | some i => s.dropReplay u w i
    | none =>
      let ws := (s.rollsWith u).filterMap (fun x => (s.wave? x).bind (fun y => if y.killedBy then none else some (x, y)))
      let inCk := ws.any (fun e => e.2.ckRun)
      let held := inCk && s.runHeld w.core w.group
      if inCk && !held then s.parkUnr u fa
      else
        let s1 := ws.foldl (fun s e => if e.2.pinned then s.parkUnr e.1 fa else s.rollOne e.1) s
        if held || (s.core w.core).runWave u then (s1.restoreRun w.core w.group held).nextRun w.core else s1

/-- Waves roll back, each once. -/
def State.rollAll (s : State) (us : List Nat) (fa : DWord) : State :=
  (us.foldl (fun (p : State × List Nat) u =>
    if p.2.contains u then p else (p.1.rollback u fa, p.2 ++ p.1.rollsWith u)) (s, [])).1

end Sys2Proof.Machine
end

