-- ==== Sys2Proof/Machine/Rails.lean ====
section
/-! DEFINITION. The mid-rails of a column: readings as software sees them (R215), derating (R229), mirrors and arming at placement (R217,
R218), balanced burning and shunt reservations (R224 to R227, R280 to R282), and the power states of a column (R228). -/

namespace Sys2Proof.Machine

/-! ### Rails and their neighbours -/

/-- A rail of a column changed. -/
def ColSt.updRail (k : ColSt) (m : Nat) (f : Rail → Rail) : ColSt := { k with rails := k.rails.setIfInBounds m (f (k.rail m)) }
/-- Some rail of a column has more than 2 failed phases (R229). -/
def ColSt.failing (k : ColSt) : Bool := (List.range 3).any (fun m => decide ((k.rail m).failed > 2))

/-- A column changed. -/
def State.updCol (s : State) (c : Nat) (f : ColSt → ColSt) : State := s.setCol c (f (s.col c))
/-- A rail. -/
def State.rail (s : State) (col m : Nat) : Rail := (s.col col).rail m

/-- A quantity of a rail derated for its failed phases, truncated (R229). -/
def Rail.derate (r : Rail) (x : Nat) : Nat := x * (8 - r.failed) / 8
/-- Units that the two neighbours of a rail may hold together (R226, R229): H - 4 units of 0.25 A, derated, in whole units. Log entry 40:
DEDUCED. -/
def Rail.units (r : Rail) : Nat := r.derate ((8 - r.failed - 4) * 25) / 25

/-- The latest reading of the rail above a core, as own current minus the neighbour's; 0 on layer 3 (R215). -/
def State.mismUp (s : State) (core : Nat) : Int := if layerOf core < 3 then (s.rail (colOf core) (layerOf core)).reading else 0
/-- The same for the rail below; 0 on layer 0. -/
def State.mismDn (s : State) (core : Nat) : Int := if layerOf core = 0 then 0 else -(s.rail (colOf core) (layerOf core - 1)).reading

/-- MISM (R215). -/
def State.mism (s : State) (core : Nat) : Word :=
  BitVec.ofInt 16 (s.mismUp core) ++ BitVec.ofInt 16 (s.mismDn core)

/-- Failed phases of the rails above and below a core. -/
def State.failedUp (s : State) (core : Nat) : Nat := if layerOf core < 3 then (s.rail (colOf core) (layerOf core)).failed else 0
/-- Failed phases of the rail below. -/
def State.failedDn (s : State) (core : Nat) : Nat := if layerOf core = 0 then 0 else (s.rail (colOf core) (layerOf core - 1)).failed

/-- COLSTAT (R221). -/
def State.colstat (s : State) (core : Nat) : Word :=
  let k := s.core core
  BitVec.ofNat 32 (k.tevt % 256 * 2 ^ 24 + min (s.failedUp core) 7 * 2 ^ 11 + min (s.failedDn core) 7 * 2 ^ 8 + (if k.throttled then 2 else 0)
    + (if k.mirror.isSome then 1 else 0))

/-- A write of THRCFG, ignored whole unless HYST < T1 < T2 ≤ 200 (R221). -/
def ClusterSt.putThr (k : ClusterSt) (x : Word) : ClusterSt :=
  let t1 := (x.extractLsb' 16 8).toNat
  let t2 := (x.extractLsb' 8 8).toNat
  let hy := (x.extractLsb' 0 8).toNat
  if hy < t1 ∧ t1 < t2 ∧ t2 ≤ 200 then { k with thrcfg := x &&& 0x00FFFFFF } else k

/-- THRCFG_WRITE (R221). -/
def execThrcfgWrite (cluster : Nat) (x : Word) (s : State) : Host.Outcome State Fault Refusal :=
  .next (s.updCluster cluster (fun k => k.putThr x))

/-- A privileged write of COLSTAT clears TEVT when the value written there is 0, and does nothing else (R221, R361). -/
def CoreSt.putColstat (k : CoreSt) (x : Word) : CoreSt := if x.extractLsb' 24 8 = 0 then { k with tevt := 0 } else k

/-- COLSTAT_WRITE (R221). -/
def execColstatWrite (core : Nat) (x : Word) (s : State) : Host.Outcome State Fault Refusal :=
  .next (s.updCore core (fun k => k.putColstat x))

/-! ### Placement -/

/-- The core holds a core group. -/
def State.occupied (s : State) (core : Nat) : Bool := !(s.wavesOn core).isEmpty

/-- Cores of a column. -/
def colCores (col : Nat) : List Nat := (List.range 4).map (· + 4 * col)

/-- The nearest core of a column that holds a core group, the lower on a tie. -/
def State.nearest (s : State) (core : Nat) : Option Nat :=
  let cs := (colCores (colOf core)).filter (fun c => s.occupied c)
  cs.foldl (fun b c => match b with
    | none => some c
    | some x => if (max c core - min c core) < (max x core - min x core) then some c else some x) none

/-- A rail is armed. -/
def State.arm (s : State) (col m : Nat) : State := s.updCol col (fun k => k.updRail m (fun r => { r with armed := true }))

/-- A core receives a core group: it is no mirror any more (R217). -/
def State.unmirror (s : State) (core : Nat) : State := s.updCore core (fun k => { k with mirror := none })

/-- Placement of a core group on a core: the core is no mirror, and its rails are armed (R217, R218). -/
def State.armCore (s : State) (core : Nat) : State :=
  let col := colOf core
  let s1 := s.unmirror core
  let s2 := if layerOf core < 3 then s1.arm col (layerOf core) else s1
  if layerOf core = 0 then s2 else s2.arm col (layerOf core - 1)

/-- After a placement on a column: its cores without a core group become mirrors, when BALCFG.MIRR is 1 (R217). -/
def State.mirrorCol (s : State) (col : Nat) : State :=
  if (s.cluster (col / 2)).balcfg.getLsbD 8 then
    (colCores col).foldl (fun s c =>
      if s.occupied c || (s.core c).mirror.isSome then s
      else s.updCore c (fun k => { k with mirror := s.nearest c, waitBurn := 0 })) s
  else s

/-- A wake of a gated column begins: its first step awaits a grant (R228). -/
def ColSt.wake (k : ColSt) : ColSt := if k.power = .gated then { k with power := .waking, step := 0, wakePending := true } else k

/-! ### Burn requests and shunt reservations -/

/-- The extra current of a core's own, in 0.10 A: its waves' requests and its waiting burn, capped at 5.00 A (R224). -/
def State.ownBurn (s : State) (core : Nat) : Nat :=
  min 50 ((s.wavesOn core).foldl (fun n e => n + e.2.st.burn) 0 + (s.core core).waitBurn)

/-- The extra current that a core draws, through at most `n` mirrors: the four cores of a column make no longer chain. -/
def State.drawVia (s : State) : Nat → Nat → Nat
  | 0, core => s.ownBurn core
  | n + 1, core => match (s.core core).mirror with
    | some src => s.drawVia n src
    | none => s.ownBurn core

/-- The extra current that a core draws: a mirror draws what its source draws, which may be a mirror itself by now (R217, R224). What a rail reads
of it is an input of the model, as is every other current (log entry 36, DESIGN CHOICE). -/
def State.extraDraw (s : State) (core : Nat) : Nat := s.drawVia 4 core

/-- BAL_BURN (R224, R280). -/
def execBalBurn (a b : Operand) (s : State) : Host.Outcome State Fault Refusal :=
  issueWave s (fun c => do
    c.start (.balBurn a b) false [a, b]
    c.need (isUni a && isUni b) .opc
    c.readsFull [a, b]
    let n := (c.r.uni a).toNat
    pure { c.w with st := { c.w.st with burn := min n 50, burnLeft := if n = 0 then 0 else (c.r.uni b).toNat } })

/-- BAL_STOP (R225, R282). -/
def execBalStop (s : State) : Host.Outcome State Fault Refusal :=
  issueWave s (fun c => do
    c.start .balStop false []
    pure { c.w with st := { c.w.st with burn := 0, burnLeft := 0 } })

/-- BURN_EXPIRY (R224): the request clears at the end of its duration, which is in cycles of a core whose clocks run (R220). -/
def execBurnExpiry (w : Nat) (s : State) : Host.Outcome State Fault Refusal :=
  .next (s.updWave w (fun x => if x.st.burnLeft = 1 ∧ s.clocked x.core then { x with st := { x.st with burn := 0, burnLeft := 0 } } else x))

/-- Units that a reservation asks for: clamped to 0 to 4. -/
def shuntAsk (x : Word) : Nat := min x.toInt.toNat 4

/-- The grant on the rail above a core: the largest amount that fits beside what the neighbour holds. -/
def State.grantUp (s : State) (core ask : Nat) : Nat :=
  if layerOf core = 3 then 0 else min ask ((s.rail (colOf core) (layerOf core)).units - (s.core (core + 1)).shuntDn)
/-- The grant on the rail below. -/
def State.grantDn (s : State) (core ask : Nat) : Nat :=
  if layerOf core = 0 then 0 else min ask ((s.rail (colOf core) (layerOf core - 1)).units - (s.core (core - 1)).shuntUp)

/-- BAL_SHUNT (R226, R281): irrevocable, whatever its k guard. -/
def execBalShunt (d a : Operand) (s : State) : Host.Outcome State Fault Refusal :=
  issueState s (fun c => do
    c.start (.balShunt d a) false [d, a]
    c.guardOk
    c.need (isS d && isUni a) .opc
    c.noPGuard
    c.uwp
    c.full
    c.shared
    if !c.kOn then pure ((c.put c.w).irrevocable c.u) else do
      c.reads [(a, true)]
      c.free (dstOf d).toList
      let ask := shuntAsk (c.r.uni a)
      let up := c.s.grantUp c.w.core ask
      let dn := c.s.grantDn c.w.core ask
      match d with
      | .s n =>
        let s1 := c.put (c.w.putS n.val (BitVec.ofNat 32 (up + 2 ^ 8 * dn)))
        pure ((s1.updCore c.w.core (fun k => { k with shuntUp := up, shuntDn := dn })).irrevocable c.u)
      | .v _ | .a _ | .p _ | .k _ | .zero | .lane | .par1 | .par2 | .imm _ => pure (c.put c.w))

end Sys2Proof.Machine
end

