-- ==== Sys2Proof/Machine/Waves.lean ====
section
/-! DEFINITION. The life of waves and core groups: `spawn` and `cjoin` (R47, R48, R304, R377), the end and the killing of a wave (R213, R236,
R316), the end of a core group (R258, R283, R324), regions and checkpoints (R237 to R241, R305, R368). -/

namespace Sys2Proof.Machine

/-! ### Ends -/

/-- A core group ends: its handles and every barrier that it owns are given up, replays in its address space too, and its launch counts it. -/
def State.endGroup (s : State) (g : Nat) (x : Group) : State :=
  let s1 := (List.range 32).foldl (fun s h => s.endHandle x.core g h) s
  let s2 := s1.updCore x.core (fun k =>
    { k with bars := k.bars.filter (fun e => decide (e.2.own ≠ g)), status := k.status.erase g, runCk := k.runCk.erase g,
             runQ := k.runQ.filter (· ≠ g), runBack := k.runBack.filter (· ≠ g), runEvs := k.runEvs.erase g })
  let gone (w : Wave) : Wave := if w.hidden.isSome && decide (w.group = g) then { w with ending := true } else w
  let s3 := { s2 with groups := s2.groups.erase g, waves := s2.waves.map (fun (e : Nat × Wave) => (e.1, gone e.2)) }
  match s3.launch? x.launch with
  | none => s3
  | some l => { s3 with launches := Map.insert s3.launches x.launch { l with running := l.running - 1 } }

/-- A parent learns of a child's end, in its checkpoint too, and of what it passes on to the parent's `cjoin` (R304). -/
def WaveCore.childEnded (w : WaveCore) (u : Nat) (killed : Bool) (evs : List Nat) : WaveCore :=
  if w.children.contains u then
    { w with children := w.children.filter (· ≠ u), killed := if killed then min (w.killed + 1) 32767 else w.killed,
             ofChildren := joinEvs w.ofChildren evs }
  else w

/-- A wave leaves word with its queued words whose scale registers it has written since (R163). -/
def State.leaveScales (s : State) (core u : Nat) (w : Wave) : State :=
  if w.watch.any (·.hit) then
    s.updCore core (fun k => k.taintEng (fun o => decide (o.wave = u) && w.watch.any (fun x => decide (x.id = o.id) && x.hit)))
  else s

/-- The last parts of a wave's end (R316), which is a release towards its parent and Trailhead (R213, R304). Trailhead has then acquired it, so that
it comes before the launch's completion and every wave placed later. Log entry 70: DESIGN CHOICE. -/
def State.endWave (s : State) (u : Nat) (w : Wave) : State :=
  let core := w.core
  let evs := s.allPasses u w
  let s0 := (s.leaveScales core u w).tellTrailhead evs
  let s1 := (s0.leaveShared core u).unaudit u
  let s2 := match w.parent with
    | some p => s1.updWave p (fun x => { x with st := x.st.childEnded u w.killedBy evs, ck := x.ck.childEnded u w.killedBy evs })
    | none => s1
  let s3 := s2.dropWave u
  let s4 := if (s3.wavesOn core).isEmpty then s3.updCore core (fun k => { k with shuntUp := 0, shuntDn := 0 }) else s3
  if (s4.wavesOf w.group).isEmpty then
    (match s4.group? w.group with
      | some g => s4.endGroup w.group g
      | none => s4)
  else s4.tryRun core w.group

/-- WAVE_END (R213): every slice has finished, or the wave was killed, and every access is performed. A hidden wave's replay ends. -/
def execWaveEnd (w : Nat) (s : State) : Host.Outcome State Fault Refusal :=
  match s.wave? w with
  | none => .next s
  | some x =>
    if x.ending && x.inflight.isEmpty then .next (match x.hidden with
      | some i => s.dropReplay w x i
      | none => s.endWave w x)
    else .next s

/-- A wave is killed (R236): it issues nothing more, and ends once its accesses are performed. Its stores stand. Log entry 28: DEDUCED. -/
def State.killWave (s : State) (u : Nat) : State :=
  match s.wave? u with
  | none => s
  | some w =>
    let s1 := s.setWave u { w with ending := true, killedBy := true, held := [], st := { w.st with trap := none, burn := 0, burnLeft := 0 } }
    (s1.dropFromRun w.core u).tryRun w.core w.group

/-! ### `spawn` and `cjoin` -/

/-- The state in which a child starts (R47). -/
def childCore (p : WaveCore) (entry sp : Word) : WaveCore :=
  let w := WaveCore.init (p.tx + entry.zeroExtend 64) p.tx p.tvec
  let d := p.depth + 1
  let sv (i : Nat) : Word :=
    if i = 0 ∨ i = 2 ∨ i = 3 then p.regs.s.getD i 0 else if i = 1 then 0xFFFF else if i = 4 then sp
    else if i = 5 then BitVec.ofNat 32 d else 0
  { w with depth := d, regs := { w.regs with s := Vector.ofFn (fun i => sv i.val), b := p.regs.b } }

/-- SPAWN (R47, R377). It never blocks; the child starts when the accesses before the `spawn` have been performed, and those happen before all
that it does. -/
def execSpawn (d a b : Operand) (s : State) : Host.Outcome State Fault Refusal :=
  issueState s (fun c => do
    c.start (.spawn d a b) false [d, a, b]
    c.guardOk
    c.need (decide (clsOf d = .upred) && isUni a && isUni b) .opc
    c.noPGuard
    c.uwp
    if !c.kOn then pure (c.put c.w) else do
      c.reads [(a, true), (b, false)]
      let e := c.r.uni a
      if e.toNat % 4 ≠ 0 then c.raiseAt .alf (c.w.st.tx + e.zeroExtend 64) else pure ()
      c.need (decide (c.w.st.depth < 4)) .spn
      let kd := match d with
        | .k n => n.val
        | .v _ | .s _ | .a _ | .p _ | .zero | .lane | .par1 | .par2 | .imm _ => 3
      match c.s.roomFor c.w.core c.w.valloc with
      | none => pure ((c.put (c.w.putK kd false)).irrevocable c.u)
      | some (q, slot) =>
        let w1 := c.w.putK kd true
        let w2 := { w1 with st := { w1.st with children := w1.st.children ++ [c.s.nextWave] } }
        let child := { Wave.init ((childCore c.w.st e (c.r.uni b)).learn c.passes (BitVec.allOnes 32) 0) c.w.core q slot c.w.group (some c.u) c.w.valloc with
          after := some (c.u, c.w.nextAcc, c.act) }
        pure (((c.put w2).addWave child).irrevocable c.u))

/-- CJOIN (R48, R304). -/
def execCjoin (d : Operand) (s : State) : Host.Outcome State Fault Refusal :=
  issueWave s (fun c => do
    c.start (.cjoin d) false [d]
    c.guardOk
    c.need (isS d) .opc
    c.noPGuard
    c.uwp
    if !c.kOn then pure c.w else do
      c.free (dstOf d).toList
      c.until c.w.st.children.isEmpty
      let n := c.w.st.killed
      match d with
      | .s r =>
        let w := c.w.putS r.val (BitVec.ofNat 32 (2 * n + (if n = 0 then 0 else 1)))
        pure (Wave.learn { w with st := { w.st with killed := 0, ofChildren := [] } } c.w.st.ofChildren c.act)
      | .v _ | .a _ | .p _ | .k _ | .zero | .lane | .par1 | .par2 | .imm _ => pure c.w)

/-! ### Regions and checkpoints -/

/-- A pending attempt is taken at a clean `rgn` (R238). -/
def State.atRgn (s : State) (u : Nat) : State :=
  match s.wave? u with
  | none => s
  | some w => if w.attempt.isSome && s.clean u then s.checkpoint u else s

/-- RGN (R239, R368). -/
def execRgn (s : State) : Host.Outcome State Fault Refusal :=
  issueState s (fun c => do
    c.start .rgn false []
    pure ((c.put c.w).atRgn c.u))

/-- The replay of a closed region ends at its `rgn.e`: the signatures are compared, nothing is said of a match, the first mismatch is an event
and asks for one more replay, and that one tells which of the two cores disagrees (R265). Log entry 39: DEDUCED. -/
def State.endReplay (s : State) (u : Nat) (w : Wave) (i : Nat) : State :=
  let cl := clusterOf w.core
  let s1 := (s.leaveShared w.core u).dropWave u
  match Map.find? (s.cluster cl).lant i with
  | none => s1
  | some c =>
    let sig := w.regSum c.resig
    let s2 := s1.updCluster cl (fun k => { k with lant := k.lant.erase i })
    match c.second with
    | none =>
      if sig = c.sig then s2
      else ((s1.updCopy cl i (fun c => { c with replay := none, second := some (w.core, sig) })).note (.aud cl)).postEvent 32
        (natLe 2 c.core ++ natLe 2 w.core ++ natLe 4 0x41 ++ List.replicate 24 0)
    | some (k2, sig2) =>
      if sig = c.sig then s2.charge (.cluster (clusterOf k2)) else if sig = sig2 then s2.charge (.cluster (clusterOf c.core)) else s2

/-- The open region closes at `rgn.e`: a checkpoint when clean, else the pin (R239); Lantern's pick is complete, or its replay. -/
def State.closeRegion (s : State) (u : Nat) : State :=
  match (s.wave? u).bind (fun w => w.hidden.map (fun i => (w, i))) with
  | some (w, i) => s.endReplay u w i
  | none => (s.closePick u).irrevocable u

/-- A clean wave takes its checkpoint at `rgn.i` and opens a region, in which a rollback resumes. -/
def State.openIfClean (s : State) (u : Nat) : State :=
  if s.clean u then
    ((s.checkpoint u).updWave u (fun w => { w with st := { w.st with region := true }, ck := { w.ck with region := true } })).openRegion u
  else s

/-- RGN_I (R239, R368). -/
def execRgnI (s : State) : Host.Outcome State Fault Refusal :=
  issueState s (fun c => do
    c.start .rgnI false []
    c.full
    c.until c.r.allFull
    let s1 := c.put c.w
    pure ((if c.w.st.region then s1.closeRegion c.u else s1).openIfClean c.u))

/-- RGN_E (R239, R368). -/
def execRgnE (s : State) : Host.Outcome State Fault Refusal :=
  issueState s (fun c => do
    c.start .rgnE false []
    c.full
    if !c.w.st.region then pure ((c.put c.w).atRgn c.u) else do
      c.until c.r.allFull
      pure ((c.put c.w).closeRegion c.u))

/-- A run of the core group starts no new call (R191). -/
def State.holdRun (s : State) (core g : Nat) : State :=
  s.updCore core (fun k => { k with run := k.run.map (fun r => if r.grp = g then { r with hold := true } else r) })

/-- CKPT (R305). While it waits, the engine of its core group's run starts no new call (R191). -/
def execCkpt (s : State) : Host.Outcome State Fault Refusal :=
  issueState s (fun c => do
    c.start .ckpt false []
    c.full
    let k := c.core
    let skip := (c.w.st.slice c.sl).mac.isSome || k.inCall c.u || decide (k.baton = some c.u)
      || c.w.st.openGlob
    if skip then pure (c.put c.w)
    else if c.s.clean c.u then pure ((c.put c.w).checkpoint c.u)
    else pure (((c.s.block c.u c.sl .ckpt).holdRun c.w.core c.w.group).pumpRun c.w.core))

/-- CHECKPOINT_ATTEMPT (R238): the core's count has passed a multiple of INTERVAL × 1,024; every wave of the core receives a pending attempt,
and a run starts no new call until its calls have ended (R191). -/
def execCheckpointAttempt (core : Nat) (s : State) : Host.Outcome State Fault Refusal :=
  let k := s.core core
  if !k.attemptDue then .next s
  else
    let give (w : Wave) : Wave := if w.core = core ∧ w.plain then { w with attempt := some (w.attempt.getD k.since) } else w
    let s1 : State := { s with waves := s.waves.map (fun e => (e.1, give e.2)) }
    .next ((s1.updCore core (fun k => { k with attemptDue := false, run := k.run.map (fun r => { r with hold := true }) })).pumpRun core)

/-- CHECKPOINT_ATTEMPT_TIMEOUT (R238): 1,024 cycles after it arose, at a clean boundary. -/
def execCheckpointAttemptTimeout (w : Nat) (s : State) : Host.Outcome State Fault Refusal :=
  match s.wave? w with
  | none => .next s
  | some x => match x.attempt with
    | some n => if n ≥ 1024 then .next (s.takeCkpt w) else .next s
    | none => .next s

/-- PINNED_CHECKPOINT (R241): a pinned wave at a clean point takes a checkpoint and is pinned no longer. One that waits for a pre-emption then
stops (R246). -/
def execPinnedCheckpoint (w : Nat) (s : State) : Host.Outcome State Fault Refusal :=
  match s.wave? w with
  | none => .next s
  | some x => if x.pinned && s.clean w then .next (s.checkpoint w) else .next s

end Sys2Proof.Machine
end

