-- ==== Sys2Proof/Machine/Preempt.lean ====
section
/-! DEFINITION. Pre-emption, the Cisterns and the moving of core groups between cores (R208, R209, R246, R247, R258). -/

namespace Sys2Proof.Machine

/-- The clusters of a partition (R251). -/
def State.clustersOf (s : State) (p : Nat) : List Nat := (List.range 64).filter (fun c => decide (s.partOf c = some p))

/-- A partition's launch has core groups that wait for placement. -/
def Launch.waits (l : Launch) : Bool := !l.killed && decide (l.placed < pkField l.bytes 24 4)

/-! ### Halting -/

/-- The waves of clusters, without Trailhead's. -/
def State.wavesIn (s : State) (cs : List Nat) : List (Nat × Wave) :=
  s.waves.filter (fun e => e.2.plain && cs.contains (clusterOf e.2.core))

/-- The co-resident launches of a list of waves (R208). -/
def State.corSet (s : State) (ws : List (Nat × Wave)) : List Nat :=
  ((ws.filterMap (fun e => s.group? e.2.group)).map (·.launch)).eraseDups.filter (fun n =>
    match s.launch? n with
    | some l => decide (pkField l.bytes 0 4 / 2 ^ 26 % 2 = 1)
    | none => false)

/-- Two lists of launches share one. -/
def meet (a b : List Nat) : Bool := a.any b.contains

/-- A core runs, or its Cistern holds, part of some of the co-resident launches. -/
def State.holdsCor (s : State) (ls : List Nat) (core : Nat) : Bool :=
  meet ls (s.corSet (s.wavesOn core)) || (match (s.core core).cistern with
    | some x => meet ls (s.corSet x.waves)
    | none => false)

/-- The co-resident launches bound to some by a core that runs, or a Cistern that holds, parts of both: one step. -/
def State.bindCor (s : State) (ks ls : List Nat) : List Nat :=
  ks.foldl (fun ls k =>
    let a := s.corSet (s.wavesOn k)
    let b := match (s.core k).cistern with
      | some x => s.corSet x.waves
      | none => []
    let l1 := if meet ls a then (ls ++ a).eraseDups else ls
    if meet l1 b then (l1 ++ b).eraseDups else l1) ls

/-- All of them. -/
def State.boundCor (s : State) (ks : List Nat) (ls : List Nat) : List Nat := ks.foldl (fun ls _ => s.bindCor ks ls) ls

/-- The clusters that are pre-empted with some clusters: those that run a part of a co-resident launch with another part there (R208, R246). -/
def State.whole (s : State) (p : Nat) (cs : List Nat) : List Nat :=
  let all := s.clustersOf p
  let ls := s.boundCor (all.flatMap coresOf) (s.corSet (s.wavesIn cs))
  all.filter (fun c => cs.contains c || (coresOf c).any (s.holdsCor ls))

/-- Clusters stop issuing, but for pinned waves, and every other wave rolls back (R246). -/
def State.beginPreempt (s : State) (cs : List Nat) : State :=
  let s1 := cs.foldl (fun s c => s.updCluster c (fun k => { k with halted := true })) s
  s1.rollAll (((s1.wavesIn cs).filter (fun e => !s1.holdsOut e.2)).map (·.1)) 0

/-- A copy packet that has started and not completed names a typed buffer of these clusters. -/
def State.buffersBusy (s : State) (cs : List Nat) : Bool :=
  s.copyQs.any (fun e => e.2.jobs.any (fun j =>
    let p := packetOf j.bytes
    (p.usesCore || j.fill.isSome) && cs.contains (clusterOf p.tcore)))

/-- Step 3 of R246 is done: no pinned wave, no access in flight, no started packet on these cores' buffers, no engine operation, but for a column
that stands still until it is retired (R220, R229). -/
def State.quiet (s : State) (cs : List Nat) : Bool :=
  (s.wavesIn cs).all (fun e => !e.2.pinned && !e.2.ending && e.2.inflight.isEmpty) && !s.buffersBusy cs
  && cs.all (fun c => (coresOf c).all (fun k => (s.core k).eng.isEmpty || ((s.col (colOf k)).stopped && (s.col (colOf k)).failing)))

/-- What the engine of a column that stands still has left is done, so that its core groups can move (R229). Log entry 43: DEDUCED. -/
def State.drainEngine (s : State) (core : Nat) : State :=
  if (s.col (colOf core)).stopped && (s.col (colOf core)).failing then (s.core core).eng.foldl (fun s _ => s.finishFront core) s else s

/-- Clusters go on. -/
def State.endHalt (s : State) (cs : List Nat) : State :=
  cs.foldl (fun s c => ((coresOf c).foldl State.drainEngine s).updCluster c (fun k => { k with halted := false })) s

/-! ### Contexts (R247) -/

/-- A location of a core's buffers. -/
def inWindow (core l : Nat) : Bool := decide (locS core ≤ l ∧ l < locS core + coreWindow)

/-- The context of a core. -/
def State.capture (s : State) (core part : Nat) : Context :=
  let k := s.core core
  let lo := locS core
  let cl := s.cluster (clusterOf core)
  { waves := s.wavesOn core, unsync := k.unsync
    bytes := (s.mem.filter (fun c => decide (lo ≤ c.1 ∧ c.1 < lo + coreWindow))).map (fun c => (c.1 - lo, c.2))
    poison := (s.poison.filter (fun x => decide (lo / 32 ≤ x ∧ x < (lo + coreWindow) / 32))).map (fun x => x - lo / 32)
    tags := k.tags, ce := k.ce, cq := k.cq, image := k.image, handles := k.handles, bars := k.bars, baton := k.baton, run := k.run,
    runCk := k.runCk, runQ := k.runQ, runBack := k.runBack, status := k.status, runEvs := k.runEvs, batonQ := k.batonQ,
    evs := (s.evs.filter (fun e => inWindow core e.loc)).map (fun e => { e with loc := e.loc - lo }),
    syncs := (s.syncs.filter (fun y => inWindow core y.loc)).map (fun y => { y with loc := y.loc - lo }),
    shuntUp := k.shuntUp, shuntDn := k.shuntDn, macs := k.macs, interval := k.interval, thrcfg := cl.thrcfg, balcfg := cl.balcfg, space := k.space, part := part }

/-- A core's buffers, tables and engine state zeroed, and its waves taken away (R258). -/
def State.emptyCore (s : State) (core : Nat) : State :=
  let lo := locS core
  State.updCore
    { s.forget lo coreWindow with
      waves := s.waves.filter (fun e => e.2.tp.isSome || decide (e.2.core ≠ core))
      mem := s.mem.zeroRange lo coreWindow
      poison := s.poison.filter (fun x => decide (x < lo / 32 ∨ (lo + coreWindow) / 32 ≤ x)) }
    core
    (fun k => { k with tags := [], ce := [], cq := [], image := none, imgTaint := [], eng := [], unsync := [], handles := [], bars := [], baton := none, batonQ := [],
                       run := none, runCk := [], runQ := [], runBack := [], status := [], runEvs := [], shuntUp := 0, shuntDn := 0, macs := [],
                       space := none })

/-- A context goes on, on a core that is empty: the core is no mirror (R217), and a gated column wakes (R228). What its data cache and its
cluster's read copies hold of earlier reads is dropped (R130; log entry 43, DEDUCED). -/
def State.install (s : State) (core : Nat) (x : Context) : State :=
  let lo := locS core
  let gs := x.waves.map (·.2.group)
  let s1 : State := { s with
    waves := x.waves.foldl (fun m e => Map.insert m e.1 { e.2 with core := core }) s.waves
    groups := s.groups.map (fun e => if gs.contains e.1 then (e.1, { e.2 with core := core }) else e)
    mem := s.mem.filter (fun c => c.1 < lo) ++ x.bytes.map (fun c => (c.1 + lo, c.2)) ++ s.mem.filter (fun c => lo + coreWindow ≤ c.1)
    evs := s.evs ++ x.evs.map (fun e => { e with loc := e.loc + lo, who := { e.who with cores := e.who.cores.map (fun _ => core) } })
    syncs := s.syncs ++ x.syncs.map (fun y => { y with loc := y.loc + lo, who := { y.who with cores := y.who.cores.map (fun _ => core) } })
    poison := s.poison ++ x.poison.map (fun k => k + lo / 32) }
  let s2 := s1.updCore core (fun k =>
    { k with tags := x.tags, ce := x.ce, cq := x.cq, image := x.image, unsync := x.unsync, handles := x.handles, bars := x.bars, baton := x.baton, run := x.run,
             runCk := x.runCk, runQ := x.runQ, runBack := x.runBack, status := x.status, runEvs := x.runEvs, batonQ := x.batonQ, dcache := [], shuntUp := x.shuntUp, shuntDn := x.shuntDn, macs := x.macs,
             interval := x.interval, space := x.space })
  let s3 := if x.waves.isEmpty then s2
    else ((s2.unmirror core).updCol (colOf core) ColSt.wake).updCluster (clusterOf core) (fun k => { k with peers := [] })
  if core % 8 = 0 then s3.updCluster (clusterOf core) (fun k => { k with thrcfg := x.thrcfg, balcfg := x.balcfg }) else s3

/-- A core's Cistern changed. -/
def State.setCistern (s : State) (core : Nat) (x : Option Context) : State := s.updCore core (fun k => { k with cistern := x })

/-- A core has a context to exchange: it runs one, its Cistern holds one, or it is the lowest of a cluster that has, whose configuration
stands with its own (R247). -/
def State.swaps (s : State) (core : Nat) : Bool :=
  let has (k : Nat) : Bool := s.occupied k || (s.core k).cistern.isSome
  has core || (decide (core % 8 = 0) && (coresOf (core / 8)).any has)

/-- A core swaps its context with its Cistern (R247): what nothing refills is zero. `go` says whether the core takes part. -/
def State.swapCore (s : State) (part : Nat) (go : Bool) (core : Nat) : State :=
  if !go then s
  else
    let out := s.capture core part
    let s1 := (s.emptyCore core).setCistern core (if out.idle && decide (core % 8 ≠ 0) then none else some out)
    match (s.core core).cistern with
    | some x => s1.install core x
    | none => s1

/-- A core that Trailhead may place core groups on: its cluster belongs to the partition, is in service and neither drained nor halted, and
its column is not dark. -/
def State.usable (s : State) (part core : Nat) : Bool :=
  let cl := s.cluster (clusterOf core)
  decide (s.partOf (clusterOf core) = some part) && !cl.draining && !cl.retired && !cl.halted && cl.phys.isSome
  && decide ((s.col (colOf core)).power ≠ .retired)

/-- The contexts in HBM that come back together with one: those bound to it by co-resident launches (R208). -/
def State.bundle (s : State) (x : Context) : List Context :=
  let grow (ls : List Nat) : List Nat := s.stored.foldl (fun ls y => if meet ls (s.corSet y.waves) then (ls ++ s.corSet y.waves).eraseDups else ls) ls
  let ls := s.stored.foldl (fun ls _ => grow ls) (s.corSet x.waves)
  s.stored.filter (fun y => decide (y = x) || meet ls (s.corSet y.waves))

/-- Contexts from HBM go to cores, one each. -/
def State.placeContexts (s : State) (cistern : Bool) (l : List (Context × Nat)) : State :=
  l.foldl (fun s e =>
    let s1 := { s with stored := s.stored.erase e.1 }
    if cistern then s1.setCistern e.2 (some e.1) else (s1.emptyCore e.2).install e.2 e.1) s

/-- The contexts of a bundle come back: to empty cores when there is one for each, else to the Cisterns when those have room for all, else not
yet. A core that may not be placed on takes none (R229). -/
def State.refillOne (s : State) (part : Nat) (ks : List Nat) (x : Context) : State :=
  if !s.stored.contains x then s
  else
    let b := s.bundle x
    let ok := ks.filter (fun k => s.usable part k)
    let cores := ok.filter (fun k => !s.occupied k)
    let rooms := ok.filter (fun k => s.cisternFree k)
    if b.length ≤ cores.length then s.placeContexts false (b.zip cores)
    else if b.length ≤ rooms.length then s.placeContexts true (b.zip rooms)
    else s

/-- The contexts of a partition in HBM have their turn, oldest first. -/
def State.refill (s : State) (part : Nat) (ks : List Nat) : State :=
  (s.stored.filter (fun x => decide (x.part = part))).foldl (fun s x => s.refillOne part ks x) s

/-- An empty core of a partition outside some clusters and columns. -/
def State.spareCore (s : State) (part : Nat) (bad : List Nat) : Option Nat :=
  (List.range 512).find? (fun k => !bad.contains k && s.usable part k && !s.occupied k)

/-- A core's Cistern is emptied to HBM (R267); a configuration alone is not kept. -/
def State.spillCistern (s : State) (core : Nat) : State :=
  match (s.core core).cistern with
  | none => s
  | some x =>
    let s1 := s.setCistern core none
    if x.idle then s1 else { s1 with stored := s1.stored ++ [x] }

/-- The context that a core runs goes to HBM. -/
def State.stash (s : State) (part core : Nat) : State :=
  let x := s.capture core part
  let s1 := s.emptyCore core
  { s1 with stored := s1.stored ++ [x] }

/-- Every part of some co-resident launches goes to HBM, so that they come back together (R208). -/
def State.stashCor (s : State) (part : Nat) (ls : List Nat) : State :=
  let ks := (s.clustersOf part).flatMap coresOf
  let all := s.boundCor ks ls
  ks.foldl (fun s k =>
    let s1 := if meet all (s.corSet (s.wavesOn k)) then s.stash part k else s
    match (s1.core k).cistern with
    | some x => if meet all (s1.corSet x.waves) then s1.spillCistern k else s1
    | none => s1) s

/-- The context of a core moves to another core of its partition, or waits in HBM when none is empty, and every other part of its co-resident
launches with it. What the new core's caches hold of earlier reads is dropped. Log entry 43: DEDUCED. -/
def State.moveCore (s : State) (part core : Nat) (bad : List Nat) : State :=
  if !s.occupied core then s
  else
    let x := s.capture core part
    match s.spareCore part (core :: bad) with
    | none => (s.stash part core).stashCor part (s.corSet x.waves)
    | some k =>
      let s1 := (((s.emptyCore core).emptyCore k).install k x).updCore k (fun y => { y with dcache := [], icache := [] })
      (s1.armCore k).mirrorCol (colOf k)

/-- The Cistern of a core is emptied to HBM, with the Cisterns that hold other parts of its co-resident launches. -/
def State.spillWhole (s : State) (part core : Nat) : State :=
  match (s.core core).cistern with
  | none => s
  | some x => (s.spillCistern core).stashCor part (s.corSet x.waves)

/-- The cores of a list with parts of co-resident launches come first. -/
def State.corFirst (s : State) (ks : List Nat) : List Nat :=
  let cor (k : Nat) : Bool := !(s.corSet (s.wavesOn k)).isEmpty
  ks.filter cor ++ ks.filter (fun k => !cor k)

/-! ### The quantum -/

/-- Units of the default quantum (R209). -/
abbrev quantumUnits : Nat := 2344

/-- Another context is due on the clusters of a partition: one in a Cistern or in HBM, or a launch that waits for room. -/
def State.contextDue (s : State) (p : Nat) : Bool :=
  (s.clustersOf p).any (fun c => (coresOf c).any (fun k => !s.cisternFree k))
  || s.stored.any (fun x => decide (x.part = p)) || s.launches.any (fun e => decide (e.2.part = p) && e.2.waits)

/-- Cycle count of the lowest core of a partition. -/
def State.partCycles (s : State) (p : Nat) : Nat := (s.core (8 * (s.clustersOf p).headD 0)).cycles.toNat

/-- TIME_QUANTUM_EXPIRY (R209, R246). During a take-over it waits (R211). Log entry 44: DEDUCED. -/
def execTimeQuantumExpiry (part : Nat) (s : State) : Host.Outcome State Fault Refusal :=
  let cs := s.clustersOf part
  if !s.takeover ∧ (Map.find? s.quanta part).getD 0 ≥ quantumUnits ∧ s.contextDue part ∧ !cs.isEmpty ∧ cs.all (fun c => !(s.cluster c).halted) then
    .next { s.beginPreempt cs with preempt := Map.insert s.preempt part (s.partCycles part) }
  else .next s

/-- CISTERN_SWAP (R247). During a take-over it waits (R211). -/
def execCisternSwap (part : Nat) (s : State) : Host.Outcome State Fault Refusal :=
  let cs := s.clustersOf part
  if !s.takeover ∧ (Map.find? s.preempt part).isSome ∧ s.quiet cs then
    let ks := cs.flatMap coresOf
    let s1 := ks.foldl (fun t k => t.swapCore part (s.swaps k) k) (s.endHalt cs)
    let s2 := s1.refill part ks
    .next { s2 with preempt := s2.preempt.erase part, quanta := s2.quanta.erase part }
  else .next s

/-- PINNED_TIMEOUT (R246): pinned waves that stay unclean for 65,536 cycles are reported. -/
def execPinnedTimeout (part : Nat) (s : State) : Host.Outcome State Fault Refusal :=
  match Map.find? s.preempt part with
  | none => .next s
  | some n =>
    if s.partCycles part ≥ n + 65536 ∧ (s.wavesIn (s.clustersOf part)).any (fun e => e.2.pinned && !s.clean e.1) then
      .next (s.note (.pinned part))
    else .next s

end Sys2Proof.Machine
end

