-- ==== Sys2Proof/Machine/Power.lean ====
section
/-! DEFINITION. Readings of the mid-rails and what follows from them (R218 to R220, R222), phase failures (R229), power gating and wakes
(R228), and the leaky buckets (R266). -/

namespace Sys2Proof.Machine

/-! ### Leaky buckets -/

/-- CORRECTED_ERROR (R266). -/
def execCorrectedError (b : Bucket) (s : State) : Host.Outcome State Fault Refusal := .next (s.charge b)

/-- LEAK (R266): every bucket drops by 1; LEAK 0 stops it. -/
def execLeak (s : State) : Host.Outcome State Fault Refusal :=
  if s.lbcfg.extractLsb' 16 16 = 0 then .next s
  else
    let bs := (s.buckets.map (fun e => (e.1, e.2 - 1))).filter (fun e => decide (e.2 ≠ 0))
    let s1 := { s with buckets := bs }
    .next { s1 with raised := s.raised.filter (fun b => decide (2 * s1.bucket b ≥ s.mark)) }

/-! ### One rail at one reading (R218) -/

/-- The core above a rail's lower neighbour is the upper one; rail m lies between layers m and m + 1. -/
abbrev railCore (col m : Nat) (upper : Bool) : Nat := 4 * col + m + (if upper then 1 else 0)

/-- The heavier neighbour: true for the one of layer m + 1; none at a reading of 0. -/
def heavier (r : Int) : Option Bool := if r > 0 then some false else if r < 0 then some true else none

/-- A neighbour is throttled for a rail, or about to be. -/
def CoreSt.thrFor (k : CoreSt) (upper : Bool) : Bool := if upper then k.thrDn || k.pendDn else k.thrUp || k.pendUp

/-- A neighbour's throttle for a rail ends. -/
def CoreSt.thrEnd (k : CoreSt) (upper : Bool) : CoreSt :=
  if upper then { k with thrDn := false, pendDn := false } else { k with thrUp := false, pendUp := false }

/-- A neighbour's throttle for a rail is to engage, and is counted. -/
def CoreSt.thrPend (k : CoreSt) (upper : Bool) : CoreSt :=
  let k1 := { k with tevt := min (k.tevt + 1) 255 }
  if upper then { k1 with pendDn := true } else { k1 with pendUp := true }

/-- T1, T2 and HYST of a rail (R221, R229), T1 and T2 raised by the heavier neighbour's units (R226). Log entry 40: DEDUCED. -/
def State.thresholds (s : State) (col m : Nat) (heavy : Option Bool) : Nat × Nat × Nat :=
  let x := (s.cluster (col / 2)).thrcfg
  let r := s.rail col m
  let g := match heavy with
    | none => 0
    | some up => let k := s.core (railCore col m up); if up then k.shuntDn else k.shuntUp
  let lift (t : Nat) : Nat := if g = 0 then t else min (t + 25 * g) 200
  (lift (r.derate (x.extractLsb' 16 8).toNat), lift (r.derate (x.extractLsb' 8 8).toNat), r.derate (x.extractLsb' 0 8).toNat)

/-- The throttle's rows of R218. -/
def State.railThrottle (s : State) (col m a : Nat) (heavy : Option Bool) (t1 hy : Nat) : State :=
  let end_ (s : State) (up : Bool) : State :=
    if (s.core (railCore col m up)).thrFor up then s.updCore (railCore col m up) (fun k => k.thrEnd up) else s
  match heavy with
  | none => if a < t1 - hy then end_ (end_ s false) true else s
  | some up =>
    if a ≥ t1 then
      let s1 := end_ s (!up)
      if (s1.core (railCore col m up)).thrFor up then s1
      else (s1.updCore (railCore col m up) (fun k => k.thrPend up)).note (.throttle (railCore col m up))
    else if a < t1 - hy then end_ (end_ s false) true
    else s

/-- MST to every wave of a core that takes it and is not parked: with a trap unresolved, in its handler too, it is (R219, R232, R234). -/
def State.sendMst (s : State) (core m : Nat) (r : Int) : State :=
  let fa : DWord := BitVec.ofInt 16 r ++ BitVec.ofNat 16 (m % 4)
    |>.zeroExtend 64
  (s.wavesOn core).foldl (fun s e =>
    if e.2.st.pwrctl.getLsbD 0 && e.2.st.trap.isNone && !e.2.ending then s.updWave e.1 (fun w => w.hold .mst fa) else s) s

/-- The trap's rows of R218. -/
def State.railTrap (s : State) (col m a : Nat) (r : Int) (heavy : Option Bool) (t2 hy : Nat) : State :=
  let arm (b : Bool) (s : State) : State := s.updCol col (fun k => k.updRail m (fun x => { x with armed := b }))
  if (s.rail col m).armed then
    (match heavy with
      | none => s
      | some up => if a ≥ t2 then (arm false s).sendMst (railCore col m up) m r else s)
  else if a < t2 - hy then arm true s
  else s

/-- A machine check (R220): the column's clocks stop, its cores roll back, and the cluster's bucket is charged. -/
def State.machineCheck (s : State) (col : Nat) : State :=
  let s1 := s.updCol col (fun k => { k with stopped := true })
  let s2 := s1.rollAll (((colCores col).flatMap (fun c => s1.wavesOn c)).map (·.1)) 0
  (s2.note (.machineCheck col)).charge (.cluster (col / 2))

/-- The machine check's row of R218. -/
def State.railCheck (s : State) (col m a : Nat) : State :=
  let x := s.rail col m
  let n := if a > x.derate 200 then x.above + 1 else 0
  let s1 := s.updCol col (fun k => k.updRail m (fun y => { y with above := if n ≥ 4 then 0 else n }))
  if n ≥ 4 then s1.machineCheck col else s1

/-! ### Balanced waiting (R222) -/

/-- Some wave of a core can issue. A gang that stalled counts as blocked here; where it could go on, `State.settleBurn` takes a burn away again
in the same step (R222). -/
def State.issuable (s : State) (core : Nat) : Bool :=
  (s.wavesOn core).any (fun e => e.2.st.unfinished.any (fun i => s.canIssue e.2 i && decide ((e.2.st.slice i).wait = none)))

/-- The waiting burn of a core at a reading, in 0.10 A. -/
def State.waiting (s : State) (core : Nat) : Nat :=
  let b := (s.cluster (clusterOf core)).balcfg
  let up := (-(s.mismUp core)).toNat
  let dn := (-(s.mismDn core)).toNat
  if b.getLsbD 7 && (s.core core).mirror.isNone && !s.issuable core then min (max up dn / 10) (min (b.extractLsb' 0 7).toNat 50) else 0

/-- A core's waiting burn set anew. -/
def State.setWaiting (s : State) (core : Nat) : State :=
  let n := s.waiting core
  if (s.core core).waitBurn = n then s else s.updCore core (fun k => { k with waitBurn := n })

/-! ### The happenings -/

/-- A reading as the device forms it: clamped (R214). -/
def clampReading (r : Int) : Int := max (-32767) (min r 32767)

/-- RAIL_READING (R214, R218, R219, R222). Log entry 36: DESIGN CHOICE. -/
def execRailReading (col rail : Nat) (r : Int) (s : State) : Host.Outcome State Fault Refusal :=
  let k := s.col col
  if col < 128 ∧ rail < 3 ∧ k.power = .on ∧ !k.stopped then
    let r := clampReading r
    let a := r.natAbs
    let heavy := heavier r
    let s1 := s.updCol col (fun k => k.updRail rail (fun x => { x with reading := r }))
    let t := s1.thresholds col rail heavy
    let s2 := s1.railThrottle col rail a heavy t.1 t.2.2
    let s3 := s2.railTrap col rail a r heavy t.2.1 t.2.2
    let s4 := s3.railCheck col rail a
    .next ((s4.setWaiting (railCore col rail false)).setWaiting (railCore col rail true))
  else .next s

/-- THROTTLE (R218): a throttle engages 128 cycles after the reading that called for it. -/
def execThrottle (col rail : Nat) (s : State) : Host.Outcome State Fault Refusal :=
  let s1 := if (s.core (railCore col rail false)).pendUp then
      s.updCore (railCore col rail false) (fun k => { k with thrUp := true, pendUp := false })
    else s
  .next (if (s1.core (railCore col rail true)).pendDn then
      s1.updCore (railCore col rail true) (fun k => { k with thrDn := true, pendDn := false })
    else s1)

/-- A column is retired (R229): its cluster, and what a co-resident launch binds to it, is pre-empted; once all is quiet, the column's core
groups move, and it stays dark. During a take-over this waits (R211). -/
def State.retireColumn (s : State) (col : Nat) : State :=
  let cl := col / 2
  let p := s.partOf cl
  let cs := match p with
    | some p => s.whole p [cl]
    | none => [cl]
  if s.takeover ∨ (s.col col).power = .retired ∨ (p.bind (fun p => Map.find? s.preempt p)).isSome then s
  else if !cs.all (fun c => (s.cluster c).halted) then s.beginPreempt cs
  else if !s.quiet cs then s
  else
    let s1 := (s.endHalt cs).updCol col (fun k => { k with power := .retired, stopped := false, wakePending := false })
    let s2 := match p with
      | some p => (s1.corFirst (colCores col)).foldl (fun (s : State) c => (s.moveCore p c (colCores col)).spillWhole p c) s1
      | none => s1
    (colCores col).foldl (fun s c => s.updCore c (fun k => { k with mirror := none, waitBurn := 0 })) s2

/-- COLUMN_RESTART (R220): the phase test has run; a column that has lost too many phases is retired, and goes on with that where it had to wait
(R229). -/
def execColumnRestart (col : Nat) (s : State) : Host.Outcome State Fault Refusal :=
  if (s.col col).failing then .next (s.retireColumn col)
  else if !(s.col col).stopped then .next s
  else .next (s.updCol col (fun k => { k with stopped := false }))

/-- PHASE_FAILURE (R229): one more of the eight phases of a rail has failed; beyond 2 the column is retired. -/
def execPhaseFailure (col rail : Nat) (s : State) : Host.Outcome State Fault Refusal :=
  if col ≥ 128 ∨ rail ≥ 3 ∨ (s.rail col rail).failed ≥ 8 then .next s
  else
    let s1 := s.updCol col (fun k => k.updRail rail (fun x => { x with failed := x.failed + 1 }))
    if (s1.rail col rail).failed > 2 then .next (s1.retireColumn col) else .next (s1.note (.phase col rail))

/-! ### Gating and wakes (R228) -/

/-- The other column of an island. -/
abbrev otherCol (col : Nat) : Nat := if col % 2 = 0 then col + 1 else col - 1

/-- COLUMN_GATE: an empty column is gated; its cores are mirrors no longer (R217). -/
def execColumnGate (col : Nat) (s : State) : Host.Outcome State Fault Refusal :=
  if (s.col col).power = .on ∧ (colCores col).all (fun c => !s.occupied c) then
    .next ((colCores col).foldl (fun s c => s.updCore c (fun k => { k with mirror := none, waitBurn := 0 }))
      (s.updCol col (fun k => { k with power := .gated })))
  else .next s

/-- A throttle of a column's cores by the island manager. -/
def State.throttleCol (s : State) (col : Nat) (b : Bool) : State :=
  (colCores col).foldl (fun s c => s.updCore c (fun k => { k with thrWake := b })) s

/-- INRUSH_GRANT: the step that waits starts, once the other column's current leaves room for 0.50 A below 16.00 A, and the throttle that its
wait brought ends; a throttle for want of cooling stands. Log entry 41: DEDUCED. -/
def execInrushGrant (col : Nat) (s : State) : Host.Outcome State Fault Refusal :=
  let k := s.col col
  if k.power = .waking ∧ k.wakePending ∧ (s.col (otherCol col)).current + 50 ≤ 1600 then
    .next ((s.setCol col { k with wakePending := false }).throttleCol (otherCol col) false)
  else .next s

/-- A throttle event of a core: counted in TEVT and logged to Basecamp (R218). -/
def State.throttleEvent (s : State) (core : Nat) : State :=
  (s.updCore core (fun k => { k with tevt := min (k.tevt + 1) 255 })).note (.throttle core)

/-- WAKE_STEP_WAIT: a step has waited 8 µs; the other column's cores are throttled, each that is not yet by an event of R218. -/
def execWakeStepWait (col : Nat) (s : State) : Host.Outcome State Fault Refusal :=
  let k := s.col col
  if k.power = .waking ∧ k.wakePending then
    let new := (colCores (otherCol col)).filter (fun c => !(s.core c).thrWake)
    .next ((new.foldl (fun s c => s.throttleEvent c) s).throttleCol (otherCol col) true)
  else .next s

/-- A step of a wake has ended: the next one awaits its grant, and after the sixteenth the column is on, its rails armed (R218). -/
def ColSt.stepDone (k : ColSt) : ColSt :=
  if k.step + 1 < 16 then { k with step := k.step + 1, wakePending := true }
  else (List.range 3).foldl (fun k m => k.updRail m (fun r => { r with armed := true })) { k with step := 0, power := .on }

/-- WAKE_STEP_END. -/
def execWakeStepEnd (col : Nat) (s : State) : Host.Outcome State Fault Refusal :=
  let k := s.col col
  if k.power = .waking ∧ !k.wakePending then .next (s.setCol col k.stepDone) else .next s

end Sys2Proof.Machine
end

