-- ==== Sys2Proof/Machine/System.lean ====
section
/-! DEFINITION. System registers (R6, R360 to R362) and the privileged instructions `eret`, `hv`, `mcs.wr`, `iinv` and `tlbinv` (R69, R234,
R315, R328, R329, R341, R382). -/

namespace Sys2Proof.Machine

/-! ### System registers -/

/-- The system registers of a core (R360). -/
inductive SysReg where
  | coreid | modex | modem | cclo | cchi | mism | pwrctl | thrcfg | balcfg | colstat | tveclo | tvechi | trcause | trpc | trmask | trfalo
  | trfahi | ckptcfg | hscr0 | hscr1 | txlo | txhi
deriving DecidableEq, Repr

/-- The register of a number; none for every other value. -/
def sysReg (n : BitVec 16) : Option SysReg :=
  match n.toNat with
  | 0x01 => some .coreid | 0x02 => some .modex | 0x03 => some .modem | 0x04 => some .cclo | 0x05 => some .cchi | 0x06 => some .mism
  | 0x07 => some .pwrctl | 0x08 => some .thrcfg | 0x09 => some .balcfg | 0x0A => some .colstat | 0x0B => some .tveclo
  | 0x0C => some .tvechi | 0x0D => some .trcause | 0x0E => some .trpc | 0x0F => some .trmask | 0x10 => some .trfalo | 0x11 => some .trfahi
  | 0x12 => some .ckptcfg | 0x13 => some .hscr0 | 0x14 => some .hscr1 | 0x15 => some .txlo | 0x16 => some .txhi
  | _ => none

/-- The register has a field of view U or Ur: an unprivileged `rdsr` reads it (R361). -/
def SysReg.readable : SysReg → Bool
  | .coreid | .modex | .modem | .cclo | .cchi | .mism | .pwrctl | .colstat | .tveclo | .tvechi | .txlo | .txhi => true
  | .thrcfg | .balcfg | .trcause | .trpc | .trmask | .trfalo | .trfahi | .ckptcfg | .hscr0 | .hscr1 => false

/-- The register has no field of view Ur or P: an unprivileged `wrsr` writes it (R361). -/
def SysReg.writable : SysReg → Bool
  | .modex | .modem | .pwrctl => true
  | .coreid | .cclo | .cchi | .mism | .thrcfg | .balcfg | .colstat | .tveclo | .tvechi | .trcause | .trpc | .trmask | .trfalo | .trfahi
  | .ckptcfg | .hscr0 | .hscr1 | .txlo | .txhi => false

/-- A write of the register is irrevocable (R362). -/
def SysReg.irrevocable : SysReg → Bool
  | .thrcfg | .balcfg | .colstat | .ckptcfg => true
  | .coreid | .modex | .modem | .cclo | .cchi | .mism | .pwrctl | .tveclo | .tvechi | .trcause | .trpc | .trmask | .trfalo | .trfahi
  | .hscr0 | .hscr1 | .txlo | .txhi => false

/-- The register is MODEX or MODEM, whose write needs no whole live set (R42). -/
def SysReg.isMode (x : SysReg) : Bool := decide (x = .modex ∨ x = .modem)

/-- The issuing wave is privileged: inside a handler (R257); the Trailhead processors always are. -/
def Ctx.priv (c : Ctx) : Bool := c.w.tp.isSome || c.w.st.inHandler

/-- COREID (R21); PCLUS reads as zero in the unprivileged view. -/
def State.coreid (s : State) (w : Wave) (priv : Bool) : Word :=
  let cl := clusterOf w.core
  BitVec.ofNat 32 ((if priv then ((s.cluster cl).phys.getD 0) * 2 ^ 19 else 0) + cl / 16 * 2 ^ 14 + cl % 16 * 2 ^ 10
    + colOf w.core % 2 * 2 ^ 9 + layerOf w.core * 2 ^ 7 + w.quad * 2 ^ 5 + w.slot)

/-- What `rdsr` reads. -/
def Ctx.sysRead (c : Ctx) (x : SysReg) : Word :=
  let st := c.w.st
  match x with
  | .coreid => c.s.coreid c.w c.priv
  | .modex => c.mx
  | .modem => c.mm
  | .cclo => c.core.cycles.extractLsb' 0 32
  | .cchi => c.core.cycles.extractLsb' 32 32
  | .mism => c.s.mism c.w.core
  | .pwrctl => st.pwrctl
  | .thrcfg => (c.s.cluster (clusterOf c.w.core)).thrcfg
  | .balcfg => (c.s.cluster (clusterOf c.w.core)).balcfg
  | .colstat => c.s.colstat c.w.core
  | .tveclo => st.tveclo
  | .tvechi => st.tvechi
  | .trcause => st.trcause
  | .trpc => st.trpc
  | .trmask => st.trmask
  | .trfalo => st.trfalo
  | .trfahi => st.trfahi
  | .ckptcfg => c.core.interval.zeroExtend 32
  | .hscr0 => st.hscr0
  | .hscr1 => st.hscr1
  | .txlo => st.txlo
  | .txhi => st.txhi

/-- Key of a register of the Trailhead space that firmware defines (R360). -/
abbrev tpKey (n : Nat) (i : BitVec 16) : Nat := 65536 * n + i.toNat

/-- RDSR (R360, R361). -/
def execRdsr (d : Operand) (i : BitVec 16) (s : State) : Host.Outcome State Fault Refusal :=
  issueWave s (fun c => do
    c.start (.rdsr d i) true [d]
    c.guardOk
    let x := sysReg i
    c.need (c.w.tp.isSome || x.isSome) .udi
    c.need (c.priv || (match x with
      | some y => y.readable
      | none => true)) .prv
    c.need (isS d) .opc
    c.noPGuard
    c.uwp
    if !c.kOn then pure c.w else do
      c.free (dstOf d).toList
      let v := match c.w.tp, x with
        | some n, _ => (Map.find? c.s.tpRegs (tpKey n i)).getD 0
        | none, some y => c.sysRead y
        | none, none => 0
      match d with
      | .s n => pure (c.w.putS n.val v)
      | .v _ | .a _ | .p _ | .k _ | .zero | .lane | .par1 | .par2 | .imm _ => pure c.w)

/-- The wave after a write of one of its own registers, reserved bits dropped; registers of other holders leave it. -/
def Ctx.sysWriteWave (c : Ctx) (x : SysReg) (v : Word) : Wave :=
  let w := c.w
  let put (f : WaveCore → WaveCore) : Wave := { w with st := f w.st }
  match x with
  | .modex => put (fun st => st.updSlices (st.gangOf c.sl) (fun _ y => { y with modex := v &&& 0x7FFF }))
  | .modem => put (fun st => st.updSlices (st.gangOf c.sl) (fun _ y => { y with modem := v &&& 0x3FF }))
  | .pwrctl => put (fun st => { st with pwrctl := v &&& 1 })
  | .tveclo => put (fun st => { st with tveclo := v })
  | .tvechi => put (fun st => { st with tvechi := v })
  | .trcause => put (fun st => { st with trcause := v &&& 0xFFFE00FF })
  | .trpc => put (fun st => { st with trpc := v })
  | .trmask => put (fun st => { st with trmask := v })
  | .trfalo => put (fun st => { st with trfalo := v })
  | .trfahi => put (fun st => { st with trfahi := v })
  | .hscr0 => put (fun st => { st with hscr0 := v })
  | .hscr1 => put (fun st => { st with hscr1 := v })
  | .coreid | .cclo | .cchi | .mism | .thrcfg | .balcfg | .colstat | .ckptcfg | .txlo | .txhi => w

/-- The machine after a write of a register of a core or cluster. -/
def State.sysWriteHeld (s : State) (core : Nat) (x : SysReg) (v : Word) : State :=
  match x with
  | .thrcfg => s.updCluster (clusterOf core) (fun k => k.putThr v)
  | .balcfg => s.updCluster (clusterOf core) (fun k => { k with balcfg := v &&& 0x1FF })
  | .colstat => s.updCore core (fun k => k.putColstat v)
  | .ckptcfg => s.updCore core (fun k => { k with interval := v.extractLsb' 0 8 })
  | .coreid | .modex | .modem | .cclo | .cchi | .mism | .pwrctl | .tveclo | .tvechi | .trcause | .trpc | .trmask | .trfalo | .trfahi
  | .hscr0 | .hscr1 | .txlo | .txhi => s

/-- WRSR (R360 to R362). -/
def execWrsr (d : Operand) (i : BitVec 16) (s : State) : Host.Outcome State Fault Refusal :=
  issueState s (fun c => do
    c.start (.wrsr d i) true [d]
    c.guardOk
    let x := sysReg i
    c.need (c.w.tp.isSome || x.isSome) .udi
    c.need (c.priv || (match x with
      | some y => y.writable
      | none => true)) .prv
    c.need (isS d) .opc
    c.noPGuard
    (match x with
      | some y => if y.isMode && c.w.tp.isNone then pure () else c.uwp
      | none => c.uwp)
    if !c.kOn then pure (c.put c.w) else do
      c.reads [(d, false)]
      let v := c.r.uni d
      match c.w.tp, x with
      | some n, _ => pure { c.put c.w with tpRegs := Map.insert c.s.tpRegs (tpKey n i) v }
      | none, some y =>
        let s1 := (c.put (c.sysWriteWave y v)).sysWriteHeld c.w.core y v
        pure (if y.irrevocable then s1.irrevocable c.u else s1)
      | none, none => pure (c.put c.w))

/-! ### Resolving a trap (R234 to R236, R190) -/

/-- The code with which a handler kills a run: that of the trap it was entered for (R189, R190). Log entry 28: DEDUCED. -/
def runCode (w : WaveCore) : Nat :=
  let c := (w.trap.map (fun (t : TrapSt) => t.cause)).getD 0
  if c = 0x20 then 1 else if c = 0x21 then 2 else 3

/-- The trapping wave continues, at TRPC or past it; the engine reads the arena's place again after RDO or RFF (R190). -/
def State.resumeTrap (s : State) (u : Nat) (w : Wave) (skip : Bool) : State :=
  let s1 := s.setWave u { w with st := w.st.resume skip }
  let s2 := if (s.core w.core).runWave u && decide (runCode w.st < 3) then s1.rereadArena w else s1
  if w.tp.isSome then s2 else s2.pumpRun w.core

/-- A resolution acts by TRCAUSE.ACT (R234). -/
def State.resolveTrap (s : State) (u : Nat) (w : Wave) : State :=
  let act := (w.st.trcause.extractLsb' 30 2).toNat
  if act = 0 then s.resumeTrap u w false
  else if act = 1 then s.resumeTrap u w true
  else if act = 3 ∧ (s.core w.core).runWave u then
    (s.setWave u { w with st := { w.st with trap := none } }).killRun w.core (runCode w.st)
  else s.killWave u

/-- A resumption waits until the engine can read the arena's place again (R10, R190, R254). -/
def State.resumeAway (s : State) (u : Nat) (w : Wave) : Bool :=
  !w.st.trcause.getLsbD 31 && (s.core w.core).runWave u && decide (runCode w.st < 3) && s.arenaAway w

/-- The whole handler gang issues. -/
def Ctx.wholeHandler (c : Ctx) : Bool := decide (c.w.st.gangOf c.sl = c.w.st.scopeSlices)

/-- ERET (R234, R315). -/
def execEret (s : State) : Host.Outcome State Fault Refusal :=
  issueState s (fun c => do
    c.start .eret true []
    c.need c.w.st.inHandler .prv
    c.need (c.wholeHandler && c.w.st.atEntryDepth) .mbf
    c.until (!c.s.resumeAway c.u c.w)
    pure (c.s.resolveTrap c.u c.w))

/-- HV (R328): the hypervisor's event ring is told, and the handler gang waits for its RESOLVE. -/
def execHv (i : BitVec 24) (s : State) : Host.Outcome State Fault Refusal :=
  issueState s (fun c => do
    c.start (.hv i) false []
    c.need c.w.st.inHandler .prv
    c.need c.wholeHandler .mbf
    let fa : DWord := i.zeroExtend 64 ||| (1#64 <<< 63)
    pure ((c.s.block c.u c.sl .hyper).postEvent 32 (parkRecord c.w c.w.st.trcause c.w.st.trpc fa)))

/-! ### The control store and the caches -/

/-- A word that `mcs.wr` refuses (R78). -/
def mcsRefused (x : Word) : Bool :=
  let op := (x.extractLsb' 24 8).toNat
  decide (1 ≤ op ∧ op ≤ 0x0D) || decide (0xF0 ≤ op ∧ op ≤ 0xF4)

/-- A position lies inside a macro. -/
def inMac (m : Nat) (x : Option MacPos) : Bool :=
  match x with
  | some y => decide (y.m = m)
  | none => false

/-- A wave of a core is inside a macro: one of its slices is, or its handler interrupted one that was (R78, R340). Log entry 53: DEDUCED. -/
def State.insideMac (s : State) (core m : Nat) : Bool :=
  (s.wavesOn core).any (fun e =>
    (List.range 8).any (fun i => inMac m (e.2.st.slice i).mac && !e.2.st.finished i)
    || (match e.2.st.trap with
        | some t => t.saved.any (fun y => inMac m y.mac && !e.2.st.finished y.sl)
        | none => false))

/-- An operation word written; a zero word is not listed. -/
def CoreSt.putMac (k : CoreSt) (key : Nat) (x : Word) : CoreSt := { k with macs := Map.set k.macs key (if x = 0 then none else some x) }

/-- MCS_WR (R78, R341). -/
def execMcsWr (a b : Operand) (s : State) : Host.Outcome State Fault Refusal :=
  issueState s (fun c => do
    c.start (.mcsWr a b) false [a, b]
    c.guardOk
    c.need c.priv .prv
    c.need (isUni a && isUni b) .opc
    c.noPGuard
    if !c.kOn then pure (c.put c.w) else do
      c.reads [(a, false), (b, false)]
      let x := c.r.uni a
      let v := c.r.uni b
      let m := (x.extractLsb' 5 6).toNat
      c.need (decide (x.extractLsb' 11 21 = 0) && !mcsRefused v && !c.s.insideMac c.w.core m) .mcs
      pure ((c.put c.w).updCore c.w.core (fun k => k.putMac (32 * m + (x.extractLsb' 0 5).toNat) v)))

/-- Every earlier store of the issuing threads has reached its L2 slice. -/
def Ctx.storesDone (c : Ctx) : Chk Unit := c.until (c.w.inflight.all (fun a => decide (a.threads &&& c.act = 0) || !a.writes || a.sent.isSome))

/-- IINV (R329). -/
def execIinv (s : State) : Host.Outcome State Fault Refusal :=
  issueState s (fun c => do
    c.start .iinv false []
    c.need c.priv .prv
    c.storesDone
    pure ((c.put c.w).updCore c.w.core (fun k => { k with icache := [] })))

/-- Entries of a stage removed from a range cache. -/
def dropStage (stage : Nat) (rc : List RcEnt) : List RcEnt := rc.filter (fun e => e.stage ≠ stage)

/-- The cores and clusters whose range caches SET names (R382). -/
def Ctx.invSet (c : Ctx) (set : Nat) : List Nat × List Nat :=
  if c.w.tp.isSome then (if set = 2 then (List.range 512, List.range 64) else ([], []))
  else if set = 0 then ([c.w.core], [])
  else if set = 1 then ([c.w.core], [clusterOf c.w.core])
  else
    let cls := match c.s.partOf (clusterOf c.w.core) with
      | some p => c.s.clustersOf p
      | none => [clusterOf c.w.core]
    (cls.flatMap coresOf, cls)

/-- No walk is in flight for the caches of some cores or clusters. -/
def State.noWalks (s : State) (cores clusters : List Nat) : Bool :=
  s.clusters.all (fun e => e.2.walks.all (fun k => !clusters.contains e.1 && !cores.any k.cores.contains))

/-- Entries of a stage removed from the range caches of some cores and clusters. -/
def State.dropEntries (s : State) (cores clusters : List Nat) (stage : Nat) : State :=
  { s with cores := s.cores.map (fun e => if cores.contains e.1 then (e.1, { e.2 with rc := dropStage stage e.2.rc }) else e)
           clusters := s.clusters.map (fun e => if clusters.contains e.1 then (e.1, { e.2 with rc := dropStage stage e.2.rc }) else e) }

/-- TLBINV (R382). -/
def execTlbinv (a : Operand) (s : State) : Host.Outcome State Fault Refusal :=
  issueState s (fun c => do
    c.start (.tlbinv a) true [a]
    c.guardOk
    c.need c.priv .prv
    c.need (isUni a) .opc
    c.noPGuard
    if !c.kOn then pure (c.put c.w) else do
      c.reads [(a, true)]
      let x := c.r.uni a
      c.need (decide (x.extractLsb' 3 29 = 0) && decide (x.extractLsb' 0 2 ≠ 3)) .udi
      c.need (!x.getLsbD 2 || c.w.tp.isSome) .prv
      c.storesDone
      let (cores, clusters) := c.invSet (x.extractLsb' 0 2).toNat
      c.until (c.s.noWalks cores clusters)
      pure ((c.put c.w).dropEntries cores clusters (if x.getLsbD 2 then 2 else 1)))

end Sys2Proof.Machine
end

