-- ==== Sys2Proof/Machine/Placing.lean ====
section
/-! DEFINITION. Placement of core groups: what fits a core (R176, R206), the choice of a core (R207), what placement does (R49, R107, R156,
R157, R213, R217, R258, R389), the round robin (R202) and co-resident launches (R208), and the completion of launches (R197). -/

namespace Sys2Proof.Machine

/-! ### Footprints -/

/-- What a core group needs (R196). -/
structure Foot where
  /-- S, KiB -/
  s : Nat
  /-- A, KiB -/
  a : Nat
  /-- C, units of 6 KiB -/
  c : Nat
  /-- W banks -/
  w : Nat
  /-- varying registers of a wave -/
  valloc : Nat
  /-- waves -/
  waves : Nat
deriving DecidableEq, Repr

/-- Footprint and buffer word of a LAUNCH packet. -/
def footOf (b : List Byte) : Foot :=
  let f := pkField b 28 4
  let w := pkField b 32 4
  { s := w / 2 ^ 23, a := w / 2 ^ 15 % 256, c := w / 2 ^ 7 % 256 / 6, w := w / 2 ^ 4 % 8, valloc := 8 * (f / 2 ^ 29 + 1),
    waves := f / 2 ^ 23 % 64 + 1 }

/-- POWER of a LAUNCH packet. -/
def powerOf (b : List Byte) : Nat := pkField b 28 4 / 2 ^ 21 % 4
/-- GROUPS. -/
abbrev groupsOf (b : List Byte) : Nat := pkField b 24 4
/-- COR. -/
def corOf (b : List Byte) : Bool := decide (pkField b 0 4 / 2 ^ 26 % 2 = 1)

/-- No field is above its limit, and CKB is a multiple of 6 (R200, code 10). -/
def footOk (b : List Byte) : Bool :=
  let w := pkField b 32 4
  decide (w / 2 ^ 23 ≤ 256 ∧ w / 2 ^ 15 % 256 ≤ 128 ∧ w / 2 ^ 7 % 256 ≤ 192 ∧ w / 2 ^ 7 % 256 % 6 = 0 ∧ w / 2 ^ 4 % 8 ≤ 4)

/-! ### Fitting (R206) -/

/-- How a core is used: pieces of S, A and C taken, W banks, wave slots and registers, whether it holds a core group, and an exclusive one. -/
structure Occ where
  /-- S, KiB -/
  s : List (Nat × Nat)
  /-- A, KiB -/
  a : List (Nat × Nat)
  /-- C, units -/
  c : List (Nat × Nat)
  /-- banks -/
  banks : List Nat
  /-- quads -/
  quads : QuadUse
  /-- an exclusive core group is there (R176) -/
  excl : Bool
  /-- a core group is there -/
  held : Bool
deriving DecidableEq, Repr

/-- An empty core. -/
def Occ.empty : Occ := { s := [], a := [], c := [], banks := [], quads := [], excl := false, held := false }

/-- Where a core group's allocations and waves go. -/
structure Plot where
  /-- S offset, KiB -/
  s : Nat
  /-- A offset, KiB -/
  a : Nat
  /-- first C unit -/
  c : Nat
  /-- banks -/
  banks : List Nat
  /-- quad and slot of each wave -/
  waves : List (Nat × Nat)
deriving DecidableEq, Repr

/-- The lowest offset with n free units out of a total. -/
def firstFit (taken : List (Nat × Nat)) (total n : Nat) : Option Nat :=
  (List.range (total + 1)).find? (fun o => decide (o + n ≤ total) && taken.all (fun t => decide (o + n ≤ t.1 ∨ t.1 + t.2 ≤ o ∨ n = 0 ∨ t.2 = 0)))

/-- Quads and slots of n waves, in order. -/
def dispatch (valloc : Nat) : Nat → QuadUse → Option (List (Nat × Nat))
  | 0, _ => some []
  | n + 1, u => match u.room valloc with
    | none => none
    | some (q, k) => (dispatch valloc n (u ++ [(q, k, valloc)])).map (fun l => (q, k) :: l)

/-- A core group fits a core so used (R206): its S, its A and its C bytes are each one run of free bytes, as the first-fit allocation at one offset
needs (R107). Log entry 69: DESIGN CHOICE. -/
def Occ.fit (o : Occ) (f : Foot) : Option Plot :=
  if o.excl || (decide (f.c = 32) && o.held) then none
  else match firstFit o.s 256 f.s, firstFit o.a 128 f.a, firstFit o.c 32 f.c, dispatch f.valloc f.waves o.quads with
    | some s, some a, some c, some ws =>
      let free := (List.range 4).filter (fun b => !o.banks.contains b)
      if free.length < f.w then none else some { s := s, a := a, c := c, banks := free.take f.w, waves := ws }
    | _, _, _, _ => none

/-- The core with a core group added. -/
def Occ.add (o : Occ) (f : Foot) (p : Plot) : Occ :=
  { s := o.s ++ [(p.s, f.s)], a := o.a ++ [(p.a, f.a)], c := o.c ++ [(p.c, f.c)], banks := o.banks ++ p.banks,
    quads := o.quads ++ p.waves.map (fun w => (w.1, w.2, f.valloc)), excl := o.excl || decide (f.c = 32), held := true }

/-- The core groups that run on a core. -/
def State.groupsOn (s : State) (core : Nat) : List (Nat × Group) :=
  let ws := s.wavesOn core
  s.groups.filter (fun e => ws.any (fun w => decide (w.2.group = e.1)))

/-- How a core is used. -/
def State.occOf (s : State) (core : Nat) : Occ :=
  let gs := (s.groupsOn core).map (·.2)
  { s := gs.map (fun g => (g.sOff / 1024, g.sLen / 1024)), a := gs.map (fun g => (g.aOff / 1024, g.aLen / 1024)),
    c := gs.map (fun g => (g.cUnit, g.cLen)), banks := gs.flatMap (·.banks), quads := s.quadUse core,
    excl := gs.any (fun g => decide (g.cLen = 32)), held := !gs.isEmpty }

/-- Every core group on a core runs in a launch's address space. -/
def State.sameSpace (s : State) (core : Nat) (l : Launch) : Bool :=
  (s.groupsOn core).all (fun e => match s.launch? e.2.launch with
    | some k => decide (k.part = l.part ∧ k.space = l.space)
    | none => false)

/-- A core holds a core group of a launch already: a launch has one on each core (R22). -/
def State.hasOwn (s : State) (core ln : Nat) : Bool := (s.groupsOn core).any (fun e => decide (e.2.launch = ln))

/-- Where a core group of a launch goes on a core, if it fits. -/
def State.fitOn (s : State) (core ln : Nat) (l : Launch) : Option Plot :=
  if s.usable l.part core && s.sameSpace core l && !s.hasOwn core ln then (s.occOf core).fit (footOf l.bytes) else none

/-! ### The choice (R207) -/

/-- Every core group on a core is of a launch of the given POWER. -/
def State.powerAll (s : State) (core p : Nat) : Bool :=
  (s.groupsOn core).all (fun e => match s.launch? e.2.launch with
    | some k => decide (powerOf k.bytes = p)
    | none => false)

/-- Preference of a core: 1 to 3. -/
def State.preference (s : State) (core p : Nat) : Nat :=
  let cs := (colCores (colOf core)).filter (fun c => s.occupied c)
  if cs.isEmpty then 2 else if cs.all (fun c => s.powerAll c p) then 1 else 3

/-- The core on which the next core group of a launch is placed, and where. -/
def State.chooseCore (s : State) (ln : Nat) (l : Launch) : Option (Nat × Plot) :=
  let ok := ((s.clustersOf l.part).flatMap coresOf).filterMap (fun c => (s.fitOn c ln l).map (fun p => (c, p)))
  let pref := ok.map (fun e => (s.preference e.1 (powerOf l.bytes), e))
  match pref.find? (fun e => decide (e.1 = 1)) with
  | some e => some e.2
  | none => match pref.find? (fun e => decide (e.1 = 2)) with
    | some e => some e.2
    | none => (pref.head?).map (·.2)

/-! ### What placement does -/

/-- Bytes of a location range zeroed, poison and events and all. -/
def State.wipe (s : State) (l n : Nat) : State :=
  if n = 0 then s
  else { s.forget l n with mem := s.mem.zeroRange l n, poison := s.poison.filter (fun k => decide (32 * k + 32 ≤ l ∨ l + n ≤ 32 * k)) }

/-- A core group's allocations zeroed, its C rows untagged and its C handles empty (R156, R157, R258). -/
def State.zeroGroup (s : State) (g : Group) : State :=
  let s1 := ((s.wipe (locS g.core + g.sOff) g.sLen).wipe (locA g.core + g.aOff) g.aLen).wipe (locC g.core + 6144 * g.cUnit) (6144 * g.cLen)
  let s2 := g.banks.foldl (fun s b => (s.wipe (locW g.core + 65536 * b) 65536).wipe (locW g.core + 0x40000 + 2048 * b) 2048) s1
  let mine (h : Nat) : Bool := decide (g.cUnit ≤ h ∧ h + 8 ≤ g.cUnit + g.cLen)
  s2.updCore g.core (fun k =>
    { k with tags := k.tags.filter (fun e => !decide (4 * g.cUnit ≤ e.1 ∧ e.1 < 4 * (g.cUnit + g.cLen))),
             unsync := k.unsync.filter (fun x => !decide (4 * g.cUnit ≤ x.1 ∧ x.1 < 4 * (g.cUnit + g.cLen))),
             ce := k.ce.filter (fun e => !mine e.1), cq := k.cq.filter (fun h => !mine h) })

/-- What a core's tables lose when a core group of a launch comes: all of them on a core that holds no other; the control store and the
instruction cache when the address space changes (R258, R329). The image of such a core holds no bank, and the engine's queue is empty (R155). -/
def State.freshCore (s : State) (core : Nat) (l : Launch) : State :=
  let alone := !s.occupied core
  let sp := some (l.part, l.space)
  s.updCore core (fun k =>
    let k1 := if alone then { k with handles := [], bars := [], baton := none, batonQ := [], image := none, imgTaint := [], eng := [], unsync := [] } else k
    let k2 := if k.space = sp then k1 else { k1 with macs := [], icache := [] }
    { k2 with space := sp })

/-- The macros that a launch's table holds. -/
def Launch.macNumbers (l : Launch) : List Nat := (List.range 64).filter (fun m => (Map.find? l.macs (32 * m + 31)).isSome)

/-- A macro of a launch written into a core's store, all of its 32 words (R389). -/
def CoreSt.writeMacro (k : CoreSt) (l : Launch) (m : Nat) : CoreSt :=
  (List.range 32).foldl (fun k i => k.putMac (32 * m + i) ((Map.find? l.macs (32 * m + i)).getD 0)) k

/-- Macros of a core group's launch that no wave is inside are written. -/
def State.writeMacros (s : State) (gn : Nat) : State :=
  match s.group? gn with
  | none => s
  | some g => match s.launch? g.launch with
    | none => s
    | some l =>
      let now := g.macWait.filter (fun m => !s.insideMac g.core m)
      if now.isEmpty then s
      else
        let s1 := s.updCore g.core (fun k => now.foldl (fun k m => k.writeMacro l m) k)
        { s1 with groups := Map.insert s1.groups gn { g with macWait := g.macWait.filter (fun m => !now.contains m) } }

/-- The waves of a core group, in order; what happens before Trailhead's placement happens before all that they do (R213). -/
def State.addWaves (s : State) (l : Launch) (g : Group) (gn valloc : Nat) (ws : List (Nat × Nat)) : State :=
  ws.zipIdx.foldl (fun s e => s.addWave (Wave.init ((launchCore g l e.2).learn s.thSeen (BitVec.allOnes 32) 0) g.core e.1.1 e.1.2 gn none valloc)) s

/-- The next core group of a launch is placed on a core. -/
def State.placeOn (s : State) (ln : Nat) (l : Launch) (core : Nat) (p : Plot) : State :=
  let f := footOf l.bytes
  let g : Group := { core := core, launch := ln, index := l.placed, sOff := 1024 * p.s, sLen := 1024 * f.s, aOff := 1024 * p.a,
                     aLen := 1024 * f.a, cUnit := p.c, cLen := f.c, banks := p.banks, macWait := l.macNumbers }
  let gn := s.nextGroup
  let s1 := (((s.freshCore core l).zeroGroup g).acquire core 4).updCol (colOf core) ColSt.wake
  let s2 : State := { s1 with
    groups := Map.insert s1.groups gn g
    nextGroup := gn + 1
    launches := Map.insert s1.launches ln { l with placed := l.placed + 1, running := l.running + 1 }
    journal := .place gn core :: s1.journal }
  ((s2.addWaves l g gn f.valloc p.waves).armCore core).writeMacros gn

/-- One core group of a launch placed, if it fits anywhere. -/
def State.placeOne (s : State) (ln : Nat) : Option State :=
  match s.launch? ln with
  | none => none
  | some l => if !l.waits then none else (s.chooseCore ln l).map (fun e => s.placeOn ln l e.1 e.2)

/-- n core groups of a launch placed, if all fit. -/
def State.placeMany (ln : Nat) : Nat → State → Option State
  | 0, s => some s
  | n + 1, s => (s.placeOne ln).bind (fun t => State.placeMany ln n t)

/-- After a decision: the columns that received core groups get their mirrors (R217). -/
def State.mirrorNew (s : State) (first : Nat) : State :=
  (((s.groups.filter (fun e => decide (first ≤ e.1))).map (fun e => colOf e.2.core)).eraseDups).foldl State.mirrorCol s

/-- A placement decision for a launch: one core group, or all those of a co-resident launch. -/
def State.tryPlace (s : State) (ln : Nat) (l : Launch) : Option State :=
  (if corOf l.bytes then State.placeMany ln (groupsOf l.bytes - l.placed) s else s.placeOne ln).map (fun t => t.mirrorNew s.nextGroup)

/-! ### The round robin (R202, R208) -/

/-- The work queue whose packet made a launch, or whose GLOAD its graph. -/
def State.queueOf (s : State) (ln : Nat) (l : Launch) : Nat :=
  match List.find? (fun (e : Nat × Queue) => e.2.jobs.any (fun j => decide (j.launch = some ln))) s.workQs with
  | some e => e.1
  | none => match l.origin with
    | .queue q _ => q
    | .node part gid _ => ((Map.find? s.graphs (graphKey part gid)).map (·.q)).getD 0

/-- Effective priority of a queue. -/
def State.effOf (s : State) (q : Nat) : Nat := ((Map.find? s.workQs q).map (·.eff)).getD 0

/-- Turns of its partition that a launch has waited through: those that have begun, but for one still going on (R208). -/
def State.waited (s : State) (l : Launch) : Nat := if s.turn = l.part ∧ s.decisions ≠ 0 then l.turns - 1 else l.turns

/-- A launch that a partition's placement may not pass: one that has waited through 16 turns. -/
def State.blocks (s : State) (l : Launch) : Bool := l.waits && corOf l.bytes && (l.reserved || decide (s.waited l ≥ 16))

/-- The launches of a partition that can advance: effective priority, queue, launch and the machine after the decision. -/
def State.advanceable (s : State) (p : Nat) : List (Nat × Nat × Nat × State) :=
  let ls := s.launches.filter (fun e => decide (e.2.part = p) && e.2.waits)
  let ls := if ls.any (fun e => s.blocks e.2) then ls.filter (fun e => s.blocks e.2) else ls
  ls.filterMap (fun e =>
    let q := s.queueOf e.1 e.2
    (s.tryPlace e.1 e.2).map (fun t => (s.effOf q, q, e.1, t)))

/-- The best of candidates: highest priority, then lowest queue, then oldest launch. -/
def bestOf (l : List (Nat × Nat × Nat × State)) : Option (Nat × Nat × Nat × State) :=
  l.foldl (fun b e => match b with
    | none => some e
    | some x => if e.1 > x.1 ∨ (e.1 = x.1 ∧ (e.2.1 < x.2.1 ∨ (e.2.1 = x.2.1 ∧ e.2.2.1 < x.2.2.1))) then some e else some x) none

/-- A queue whose advanceable head a decision passed over. -/
def Queue.passOver (x : Queue) : Queue :=
  if x.passed + 1 ≥ 64 then { x with passed := 0, eff := min (x.eff + 1) 3 } else { x with passed := x.passed + 1 }

/-- A queue whose head has started. -/
def Queue.started (x : Queue) : Queue := { x with eff := x.prio, passed := 0 }

/-- A work queue changed. -/
def State.updWq (s : State) (q : Nat) (f : Queue → Queue) : State :=
  match Map.find? s.workQs q with
  | some x => { s with workQs := Map.insert s.workQs q (f x) }
  | none => s

/-- One decision of a partition, if it has any. -/
def State.decide_ (s : State) (p : Nat) : Option State :=
  let cs := s.advanceable p
  (bestOf cs).map (fun b =>
    let others := ((cs.map (fun e => e.2.1)).filter (fun q => q ≠ b.2.1)).eraseDups
    let s1 := others.foldl (fun s q => s.updWq q Queue.passOver) b.2.2.2
    if ((s1.launch? b.2.2.1).map (fun l => l.waits)).getD false then s1 else s1.updWq b.2.1 Queue.started)

/-- A turn of a partition begins: it counts for each co-resident launch that waits. -/
def State.beginTurn (s : State) (p : Nat) : State :=
  { s with decisions := max (cfgWt (s.live.cfg p)) 1,
           launches := s.launches.map (fun e => if e.2.part = p ∧ e.2.waits ∧ corOf e.2.bytes then (e.1, { e.2 with turns := e.2.turns + 1 }) else e) }

/-- The turn passes to the next partition. -/
def State.endTurn (s : State) : State := { s with turn := (s.turn + 1) % 32, decisions := 0 }

/-- Visits from the partition in turn on, until one makes a decision. -/
def State.rounds : Nat → State → State
  | 0, s => s
  | n + 1, s =>
    let s1 := if s.decisions = 0 then s.beginTurn s.turn else s
    match s1.decide_ s1.turn with
    | some t => if s1.decisions ≤ 1 then t.endTurn else { t with decisions := s1.decisions - 1 }
    | none => State.rounds n s1.endTurn

/-- PLACEMENT_DECISION (R202, R206, R207). With no launch that waits, the partition in turn loses the rest of its turn. -/
def execPlacementDecision (s : State) : Host.Outcome State Fault Refusal :=
  .next (if s.takeover then s
    else if s.launches.all (fun e => !e.2.waits) then (if s.decisions = 0 then s else s.endTurn)
    else State.rounds 33 s)

/-- CORESIDENT_RESERVATION (R208): after 16 turns a waiting co-resident launch blocks the others of its partition. Log entry 47: DEDUCED. -/
def execCoresidentReservation (launch : Nat) (s : State) : Host.Outcome State Fault Refusal :=
  match s.launch? launch with
  | none => .next s
  | some l =>
    if l.waits && corOf l.bytes && decide (s.waited l ≥ 16) then
      .next { s with launches := Map.insert s.launches launch { l with reserved := true } }
    else .next s

/-! ### Completion -/

/-- A launch completes (R197), which the journal records first (R210): its completion store, and its queue or graph learns of it. -/
def State.completeLaunch (s : State) (ln : Nat) (l : Launch) : State :=
  let s0 : State := { s with journal := .launchEnd ln :: s.journal }
  let s1 := match l.cloc with
    | some loc => s0.complete loc (BitVec.ofNat 64 (pkField l.bytes 48 8))
    | none => s0
  let s2 : State := { s1 with
    launches := s1.launches.erase ln
    workQs := s1.workQs.map (fun e => (e.1, { e.2 with jobs := e.2.jobs.filter (fun j => j.launch ≠ some ln) })) }
  match l.origin with
  | .queue _ _ => s2
  | .node part gid n => s2.nodeDone part gid n

/-- LAUNCH_COMPLETE (R197): every core group has been placed, or never will be, and the last wave has ended. -/
def execLaunchComplete (launch : Nat) (s : State) : Host.Outcome State Fault Refusal :=
  match s.launch? launch with
  | none => .next s
  | some l => if !l.waits && decide (l.running = 0) then .next (s.completeLaunch launch l) else .next s

end Sys2Proof.Machine
end

