-- ==== Sys2Proof/Machine/Work.lean ====
section
/-! DEFINITION. Trailhead's work queues: kicks, packets and their checks (R194 to R201, R389), graphs (R203, R205), and the take-over (R210,
R211). -/

namespace Sys2Proof.Machine

/-! ### Queues -/

/-- A work queue stored. -/
def State.setWq (s : State) (q : Nat) (x : Queue) : State := { s with workQs := Map.insert s.workQs q x }

/-- A record of the journal. -/
def State.journalise (s : State) (r : JRec) : State := { s with journal := r :: s.journal }

/-- A forwarded packet that failed is quarantined as the packet of its own queue (R200, R201). -/
def State.quarantineJoined (s : State) (x : Queue) (code : Nat) : State :=
  match x.joined with
  | (src, idx, _) :: _ => s.updWq src (fun y => if code = 5 ∨ code = 6 then { y with quarantine := y.quarantine ++ [idx] } else y)
  | [] => s

/-- A request of Trailhead's at an address found a peer that does not acknowledge it: the hypervisor's ring is told (R259, R263). -/
def State.tellAway (s : State) (va : Nat) : State := (s.note (.unreachable va)).postEvent 32 (awayRecord va)

/-- An error record written, where it can be (R263). -/
def State.storeRecord (s : State) (l : Nat) (bs : List Byte) : State := if s.deafAt l then s.tellAway l else s.storeAt 64 l bs

/-- The address of a failed check lies with a peer that does not acknowledge. -/
def State.awayCode (s : State) (x : Queue) (e : Nat × Nat) : Bool :=
  decide (e.1 = 5) && (match s.thSpans x.owner x.space needRead e.2 1 with
    | .ok l => l.any (fun p => s.deafAt p.1)
    | .error _ => false)

/-- A queue stops on a failed check (R149, R200): its own packet, or a forwarded one. Code 0 stands for none: Trailhead is left blocked, and so it is
while the ports do not carry the error record (R254). -/
def State.stopWq (s : State) (q : Nat) (x : Queue) (joined : Bool) (e : Nat × Nat) : State :=
  if e.1 = 0 ∨ s.spansAway [(x.err, 32)] then s else
  let s := if s.awayCode x e then s.tellAway e.2 else s
  let f := x.failed e.1
  let y := { f with badJoined := joined, quarantine := if joined then x.quarantine else f.quarantine }
  let s1 := ((s.journalise (.queue 1 q y.ridx y.st)).storeRecord x.err (errRecord e.1 (if e.1 ≤ 2 then 2 else 1) x.ridx x.seen e.2)).setWq q y
  if joined then s1.quarantineJoined x e.1 else s1

/-- Trailhead reads a queue's header (R195): the write index is checked (R149) and kept. -/
def State.readHeader (s : State) (q : Nat) (x : Queue) : State :=
  let w := s.widx x
  let y := { x with seen := w }
  let code := s.headerCode x
  if x.st ≠ .error ∧ code ≠ 0 then s.stopWq q y false (code, 0) else s.setWq q y

/-- Trailhead cannot read a queue's header now, or not write the error record that its write index asks for (R254). -/
def State.headerAway (s : State) (x : Queue) : Bool :=
  !s.reach x.hdr || (decide (x.st ≠ .error) && decide (s.headerCode x ≠ 0) && s.spansAway [(x.err, 32)])

/-- WORK_QUEUE_READ (R195): the bit is cleared, and only then is the header read; a header with a peer waits for the ports (R254). -/
def execWorkQueueRead (q : Nat) (s : State) : Host.Outcome State Fault Refusal :=
  if s.takeover || !s.kicks.contains q then .next s
  else
    let s1 := { s with kicks := s.kicks.filter (· ≠ q) }
    match Map.find? s1.workQs q with
    | none => .next s1
    | some x => if s.headerAway x then .next s else .next (s1.readHeader q x)

/-- The next packet of a queue's stream: a forwarded one that has joined it, else the one at RIDX when it is ready (R143, R201). Log
entry 46: DEDUCED. -/
def State.nextPacket (s : State) (x : Queue) : Option (Bool × List Byte) :=
  if x.st ≠ .run then none
  else match x.joined with
    | (_, _, b) :: _ => some (true, b)
    | [] =>
      let d := (x.seen - x.ridx).toNat
      if 1 ≤ d ∧ d ≤ x.size ∧ s.reach x.hdr ∧ s.reach (x.slot x.ridx) then
        let b := s.mem.bytes (x.slot x.ridx) 64
        if leNat (b.take 4) / 2 ^ 31 = 1 then some (false, b) else none
      else none

/-- KIND of a work packet. -/
abbrev workKind (b : List Byte) : Nat := pkField b 0 4 / 2 ^ 28 % 8
/-- ORD. -/
abbrev workOrd (b : List Byte) : Bool := decide (pkField b 0 4 / 2 ^ 27 % 2 = 1)

/-- The next packet may start (R199): no launch of the queue still waits for placement, and under ORD nothing is left uncompleted. -/
def State.mayStart (s : State) (x : Queue) (b : List Byte) : Bool :=
  !x.jobs.any (fun j => match j.launch with
    | some n => ((s.launch? n).map (fun l => l.waits)).getD false
    | none => false)
  && (!workOrd b || x.jobs.isEmpty)

/-- The packet leaves the stream: its slot is cleared and RIDX moves on, or the forwarded one is dropped (R143, R210). What the post released at
`.fab` happens before what Trailhead does (R195). -/
def State.takeWq (s : State) (q : Nat) (x : Queue) (joined : Bool) : State :=
  if joined then s.setWq q { x with joined := x.joined.drop 1 }
  else
    let y := { x with ridx := x.ridx + 1 }
    let evs := evsOf (s.syncsAt { wave := none, cores := [] } 4 (x.slot x.ridx) 64)
    (((s.tellTrailhead evs).journalise (.queue 1 q y.ridx y.st)).popSlot 64 x).setWq q y

/-- Where a packet came from: the queue in which it was posted, and its index there. -/
def Queue.origin (x : Queue) (q : Nat) (joined : Bool) : Origin :=
  if joined then (match x.joined with
    | (src, idx, _) :: _ => .queue src idx
    | [] => .queue q x.ridx)
  else .queue q x.ridx

/-- A job that stands for a packet started and not completed. -/
def workJob (idx : Word) (b : List Byte) (loc : Nat) (launch : Option Nat) : Job :=
  { idx := idx, bytes := b, fill := none, node := none, acted := false, loc := loc, launch := launch, evs := [] }

/-- A job added. -/
def State.addJob (s : State) (q : Nat) (j : Job) : State := s.updWq q (fun x => { x with jobs := x.jobs ++ [j] })

/-- A queue that takes packets of its own: a registered work queue that is no forwarding queue. -/
def State.workQ? (s : State) (q : Nat) : Option Queue :=
  match Map.find? s.workQs q with
  | some x => if x.fwd.isNone then some x else none
  | none => none

/-- Trailhead starts the next packet of a queue when it is of a kind. -/
def State.startKind (s : State) (q kind : Nat) (act : Queue → Bool → List Byte → State) : State :=
  if s.takeover then s
  else match s.workQ? q with
    | none => s
    | some x => match s.nextPacket x with
      | none => s
      | some (joined, b) => if workKind b = kind ∧ s.mayStart x b then act x joined b else s

/-! ### Checks (R196, R200) -/

/-- Reserved bytes of a field are zero. -/
abbrev zeroField (b : List Byte) (off n : Nat) : Bool := decide (pkField b off n = 0)

/-- Code 3: a reserved KIND or a reserved field that is not zero. -/
def workMalformed (b : List Byte) : Bool :=
  let h := pkField b 0 4
  let k := workKind b
  !(decide (h % 2 ^ 26 = 0) && decide (k ≤ 3) && (decide (k = 1) || decide (h / 2 ^ 26 % 2 = 0)) && zeroField b 4 4 && zeroField b 36 4
    && (if k = 0 then zeroField b 8 8 && zeroField b 16 8 && zeroField b 24 8 && zeroField b 32 8 && zeroField b 40 8 && zeroField b 48 8
          && zeroField b 56 8
        else if k = 1 then decide (pkField b 28 4 % 2 ^ 21 = 0) && decide (pkField b 32 4 % 16 = 0)
        else if k = 2 then zeroField b 8 8 && zeroField b 16 8 && zeroField b 24 8 && zeroField b 32 4 && zeroField b 56 8
        else zeroField b 16 8 && zeroField b 26 2 && zeroField b 28 8 && zeroField b 40 8 && zeroField b 48 8 && zeroField b 56 8))

/-- A failed check: code and address. -/
abbrev WorkErr := Nat × Nat

/-- n bytes at an address translate with a permission, or the code. -/
def State.checkAddr (s : State) (part space : Nat) (need : BitVec 4) (va n : Nat) : Except WorkErr (List (Nat × Nat)) :=
  match s.thSpans part space need va n with
  | .ok l => .ok l
  | .error (a, e) => .error (xCode e, a)

/-- n bytes as Trailhead reads them, or the code: it waits for a peer that the ports do not reach (R254), and one that does not acknowledge counts
as outside the owner's ranges (R263; log entry 62, DESIGN CHOICE). -/
def State.readAddr (s : State) (part space va n : Nat) : Except WorkErr (List Byte) :=
  match s.checkAddr part space needRead va n with
  | .ok l => if s.spansAway l then .error (0, va) else if l.any (fun p => s.deafAt p.1) then .error (5, va) else .ok (l.flatMap (fun p => s.mem.bytes p.1 p.2))
  | .error e => .error e

/-- A check. -/
def workNeed (ok : Bool) (code addr : Nat) : Except WorkErr Unit := if ok then .ok () else .error (code, addr)

/-- The 32 words of a macro. -/
def macroWords (bs : List Byte) : List Word := (List.range 32).map (fun i => BitVec.ofNat 32 (pkField bs (4 * i) 4))

/-- The macro table at an address (R389): every word of every macro present. -/
def State.readMacros (s : State) (part space mtab : Nat) : Except WorkErr (Map Word) :=
  if mtab = 0 then .ok []
  else match s.readAddr part space mtab 8 with
    | .error e => .error e
    | .ok hd =>
      let mask := leNat hd
      let present := (List.range 64).filter (fun m => decide (mask / 2 ^ m % 2 = 1))
      match s.readAddr part space (mtab + 8) (128 * present.length) with
      | .error e => .error e
      | .ok bs =>
        let ws := present.zipIdx.flatMap (fun e => (macroWords (bs.drop (128 * e.2))).zipIdx.map (fun w => (32 * e.1 + w.2, w.1)))
        if ws.any (fun e => mcsRefused e.2) then .error (3, 0) else .ok ws

/-- A core of a partition that can be given core groups when it is empty: one in service whose column is not dark. -/
def State.serves (s : State) (part core : Nat) : Bool :=
  let cl := s.cluster (clusterOf core)
  decide (s.partOf (clusterOf core) = some part) && !cl.retired && cl.phys.isSome && decide ((s.col (colOf core)).power ≠ .retired)

/-- How many core groups of a launch its partition's cores hold when they are empty: one each (R22, R200). -/
def State.capacity (s : State) (part : Nat) : Nat := (((s.clustersOf part).flatMap coresOf).filter (s.serves part)).length

/-- A launch from a packet or node whose checks pass (R196, R197, R200), in the order of the codes; the macro table's words, and with
them code 3, come once the table can be read. The address of code 7 is the misaligned one. Log entry 29: DESIGN CHOICE. -/
def State.launchOf (s : State) (part space : Nat) (tvec : DWord) (b : List Byte) (origin : Origin) : Except WorkErr Launch := do
  let text := pkField b 8 8
  let param := pkField b 16 8
  let caddr := pkField b 40 8
  let mtab := pkField b 56 8
  let _ ← s.checkAddr part space needExec text 4
  let params ← s.readAddr part space param 32
  let _ ← if mtab = 0 then .ok [] else s.checkAddr part space needRead mtab 8
  let cl ← if caddr = 0 then .ok [] else s.checkAddr part space needWrite caddr 8
  workNeed (decide (text % 256 = 0)) 7 text
  workNeed (decide (param % 64 = 0)) 7 param
  workNeed (decide (mtab % 8 = 0)) 7 mtab
  workNeed (decide (caddr % 8 = 0)) 7 caddr
  let macs ← s.readMacros part space mtab
  let n := groupsOf b
  let f := footOf b
  workNeed (footOk b && decide (n ≤ 2 ^ 20) && (Occ.empty.fit f).isSome) 10 0
  workNeed (!corOf b || decide (n ≤ s.capacity part)) 11 0
  pure { bytes := b, part := part, space := space, tvec := tvec, params := (macroWords params).take 8, macs := macs,
         cloc := (cl.head?).map (·.1), origin := origin, placed := 0, running := 0, killed := false, turns := 0, reserved := false }

/-- A launch added; one of no core group completes at once (R197). -/
def State.addLaunch (s : State) (l : Launch) : State :=
  let n := s.nextLaunch
  let s1 := { s with launches := Map.insert s.launches n l, nextLaunch := n + 1, journal := .launch n :: s.journal }
  if groupsOf l.bytes = 0 then s1.completeLaunch n l else s1

/-! ### The packets -/

/-- LAUNCH (R197). -/
def execLaunch (q : Nat) (s : State) : Host.Outcome State Fault Refusal :=
  .next (s.startKind q 1 (fun x joined b =>
    if workMalformed b then s.stopWq q x joined (3, 0)
    else match s.launchOf x.owner x.space x.tvec b (x.origin q joined) with
      | .error e => s.stopWq q x joined e
      | .ok l =>
        let s1 := s.takeWq q x joined
        if groupsOf b = 0 then s1.addLaunch l else (s1.addJob q (workJob x.ridx b 0 (some s1.nextLaunch))).addLaunch l))

/-- A SIGNAL that was taken stores its value, as a release at `.fab`. -/
def State.workStore (s : State) (b : List Byte) (loc : Nat) : State := s.complete loc (BitVec.ofNat 64 (pkField b 48 8))

/-- WORK_SIGNAL (R197): a SIGNAL that stands first among the packets not completed acts; else the next packet, when it is a SIGNAL, is
taken. -/
def execWorkSignal (q : Nat) (s : State) : Host.Outcome State Fault Refusal :=
  let take (s : State) : State := s.startKind q 2 (fun x joined b =>
    if workMalformed b then s.stopWq q x joined (3, 0)
    else match s.checkAddr x.owner x.space needWrite (pkField b 40 8) 8 with
      | .error e => s.stopWq q x joined e
      | .ok l =>
        if pkField b 40 8 % 8 ≠ 0 then s.stopWq q x joined (7, pkField b 40 8)
        else
          let loc := (l.headD (0, 0)).1
          let s1 := s.takeWq q x joined
          if x.jobs.isEmpty then s1.workStore b loc else s1.addJob q (workJob x.ridx b loc none))
  match s.workQ? q with
  | none => .next s
  | some x => match x.jobs with
    | j :: r =>
      if j.launch.isNone then .next ((s.setWq q { x with jobs := r }).workStore j.bytes j.loc) else .next (take s)
    | [] => .next (take s)

/-- WORK_VOID (R197). A reserved KIND fails here too (R149). -/
def execWorkVoid (q : Nat) (s : State) : Host.Outcome State Fault Refusal :=
  let bad (k : Nat) (s : State) : State := s.startKind q k (fun x joined _ => s.stopWq q x joined (3, 0))
  .next ([4, 5, 6, 7].foldl (fun s k => bad k s)
    (s.startKind q 0 (fun x joined b => if workMalformed b then s.stopWq q x joined (3, 0) else s.takeWq q x joined)))

/-- FORWARDING_QUEUE_PACKET (R201): a packet that the filter table permits joins the stream of the destination; where that is no registered work
queue with a stream of its own, nothing more comes of it (log entry 69, DESIGN CHOICE). -/
def execForwardingQueuePacket (q : Nat) (s : State) : Host.Outcome State Fault Refusal :=
  if s.takeover then .next s
  else match Map.find? s.workQs q with
    | none => .next s
    | some x => match x.fwd, s.nextPacket x with
      | some d, some (_, b) =>
        if !s.filterOk x.owner false d (workKind b) then .next (s.stopWq q x false (12, 0))
        else .next ((s.takeWq q x false).updWq d (fun y => { y with joined := y.joined ++ [(q, x.ridx, b)] }))
      | _, _ => .next s

/-! ### Graphs (R203, R205) -/

/-- Node count of a graph image. -/
def nodesOf (img : List Byte) : Nat := pkField img 0 2
/-- Edge count. -/
def edgeCount (img : List Byte) : Nat := pkField img 2 2
/-- The 64 bytes of a node. -/
def nodeBytes (img : List Byte) (n : Nat) : List Byte := (img.drop (64 + 64 * n)).take 64
/-- The edges: source and destination. -/
def edgesOf (img : List Byte) : List (Nat × Nat) :=
  let base := 64 + 64 * nodesOf img
  (List.range (edgeCount img)).map (fun i => (pkField img (base + 4 * i) 2, pkField img (base + 4 * i + 2) 2))
/-- Offset of the parameter block. -/
def paramOff (img : List Byte) : Nat := 64 + 64 * nodesOf img + 4 * edgeCount img
/-- Bytes of an image, from its first 64. -/
def imageSize (hd : List Byte) : Nat := paramOff hd + pkField hd 4 4

/-- The first 64 bytes keep the limits of R203. -/
def headOk (hd : List Byte) : Bool :=
  let p := pkField hd 4 4
  decide (1 ≤ nodesOf hd ∧ nodesOf hd ≤ 4096 ∧ edgeCount hd ≤ 16384 ∧ p % 64 = 0 ∧ p ≤ 4096)
  && decide (pkField hd 8 8 % 64 = 0 ∧ pkField hd 16 8 % 8 = 0) && zeroField hd 32 8 && zeroField hd 40 8 && zeroField hd 48 8
  && zeroField hd 56 8

/-- A node keeps its layout: NT 0 with a launch packet, or NT 1 with a copy packet and a queue. -/
def nodeOk (b : List Byte) : Bool :=
  let x := pkField b 4 4
  if x % 4 = 0 then decide (x = 0) && decide (workKind b = 1) else decide (x % 4 = 1 ∧ x / 4 % 4 = 0 ∧ x / 2 ^ 16 = 0)

/-- The whole image keeps the layout of R203. -/
def imageOk (img : List Byte) : Bool :=
  headOk (img.take 64) && (List.range (nodesOf img)).all (fun n => nodeOk (nodeBytes img n))
  && (edgesOf img).all (fun e => decide (e.1 < e.2 ∧ e.2 < nodesOf img))

/-- Bytes of a partition's graph store in use, without one graph. -/
def State.graphBytes (s : State) (part but : Nat) : Nat :=
  (s.graphs.filter (fun e => decide (e.1 / 65536 = part ∧ e.1 ≠ but))).foldl (fun n e => n + e.2.image.length) 0

/-- The image that a GLOAD names, read and checked, in the order of the codes: 5 and 6, 7, 13. -/
def State.graphImage (s : State) (x : Queue) (b : List Byte) : Except WorkErr (List Byte) := do
  let a := pkField b 8 8
  let hd ← s.readAddr x.owner x.space a 64
  workNeed (decide (a % 64 = 0)) 7 a
  workNeed (headOk hd) 13 0
  let img ← s.readAddr x.owner x.space a (imageSize hd)
  workNeed (imageOk img && decide (s.graphBytes x.owner (graphKey x.owner (pkField b 24 2)) + img.length ≤ 2 ^ 20)) 13 0
  pure img

/-- GLOAD (R203): of a graph that has no run running or pending. -/
def execGload (q : Nat) (s : State) : Host.Outcome State Fault Refusal :=
  .next (s.startKind q 3 (fun x joined b =>
    if workMalformed b then s.stopWq q x joined (3, 0)
    else
      let key := graphKey x.owner (pkField b 24 2)
      let busy := match Map.find? s.graphs key with
        | some g => g.run.isSome || !g.pending.isEmpty
        | none => false
      if busy then s
      else match s.graphImage x b with
        | .error e => s.stopWq q x joined e
        | .ok img =>
          let g : Graph := { image := img, space := x.space, tvec := x.tvec, q := q, run := none, pending := [] }
          { s.takeWq q x joined with graphs := Map.insert s.graphs key g }))

/-- A graph stored. -/
def State.setGraph (s : State) (key : Nat) (g : Graph) : State := { s with graphs := Map.insert s.graphs key g }

/-- Bytes of an image with a word at an offset of its parameter block replaced. -/
def patchImage (img : List Byte) (p : Nat × Word) : List Byte :=
  let o := paramOff img + p.1
  img.take o ++ natLe 4 p.2.toNat ++ img.drop (o + 4)

/-- Bytes stored by Trailhead at a virtual range, as a release at `.fab` (R205); nothing where it does not translate, or a peer does not acknowledge
(R263). -/
def State.thStore (s : State) (part space va : Nat) (bs : List Byte) : State :=
  match s.thSpans part space needWrite va bs.length with
  | .ok l => if l.any (fun p => s.deafAt p.1) then s.tellAway va else l.foldl (fun s p => s.thSync p.1 p.2) (s.storeSpans 64 l bs)
  | .error _ => s

/-- GRAPH_RUN_START (R205): patches, then the parameter block at PBADDR, released at `.fab`; it waits while PBADDR has no defined translation or is
not reached (R10, R254). -/
def execGraphRunStart (part gid : Nat) (s : State) : Host.Outcome State Fault Refusal :=
  if s.takeover then .next s
  else match Map.find? s.graphs (graphKey part gid) with
    | none => .next s
    | some g => match g.run, g.pending with
      | none, ps :: rest =>
        let img := ps.foldl patchImage g.image
        if s.thAway part g.space needWrite (pkField img 8 8) (pkField img 4 4) then .next s else
        let g1 : Graph := { g with image := img, run := some { patches := ps, started := [], done := [] }, pending := rest }
        let s1 := (s.journalise (.run part gid)).setGraph (graphKey part gid) g1
        .next (s1.thStore part g.space (pkField img 8 8) ((img.drop (paramOff img)).take (pkField img 4 4)))
      | _, _ => .next s

/-- A copy node posted to its queue (R203, R205); none when the queue may not be posted to, is full, or cannot be reached (R254). -/
def State.postNode (s : State) (part gid node : Nat) (b : List Byte) : Option State :=
  let q := pkField b 4 4 / 16 % 4096
  match Map.find? s.copyQs q with
  | none => none
  | some x =>
    let w := s.widx x
    if x.st ≠ .run ∨ !s.reach x.hdr ∨ !s.reach (x.slot w) ∨ (w - x.ridx).toNat ≥ x.size ∨ !(x.owner = part ∨ s.filterOk part true q (workKind b) = true) then none
    else
      let h := pkField b 0 4 % 2 ^ 31 + 2 ^ 31
      let s1 := s.setCq q { x with nodes := x.nodes ++ [(w, part, gid, node)] }
      some ((s1.storeAt 64 x.hdr (natLe 4 (w + 1).toNat)).storeAt 64 (x.slot w) (natLe 4 h ++ natLe 4 0 ++ b.drop 8))

/-- A node of a run started. -/
def State.markStarted (s : State) (part gid node : Nat) : State :=
  match Map.find? s.graphs (graphKey part gid) with
  | none => s
  | some g => s.setGraph (graphKey part gid) { g with run := g.run.map (fun r => { r with started := node :: r.started }) }

/-- GRAPH_NODE_START (R205): every source of the node's edges has completed. Log entry 45: DEDUCED. -/
def execGraphNodeStart (part gid node : Nat) (s : State) : Host.Outcome State Fault Refusal :=
  if s.takeover then .next s
  else match Map.find? s.graphs (graphKey part gid) with
    | none => .next s
    | some g => match g.run with
      | none => .next s
      | some r =>
        let due := decide (node < nodesOf g.image) && !r.started.contains node
          && (edgesOf g.image).all (fun e => decide (e.2 ≠ node) || r.done.contains e.1)
        let b := nodeBytes g.image node
        if !due then .next s
        else if pkField b 4 4 % 4 = 0 then
          (if workMalformed b then .next s
            else match s.launchOf part g.space g.tvec b (.node part gid node) with
              | .error _ => .next s
              | .ok l => .next ((s.markStarted part gid node).addLaunch l))
        else match s.postNode part gid node b with
          | none => .next s
          | some t => .next (t.markStarted part gid node)

/-- GRAPH_RUN_END (R205): every node has completed, which the journal records first (R210); the graph's completion store follows. It waits while the
completion address has no defined translation (R10). Where that does not translate by now, no store is made. Log entry 45: DEDUCED. -/
def execGraphRunEnd (part gid : Nat) (s : State) : Host.Outcome State Fault Refusal :=
  match Map.find? s.graphs (graphKey part gid) with
  | none => .next s
  | some g => match g.run with
    | none => .next s
    | some r =>
      if !(List.range (nodesOf g.image)).all (fun n => r.done.contains n) then .next s
      else
        let s1 := (s.journalise (.runEnd part gid)).setGraph (graphKey part gid) { g with run := none }
        let ca := pkField g.image 16 8
        if ca = 0 then .next s1
        else if s.thAway part g.space needWrite ca 8 then .next s
        else match s.thLoc part g.space needWrite ca 8 with
          | some loc => .next (s1.complete loc (BitVec.ofNat 64 (pkField g.image 24 8)))
          | none => .next s1

/-! ### The take-over (R211) -/

/-- The held completions are made, in order. -/
def State.releaseStores (s : State) : State :=
  s.heldStores.foldl (fun s e => s.complete e.1 e.2) { s with heldStores := [] }

/-- One of Trailhead's stores to a peer is made there, or the endpoint does not acknowledge it, and the hypervisor's ring is told (R263). It waits
for the ports, and for the stores on their way to its location (R130, R254). -/
def State.heldStore (s : State) (i : Nat) (ok : Bool) : State :=
  match s.heldStores[i]? with
  | none => s
  | some (loc, x) =>
    if s.takeover || !isPeer loc || !s.fabricUp || s.spansWait [(loc, 8)] then s
    else
      let s1 : State := { s with heldStores := s.heldStores.eraseIdx i }
      if ok && !s.deafAt loc then { s1 with journal := .complete loc :: s1.journal }.thSend loc x else s1.tellAway loc

/-- The queued triggers are accepted, in order. -/
def State.releaseTrigs (s : State) : State := s.heldTrigs.foldl (fun s e => s.trigStore e.1 e.2) { s with heldTrigs := [] }

/-- TAKE_OVER (R211): the standby becomes active and replays the journal; at its end it reads the header of every
registered queue once, or marks it where it cannot be reached yet, goes on from the pending kicks, and releases what was held. -/
def execTakeOver (s : State) : Host.Outcome State Fault Refusal :=
  if !s.takeover then .next { s with takeover := true, active := 1 - s.active }
  else
    let s1 := s.workQs.foldl (fun (t : State) e => match Map.find? t.workQs e.1 with
      | some x => if t.headerAway x then { t with kicks := if t.kicks.contains e.1 then t.kicks else t.kicks ++ [e.1] } else t.readHeader e.1 x
      | none => t) { s with takeover := false }
    let s2 := { s1 with svcQs := s1.svcQs.map (fun (e : Nat × Queue) => (e.1, { e.2 with seen := s1.widx e.2 })) }
    .next s2.releaseStores.releaseTrigs

end Sys2Proof.Machine
end

