-- ==== Sys2Proof/Machine/Service.lean ====
section
/-! DEFINITION. The service queues and their operations (R245, R258 to R260, R328, R388). -/

namespace Sys2Proof.Machine

/-! ### Packets of a service queue -/

/-- Status done. -/
abbrev stDone : Nat := 0
/-- Status refused. -/
abbrev stRefused : Nat := 1
/-- Status malformed. -/
abbrev stMalformed : Nat := 2
/-- Status busy. -/
abbrev stBusy : Nat := 3

/-- OP. -/
abbrev svcOp (b : List Byte) : Nat := pkField b 0 4 / 2 ^ 24 % 128

/-- A service queue stored. -/
def State.setSvc (s : State) (q : Nat) (x : Queue) : State := { s with svcQs := Map.insert s.svcQs q x }

/-- The location of a response address; none where it is not aligned or does not translate. -/
def State.respLoc (s : State) (x : Queue) (b : List Byte) : Option Nat :=
  if pkField b 8 8 % 8 = 0 then s.thLoc x.owner x.space needWrite (pkField b 8 8) 8 else none

/-- The status of an operation, stored as a release at `.fab`; to a peer as a completion is. -/
def State.respond (s : State) (loc : Option Nat) (st : Nat) : State :=
  match loc with
  | some l => if isPeer l then { s with heldStores := s.heldStores ++ [(l, BitVec.ofNat 64 st)] } else s.thSend l (BitVec.ofNat 64 st)
  | none => s

/-- A range has no defined translation: Trailhead is left blocked (R10; log entry 58, DESIGN CHOICE). -/
def State.thUndef (s : State) (part space : Nat) (need : BitVec 4) (va n : Nat) : Bool :=
  match s.thSpans part space need va n with
  | .error (_, .undef) => true
  | .error (_, .mk _ _) | .ok _ => false

/-- Trailhead takes the head packet of a service queue when its OP is one of a list, once its response address, and what else it needs (`away`), can
be reached (R10, R254): `act` gives the machine and the status, none when the status comes later. -/
def State.takeSvc (s : State) (q : Nat) (ops : Nat → Bool) (away : State → Queue → List Byte → Bool)
    (act : State → Queue → List Byte → Option Nat → State × Option Nat) : State :=
  if s.takeover then s
  else match Map.find? s.svcQs q with
    | none => s
    | some x => match s.head? x with
      | none => s
      | some b =>
        if !ops (svcOp b) || s.thUndef x.owner x.space needWrite (pkField b 8 8) 8 || away s x b then s
        else
          let loc := s.respLoc x b
          let s1 := ((s.journalise (.queue 3 q (x.ridx + 1) x.st)).popSlot 64 x).setSvc q { x with ridx := x.ridx + 1 }
          if pkField b 0 3 ≠ 0 then s1.respond loc stMalformed
          else match act s1 x b loc with
            | (t, some st) => t.respond loc st
            | (t, none) => t

/-- The queue is the hypervisor's. -/
abbrev isHyper (q : Nat) : Bool := decide (q = 32)

/-! ### QREG (R260) -/

/-- The operands of QREG. -/
structure Reg where
  /-- QNUM -/
  num : Nat
  /-- QKIND -/
  kind : Nat
  /-- LOG2SIZE -/
  log2 : Nat
  /-- OWNER -/
  owner : Nat
  /-- PRIO -/
  prio : Nat
  /-- EVLOG -/
  evlog : Nat
  /-- FWD -/
  fwd : Nat
  /-- RING -/
  ring : Nat
  /-- HDR -/
  hdr : Nat
  /-- ERR -/
  err : Nat
  /-- S1D -/
  s1d : Nat
  /-- TVEC or EVR -/
  last : Nat
deriving DecidableEq, Repr

/-- The operands from a packet's bytes. -/
def regOf (b : List Byte) : Reg :=
  { num := pkField b 16 2, kind := pkField b 18 1, log2 := pkField b 19 1, owner := pkField b 20 1 / 4, prio := pkField b 20 1 % 4,
    evlog := pkField b 21 1, fwd := pkField b 22 2, ring := pkField b 24 8, hdr := pkField b 32 8, err := pkField b 40 8,
    s1d := pkField b 48 8, last := pkField b 56 8 }

/-- Every field keeps its range and alignment, and those that the kind does not use are zero. -/
def Reg.ok (r : Reg) : Bool :=
  decide (r.kind ≤ 3 ∧ 6 ≤ r.log2 ∧ r.log2 ≤ 16 ∧ r.owner ≤ 31) && decide (r.ring % 64 = 0 ∧ r.hdr % 128 = 0 ∧ r.err % 32 = 0)
  && (if r.kind = 0 then decide (r.num ≤ 4095 ∧ r.prio = 0 ∧ r.evlog = 0 ∧ r.fwd = 0 ∧ r.last = 0)
      else if r.kind = 1 then decide (r.num ≤ 16383 ∧ r.evlog = 0 ∧ r.fwd = 0)
      else if r.kind = 2 then decide (r.num ≤ 16383 ∧ r.evlog = 0 ∧ r.fwd ≤ 16383 ∧ r.last = 0)
      else decide (r.num ≤ 32 ∧ r.prio = 0 ∧ 4 ≤ r.evlog ∧ r.evlog ≤ 16 ∧ r.fwd = 0))

/-- Pieces that follow one another without a gap. -/
def contiguous : List (Nat × Nat) → Bool
  | [] => true
  | [_] => true
  | (l, n) :: (l', n') :: r => decide (l + n = l') && contiguous ((l', n') :: r)

/-- The location of a range that translates with read and write permission and maps to one contiguous range, of a peer that acknowledges. -/
def State.regRange (s : State) (r : Reg) (va n : Nat) : Option Nat :=
  match s.thSpans r.owner r.s1d (needRead ||| needWrite) va n with
  | .ok l => if contiguous l && !l.any (fun p => s.deafAt p.1) then (l.head?).map (·.1) else none
  | .error _ => none

/-- The queue of a number and kind. -/
def State.queueAt (s : State) (kind num : Nat) : Option Queue :=
  if kind = 0 then Map.find? s.copyQs num else if kind = 3 then Map.find? s.svcQs num else Map.find? s.workQs num

/-- A queue of a kind stored, or taken away. -/
def State.putQueue (s : State) (kind num : Nat) (x : Option Queue) : State :=
  if kind = 0 then { s with copyQs := Map.set s.copyQs num x }
  else if kind = 3 then { s with svcQs := Map.set s.svcQs num x }
  else { s with workQs := Map.set s.workQs num x }

/-- A queue as registration makes it (R140, R194). -/
def Reg.queue (r : Reg) (reg ring hdr err : Nat) (ev : Option Nat) : Queue :=
  { owner := r.owner, reg := reg, ring := ring, size := 2 ^ r.log2, hdr := hdr, err := err, space := r.s1d, st := .run, ridx := 0, jobs := [],
    quarantine := [], prio := r.prio, eff := r.prio, passed := 0, fwd := if r.kind = 2 then some r.fwd else none,
    tvec := if r.kind = 1 then BitVec.ofNat 64 r.last else 0, joined := [], evRing := ev.map (fun l => (l, 2 ^ r.evlog)), seen := 0,
    badJoined := false, nodes := [], evs := [] }

/-- Header and slots zeroed before the queue enters RUN (R141). Log entry 52: DEDUCED. -/
def State.clearRing (s : State) (x : Queue) : State :=
  let s1 := (s.storeAt 64 x.hdr (natLe 4 0)).storeAt 64 (x.hdr + 64) (natLe 4 0)
  (List.range x.size).foldl (fun s i => s.storeAt 64 (x.ring + 64 * i) (natLe 4 0)) s1

/-- A registration (R140, R260): the machine and the status. A number that is registered already is refused (log entry 69, DESIGN CHOICE). -/
def State.register (s : State) (q : Nat) (r : Reg) : State × Option Nat :=
  if !r.ok then (s, some stMalformed)
  else if !isHyper q && (decide (r.kind > 1) || decide (r.owner ≠ q)) then (s, some stRefused)
  else if (s.queueAt r.kind r.num).isSome then (s, some stRefused)
  else
    let ev := if r.kind = 3 then s.regRange r r.last (128 + 32 * 2 ^ r.evlog) else some 0
    match s.regRange r r.ring (64 * 2 ^ r.log2), s.regRange r r.hdr 128, s.regRange r r.err 32, ev with
    | some ring, some hdr, some err, some e =>
      let x := r.queue s.regs ring hdr err (if r.kind = 3 then some e else none)
      let s0 := { s.journalise (.queue r.kind r.num x.ridx x.st) with regs := s.regs + 1 }
      let s1 := (s0.clearRing x).putQueue r.kind r.num (some x)
      (if r.kind = 1 ∨ r.kind = 2 then { s1 with kicks := s1.kicks.filter (· ≠ r.num) } else s1, some stDone)
    | _, _, _, _ => (s, some stRefused)

/-- A range that a registration names cannot be judged or zeroed yet (R10, R254). -/
def State.regAway (s : State) (r : Reg) : Bool :=
  let away (va n : Nat) : Bool := s.thAway r.owner r.s1d (needRead ||| needWrite) va n
  r.ok && (away r.ring (64 * 2 ^ r.log2) || away r.hdr 128 || away r.err 32 || (decide (r.kind = 3) && away r.last (128 + 32 * 2 ^ r.evlog)))

/-- QREG; a packet whose OP is none of R259's is malformed. -/
def execQreg (q : Nat) (s : State) : Host.Outcome State Fault Refusal :=
  .next (s.takeSvc q (fun o => decide (o = 1 ∨ o = 0 ∨ o > 6)) (fun s _ b => decide (svcOp b = 1) && s.regAway (regOf b)) (fun s _ b _ =>
    if svcOp b = 1 then s.register q (regOf b) else (s, some stMalformed)))

/-! ### QSET (R149, R259; operands by log entry 31, DESIGN CHOICE) -/

/-- The queue returned to RUN, with the failed slot kept or skipped; a slot that is skipped keeps its bytes, READY among them (R149; log entry 69,
DESIGN CHOICE). -/
def Queue.toRun (x : Queue) (skip : Bool) : Queue :=
  if x.st = .run then x
  else
    let y := { x with st := .run, badJoined := false }
    if !skip then y else if x.badJoined then { y with joined := x.joined.drop 1 } else { y with ridx := x.ridx + 1 }

/-- A change of a queue's state. A work queue that returns to RUN is to have its header read, as after a kick (R149, R195; log entry 69, DESIGN
CHOICE). -/
def State.setQueue (s : State) (kind num : Nat) (x : Queue) (new : Nat) (skip : Bool) : State × Option Nat :=
  if new = 0 then
    let y := x.toRun skip
    let s1 := if y.ridx = x.ridx then s else s.storeRecord (x.hdr + 64) (natLe 4 y.ridx.toNat)
    let s2 := (s1.journalise (.queue kind num y.ridx y.st)).putQueue kind num (some y)
    (if (kind = 1 ∨ kind = 2) ∧ !s2.kicks.contains num then { s2 with kicks := s2.kicks ++ [num] } else s2, some stDone)
  else if new = 1 then
    let y := { x with st := QState.stop }
    ((s.journalise (.queue kind num y.ridx y.st)).putQueue kind num (some y), some stDone)
  else if !x.jobs.isEmpty || !x.joined.isEmpty then (s, some stBusy)
  else (s.putQueue kind num none, some stDone)

/-- QSET, of a queue that the partition owns, its service queue among them (R259). Log entry 31: DESIGN CHOICE. -/
def execQset (q : Nat) (s : State) : Host.Outcome State Fault Refusal :=
  .next (s.takeSvc q (fun o => decide (o = 2)) (fun s _ b => match s.queueAt (pkField b 18 1) (pkField b 16 2) with
    | some x => s.spansAway [(x.hdr + 64, 4)]
    | none => false) (fun s _ b _ =>
    let num := pkField b 16 2
    let kind := pkField b 18 1
    let new := pkField b 19 1
    if kind > 3 ∨ new > 2 ∨ pkField b 20 1 > 1 then (s, some stMalformed)
    else match s.queueAt kind num with
      | none => (s, some stRefused)
      | some x =>
        let match_ := decide (kind = 0 ∨ kind = 3) || decide ((kind = 2) = x.fwd.isSome)
        if !match_ || (!isHyper q && decide (x.owner ≠ q)) then (s, some stRefused)
        else s.setQueue kind num x new (decide (pkField b 20 1 = 1))))

/-! ### PEEK (R388) -/

/-- n zero bytes. -/
abbrev zeros (n : Nat) : List Byte := List.replicate n 0

/-- A stack entry. -/
def peekEnt (tx : DWord) (e : StackEnt) : List Byte :=
  natLe 4 (e.pc - tx).toNat ++ [BitVec.ofNat 8 (e.mask.toNat + (if e.join then 16 else 0))] ++ zeros 3

/-- A slice's record: 96 bytes. -/
def peekSlice (w : WaveCore) (i : Nat) : List Byte :=
  let x := w.slice i
  natLe 4 (x.pc - w.tx).toNat ++ natLe 4 x.modex.toNat ++ natLe 4 x.modem.toNat
    ++ [BitVec.ofNat 8 (x.mask.toNat + (if w.finished i then 128 else 0)), BitVec.ofNat 8 x.stack.length, BitVec.ofNat 8 x.gang, 0]
    ++ (x.stack.reverse.flatMap (peekEnt w.tx) ++ zeros 80).take 80

/-- The trap record and the wave's own registers: bytes 0 to 63. -/
def peekHead (w : Wave) : List Byte :=
  let st := w.st
  ([st.trcause, st.trpc, st.trmask, st.trfalo, st.trfahi, st.tveclo, st.tvechi, st.hscr0, st.hscr1, st.pwrctl, st.txlo, st.txhi, st.live].flatMap
    (fun x => natLe 4 x.toNat)) ++ natLe 2 st.opn.toNat ++ natLe 2 st.dne.toNat ++ natLe 1 (w.valloc / 8) ++ natLe 1 st.depth ++ zeros 6

/-- The registers but the varying ones: bytes 832 to 1,327. -/
def peekRegs (r : Regs) : List Byte :=
  (List.range 32).flatMap (fun n => natLe 4 (r.s.getD n 0).toNat) ++ natLe 4 (~~~r.sEmpty).toNat ++ natLe 8 (~~~r.vEmpty).toNat
    ++ natLe 4 ((List.range 4).foldl (fun x n => x + (if r.kpred n then 2 ^ n else 0)) 0)
    ++ (List.range 8).flatMap (fun n => natLe 4 (r.pred n).toNat)
    ++ (List.range 16).flatMap (fun n =>
      let a := r.a.getD n ⟨0, 0, false⟩
      natLe 4 a.base.toNat ++ natLe 4 a.stride.toNat ++ natLe 4 (if a.ov then 1 else 0))
    ++ (List.range 8).flatMap (fun n =>
      let b := r.b.getD n ⟨0, 0⟩
      natLe 8 b.base.toNat ++ natLe 8 b.tag.toNat)

/-- The varying registers of the allocation: bytes 4,096 to 12,287. -/
def peekV (r : Regs) (valloc : Nat) : List Byte :=
  (List.range 64).flatMap (fun n =>
    if n < valloc then (List.range 32).flatMap (fun t => natLe 4 ((r.v.getD n (Vector.replicate 32 0)).getD t 0).toNat) else zeros 128)

/-- The 12,288 bytes of a PEEK. -/
def peekBytes (w : Wave) : List Byte :=
  peekHead w ++ (List.range 8).flatMap (peekSlice w.st) ++ peekRegs w.st.regs ++ zeros 2768 ++ peekV w.st.regs w.valloc

/-- A register has a sector that is still returning. -/
def Wave.returning (w : Wave) (x : Dst) : Bool :=
  w.inflight.any (fun a => match a.dst with
    | some d => (d.span a.nreg).contains x
    | none => false)

/-- Registers as a PEEK sees them: one whose sectors are still returning shows a free value (R388), of a count from `ctr` on, and any other its
value as it stands, an empty one too. -/
def Wave.peekedRegs (w : Wave) (ctr : Nat) : Regs :=
  let r := w.st.regs
  if w.inflight.isEmpty then r
  else { r with
    s := Vector.ofFn (fun (n : Fin 32) => if w.returning (.s n.val) then Config.freeWord (ctr + n.val) else r.s[n])
    v := Vector.ofFn (fun (n : Fin 64) =>
      if w.returning (.v n.val) then Vector.ofFn (fun (t : Fin 32) => Config.freeWord (ctr + 32 + 32 * n.val + t.val)) else r.v[n]) }

/-- A wave as a PEEK sees it, and the machine with as many free values used up. -/
def State.peeked (s : State) (w : Wave) : Wave × State :=
  ({ w with st := { w.st with regs := w.peekedRegs s.freeCtr } }, if w.inflight.isEmpty then s else { s with freeCtr := s.freeCtr + 2080 })

/-- The wave at a core, quad and slot, if it is one that the queue may act on. -/
def State.waveAt (s : State) (q core quad slot : Nat) : Option (Nat × Wave) :=
  (s.wavesOn core).find? (fun e => decide (e.2.quad = quad ∧ e.2.slot = slot) && (isHyper q || decide (s.partOfWave e.2 = q)))

/-- PEEK; a buffer with a peer that does not acknowledge is refused, and the hypervisor's ring is told (R263). Log entry 31: DESIGN CHOICE. -/
def execPeek (q : Nat) (s : State) : Host.Outcome State Fault Refusal :=
  .next (s.takeSvc q (fun o => decide (o = 3)) (fun s x b => s.thAway x.owner x.space needWrite (pkField b 24 8) 12288) (fun s x b _ =>
    match s.waveAt q (pkField b 16 2) (pkField b 18 1) (pkField b 19 1) with
    | none => (s, some stRefused)
    | some (_, w) =>
      if w.st.trap.isNone then (s, some stBusy)
      else match s.thSpans x.owner x.space needWrite (pkField b 24 8) 12288 with
        | .error _ => (s, some stRefused)
        | .ok l => if l.any (fun p => s.deafAt p.1) then (s.tellAway (pkField b 24 8), some stRefused)
          else ((s.peeked w).2.storeSpans 64 l (peekBytes (s.peeked w).1), some stDone)))

/-! ### RESOLVE (R235, R236, R245, R259, R328) -/

/-- A slice of a wave's handler gang that waits for the hypervisor. -/
def Wave.atHv (w : Wave) : Option Nat := (List.range 8).find? (fun i => decide ((w.st.slice i).wait = some .hyper) && !w.st.finished i)

/-- ACT and, when it is not 0, a new TRPC written. -/
def WaveCore.setAct (w : WaveCore) (act trpc : Nat) : WaveCore :=
  { w with trcause := (w.trcause &&& 0x3FFFFFFF) ||| (BitVec.ofNat 32 act <<< 30), trpc := if trpc = 0 then w.trpc else BitVec.ofNat 32 trpc }

/-- A RESOLVE of a wave that waits at `hv`. -/
def State.resolveHv (s : State) (u : Nat) (w : Wave) (sl act trpc : Nat) : State :=
  if act ≤ 1 then
    (s.setWave u { w with st := { w.st with trpc := if trpc = 0 then w.st.trpc else BitVec.ofNat 32 trpc } }).release u sl .hyper
  else s.killWave u

/-- A RESOLVE of a parked wave: of a nested trap, or of the wave's first. -/
def State.resolveParked (s : State) (u : Nat) (w : Wave) (act trpc : Nat) : State :=
  let w1 := { w with st := w.st.setAct act trpc }
  if w.st.trcause.getLsbD 27 then
    (if act ≤ 1 then (s.setWave u { w1 with st := w1.st.resumeNested (decide (act = 1)) }).pumpRun w.core else s.killWave u)
  else (s.setWave u w1).resolveTrap u w1

/-- A RESOLVE waits while the engine cannot read the arena's place again (R10, R190). -/
def State.resolveAway (s : State) (q : Nat) (b : List Byte) : Bool :=
  match s.waveAt q (pkField b 16 2) (pkField b 18 1) (pkField b 19 1) with
  | some (u, w) => decide (pkField b 20 1 ≤ 1) && !w.st.inHandler && s.resumeAway u { w with st := w.st.setAct (pkField b 20 1) 0 }
  | none => false

/-- RESOLVE. Log entry 48: DEDUCED. -/
def execResolve (q : Nat) (s : State) : Host.Outcome State Fault Refusal :=
  .next (s.takeSvc q (fun o => decide (o = 4)) (fun s _ b => s.resolveAway q b) (fun s _ b _ =>
    let act := pkField b 20 1
    let trpc := pkField b 24 4
    if act > 3 then (s, some stMalformed)
    else match s.waveAt q (pkField b 16 2) (pkField b 18 1) (pkField b 19 1) with
      | none => (s, some stRefused)
      | some (u, w) => match w.st.trap with
        | none => (s, some stBusy)
        | some t =>
          if t.running then
            (match w.atHv with
              | none => (s, some stBusy)
              | some sl => if isHyper q then (s.resolveHv u w sl act trpc, some stDone) else (s, some stRefused))
          else if t.route = .h ∧ !isHyper q then (s, some stRefused)
          else if w.st.trcause.getLsbD 17 ∧ act ≤ 1 then (s, some stRefused)
          else (s.resolveParked u w act trpc, some stDone)))

/-! ### KILL and ZERO -/

/-- A killed wave of a context: it ends when it comes back. -/
def Wave.markKilled (w : Wave) : Wave := { w with ending := true, killedBy := true, held := [], st := { w.st with trap := none, burn := 0, burnLeft := 0 } }

/-- Every wave of a launch is killed; nothing more of it is placed (R259). -/
def State.killLaunch (s : State) (ln : Nat) (l : Launch) : State :=
  let gs := (s.groups.filter (fun e => decide (e.2.launch = ln))).map (·.1)
  let s1 : State := { s with launches := Map.insert s.launches ln { l with killed := true } }
  let here := (s1.waves.filter (fun e => e.2.plain && gs.contains e.2.group)).map (·.1)
  let s2 := here.foldl (fun s u => s.killWave u) s1
  s2.everyWave (fun w => if w.plain && gs.contains w.group && !w.killedBy then w.markKilled else w)

/-- KILL. Log entry 31: DESIGN CHOICE. -/
def execKill (q : Nat) (s : State) : Host.Outcome State Fault Refusal :=
  .next (s.takeSvc q (fun o => decide (o = 5)) (fun _ _ _ => false) (fun s _ b _ =>
    let num := pkField b 16 2
    let idx : Word := BitVec.ofNat 32 (pkField b 20 4)
    match Map.find? s.workQs num with
    | none => (s, some stRefused)
    | some x =>
      if !isHyper q && decide (x.owner ≠ q) then (s, some stRefused)
      else match List.find? (fun (e : Nat × Launch) => decide (e.2.origin = .queue num idx)) s.launches with
        | none => (s, some stRefused)
        | some (ln, l) => (s.killLaunch ln l, some stDone)))

/-- ZERO: a range of HBM, for the hypervisor's queue alone. Log entry 31: DESIGN CHOICE. -/
def execZero (q : Nat) (s : State) : Host.Outcome State Fault Refusal :=
  .next (s.takeSvc q (fun o => decide (o = 6)) (fun _ _ _ => false) (fun s _ b loc =>
    let base := pkField b 16 8
    let len := 65536 * pkField b 24 8
    if !isHyper q || decide (base + len > hbmBytes) then (s, some stRefused)
    else ({ s with zeroing := s.zeroing ++ [{ base := base, len := len, resp := loc }] }, none)))

/-- ZERO_COMPLETE (R258, R259). -/
def execZeroComplete (i : Nat) (s : State) : Host.Outcome State Fault Refusal :=
  match s.zeroing[i]? with
  | none => .next s
  | some z => .next (({ s with zeroing := s.zeroing.eraseIdx i }.wipe z.base z.len).respond z.resp stDone)

end Sys2Proof.Machine
end

