-- ==== Sys2Proof/Machine/Sha.lean ====
section
/-! DEFINITION. SHA-256, with which the attestation report digests the live layout registers (R262). Log entry 64: PRESUMED (FIPS 180-4). -/

namespace Sys2Proof.Machine

/-- The eight working words of the digest. -/
structure Sha where
  /-- first -/
  a : Word
  /-- second -/
  b : Word
  /-- third -/
  c : Word
  /-- fourth -/
  d : Word
  /-- fifth -/
  e : Word
  /-- sixth -/
  f : Word
  /-- seventh -/
  g : Word
  /-- eighth -/
  h : Word
deriving DecidableEq, Repr

/-- The largest number of n bits whose k-th power is at most x, its bits found from the highest down. -/
def rootBits (k x : Nat) : Nat → Nat → Nat
  | 0, r => r
  | n + 1, r => rootBits k x n (if (r + 2 ^ n) ^ k ≤ x then r + 2 ^ n else r)

/-- The first 32 bits of the fraction of the k-th root of a number below 2^9. -/
def rootFraction (k p : Nat) : Word := BitVec.ofNat 32 (rootBits k (p * 2 ^ (32 * k)) 37 0)

/-- The primes below a bound, in order. -/
def primesBelow (n : Nat) : List Nat := (List.range n).filter (fun p => decide (2 ≤ p) && (List.range p).all (fun d => decide (d < 2 ∨ p % d ≠ 0)))

/-- Their initial values: fractions of the square roots of the first eight primes. -/
def Sha.init : Sha :=
  let r (i : Nat) : Word := rootFraction 2 ((primesBelow 20).getD i 0)
  ⟨r 0, r 1, r 2, r 3, r 4, r 5, r 6, r 7⟩

/-- The round constants: fractions of the cube roots of the first 64 primes. -/
def shaK : List Word := (primesBelow 312).map (rootFraction 3)

/-- Sum of three rotations. -/
def rot3 (x : Word) (i j k : Nat) : Word := x.rotateRight i ^^^ x.rotateRight j ^^^ x.rotateRight k

/-- Sum of two rotations and a shift. -/
def rot2 (x : Word) (i j k : Nat) : Word := x.rotateRight i ^^^ x.rotateRight j ^^^ (x >>> k)

/-- One round with its constant, on the message words of the next 16 rounds; those of one round later follow. -/
def Sha.round (p : Sha × List Word) (k : Word) : Sha × List Word :=
  let x := p.1
  let w (i : Nat) : Word := p.2.getD i 0
  let t1 := x.h + rot3 x.e 6 11 25 + ((x.e &&& x.f) ^^^ (~~~x.e &&& x.g)) + k + w 0
  let t2 := rot3 x.a 2 13 22 + ((x.a &&& x.b) ^^^ (x.a &&& x.c) ^^^ (x.b &&& x.c))
  (⟨t1 + t2, x.a, x.b, x.c, x.d + t1, x.e, x.f, x.g⟩, p.2.drop 1 ++ [w 0 + rot2 (w 1) 7 18 3 + w 9 + rot2 (w 14) 17 19 10])

/-- n bytes as one number, the first the highest. -/
def beWord (bs : List Byte) : Word := BitVec.ofNat 32 (leNat bs.reverse)

/-- The digest after one block of 64 bytes. -/
def Sha.block (x : Sha) (bs : List Byte) : Sha :=
  let y := (shaK.foldl Sha.round (x, (List.range 16).map (fun i => beWord ((bs.drop (4 * i)).take 4)))).1
  ⟨x.a + y.a, x.b + y.b, x.c + y.c, x.d + y.d, x.e + y.e, x.f + y.f, x.g + y.g, x.h + y.h⟩

/-- The bytes of a message, with what fills its last block. -/
def shaPad (bs : List Byte) : List Byte :=
  bs ++ [0x80] ++ List.replicate ((119 - bs.length % 64) % 64) 0 ++ (natLe 8 (8 * bs.length)).reverse

/-- SHA-256 of a list of bytes. -/
def sha256 (bs : List Byte) : List Byte :=
  let m := shaPad bs
  let x := (List.range (m.length / 64)).foldl (fun x i => x.block ((m.drop (64 * i)).take 64)) Sha.init
  [x.a, x.b, x.c, x.d, x.e, x.f, x.g, x.h].flatMap (fun w => (natLe 4 w.toNat).reverse)

end Sys2Proof.Machine
end

