-- ==== Sys2Proof/Machine/Basecamp.lean ====
section
/-! DEFINITION. Basecamp and what keeps the package in service: uncorrectable errors (R244, R390), Lantern's replays (R265), self-tests and
spares (R267, R268), bring-up (R19, R221, R261, R269), attestation (R262), inbound requests (R264) and unreachable peers (R168, R263). -/

namespace Sys2Proof.Machine

/-! ### Uncorrectable errors (R244) -/

/-- A register of a wave was in error when it was consumed: the wave rolls back when the undo log holds it, else it is parked with UNR. -/
def State.regError (s : State) (u : Nat) (x : RegId) : State :=
  match s.wave? u with
  | none => s
  | some w => if w.killedBy then s else if w.regLog.contains x then s.rollback u 0 else s.parkUnr u 0

/-- UCE_CONSUMED. -/
def execUceConsumed (site : ErrSite) (s : State) : Host.Outcome State Fault Refusal :=
  .next (match site with
    | .vreg w n => (s.regError w (.v n.val)).note (.error site)
    | .sreg w n => (s.regError w (.s n.val)).note (.error site)
    | .areg w n => (s.regError w (.a n.val)).note (.error site)
    | .preg w n => (s.regError w (.p n.val)).note (.error site)
    | .kreg w n => (s.regError w (.k n.val)).note (.error site)
    | .breg w n => (s.regError w (.b n.val)).note (.error site)
    | .datapath ws => (s.rollAll ws 0).note (.error site)
    | .dcache core sector => s.updCore core (fun k => { k with dcache := k.dcache.erase sector })
    | .icache core loc => s.updCore core (fun k => { k with icache := k.icache.erase loc })
    | .cleanL2 _ => s
    | .store sector => s.addPoison [sector])

/-! ### Lantern (R265) -/

/-- The core of a replay: the lowest of the other column that runs and has a free slot and window; with the slot. -/
def State.replayCore (s : State) (c : LantCopy) : Option (Nat × Nat × Nat) :=
  let col := otherCol (colOf c.core)
  if (s.col col).power = .on ∧ !(s.col col).stopped then (colCores col).findSome? (fun k => (s.roomFor k c.valloc).map (fun p => (k, p.1, p.2)))
  else none

/-- A copy's replay is under way. -/
def State.replaying (s : State) (c : LantCopy) : Bool := c.replay.any (fun u => (s.wave? u).isSome)

/-- Where the third replay runs, which R265 leaves open: on a core of the cluster that the operand names, if it runs and has room, else where
the second did. Log entry 39: DEDUCED. -/
def State.thirdCore (s : State) (cluster : Nat) (c : LantCopy) (third : Option Nat) : Option (Nat × Nat × Nat) :=
  let named := third.filter (fun k => decide (clusterOf k = cluster) && decide ((s.col (colOf k)).power = .on) && !(s.col (colOf k)).stopped)
  match named.bind (fun k => (s.roomFor k c.valloc).map (fun p => (k, p.1, p.2))) with
  | some x => some x
  | none => s.replayCore c

/-- A replay of a copy begins: a hidden wave goes on from the checkpoint, ordered after the replayed wave's own writes. `err` is what an error of the replaying core adds to its signature. -/
def State.beginReplay (s : State) (cluster i : Nat) (c : LantCopy) (err : DWord) (third : Option Nat) : State :=
  match if c.second.isSome then s.thirdCore cluster c third else s.replayCore c with
  | none => s
  | some (k, q, slot) =>
    let own := (s.evs.filter (fun e => decide (e.src = some c.w))).map (·.id)
    let w := { Wave.init (c.ck.learn own (BitVec.allOnes 32) 0) k q slot c.group none c.valloc with hidden := some i, pinned := true }
    (s.updCopy cluster i (fun c => { c with replay := some s.nextWave, resig := err, restores := [] })).addWave w

/-- AUDIT_REPLAY: Lantern replays a closed region, the first time or after a mismatch. Log entry 39: DEDUCED. -/
def execAuditReplay (cluster i : Nat) (err : DWord) (third : Option Nat) (s : State) : Host.Outcome State Fault Refusal :=
  match Map.find? (s.cluster cluster).lant i with
  | none => .next s
  | some c => if !c.closed || s.replaying c then .next s else .next (s.beginReplay cluster i c err third)

/-! ### Self-tests (R267) and spares (R268) -/

/-- A co-resident launch with core groups on a cluster cannot move whole: the other clusters have not as many empty cores as its cores there. -/
def State.corStuck (s : State) (p c : Nat) : Bool :=
  let cor := (coresOf c).filter (fun k => !(s.corSet (s.wavesOn k)).isEmpty)
  let t := s.endHalt (s.clustersOf p)
  let room := (((s.clustersOf p).filter (· ≠ c)).flatMap coresOf).filter (fun k => t.usable p k && !s.occupied k)
  !cor.isEmpty && decide (room.length < cor.length)

/-- SELF_TEST_DRAIN: the next cluster in turn is drained, or skipped for the interval. Log entry 44: DEDUCED. -/
def execSelfTestDrain (s : State) : Host.Outcome State Fault Refusal :=
  if s.testing.isSome then .next s
  else
    let c := s.testNext
    let s1 := { s with testNext := (c + 1) % 64 }
    let cl := s.cluster c
    let skip := cl.phys.isNone || cl.retired || (match s.partOf c with
      | some p => (decide ((s.clustersOf p).length = 1) || s.corStuck p c)
      | none => false)
    if skip then .next s1 else .next ({ s1 with testing := some c }.updCluster c (fun k => { k with draining := true }))

/-- A cluster's core groups leave it: its partition is pre-empted, and once it is quiet they move, and its Cisterns are emptied to HBM. During a
take-over this waits (R211). -/
def State.evacuate (s : State) (c : Nat) : State :=
  match s.partOf c with
  | none => s
  | some p =>
    let cs := s.clustersOf p
    if s.takeover || (Map.find? s.preempt p).isSome then s
    else if !cs.all (fun d => (s.cluster d).halted) then s.beginPreempt cs
    else if !s.quiet cs then s
    else
      let s1 := (s.corFirst (coresOf c)).foldl (fun (t : State) k => (t.moveCore p k (coresOf c)).spillWhole p k) (s.endHalt cs)
      s1.refill p (cs.flatMap coresOf)

/-- The self-test of a cluster is skipped for the interval: the cluster goes on. -/
def State.skipTest (s : State) (c : Nat) : State :=
  let s1 := { s with testing := none }.updCluster c (fun k => { k with draining := false })
  match s1.partOf c with
  | none => s1
  | some p => if (Map.find? s1.preempt p).isSome then s1 else s1.endHalt (s1.clustersOf p)

/-- SELF_TEST_PREEMPT: the core groups that remain are moved, unless a co-resident launch cannot move whole by now. During a take-over it waits
(R211). -/
def execSelfTestPreempt (s : State) : Host.Outcome State Fault Refusal :=
  match if s.takeover then none else s.testing with
  | none => .next s
  | some c => .next (if (s.partOf c).any (fun p => s.corStuck p c) then s.skipTest c else s.evacuate c)

/-- A cluster holds no wave and no context. -/
def State.vacant (s : State) (c : Nat) : Bool := (coresOf c).all (fun k => !s.occupied k && s.cisternFree k)

/-- SCAN_SELF_TEST_DONE: the cluster returns with its buffers and Cisterns zeroed, or is retired. -/
def execScanSelfTestDone (pass : Bool) (s : State) : Host.Outcome State Fault Refusal :=
  match s.testing with
  | none => .next s
  | some c =>
    if !s.vacant c then .next s
    else
      let s1 := (coresOf c).foldl (fun (s : State) k => (s.emptyCore k).setCistern k none) { s with testing := none }
      .next (s1.updCluster c (fun k => if pass then { k with draining := false } else { k with retired := true }))

/-- A column as its island powers up: gated, its rails armed; what its phases have lost, and its retirement, stay (R229). -/
def ColSt.powerUp (k : ColSt) : ColSt :=
  { ColSt.init with
    rails := k.rails.map (fun r => { Rail.init with failed := r.failed })
    power := if k.power = .retired then .retired else .gated
    calib := k.calib }

/-- An island powers up: its cores, its configuration and its rails are as at power-up (R209, R221, R223, R228, R238, R254), for a `fresh` one its
columns too. -/
def State.islandUp (s : State) (c : Nat) (phys : Option Nat) (fresh : Bool) : State :=
  let s1 := { s with
    cores := s.cores.filter (fun e => e.1 / 8 ≠ c)
    cols := if fresh then s.cols.filter (fun e => e.1 / 2 ≠ c) else s.cols.map (fun (e : Nat × ColSt) => if e.1 / 2 = c then (e.1, e.2.powerUp) else e) }
  let k := s.cluster c
  s1.setCluster c { ClusterSt.init with
    phys := phys, draining := k.draining, retired := k.retired, copyFw := k.copyFw, unfoldFw := k.unfoldFw }

/-- ISLAND_POWER_UP: of an island that holds nothing. Log entry 42: DEDUCED. -/
def execIslandPowerUp (isl : Nat) (s : State) : Host.Outcome State Fault Refusal :=
  if isl < 64 ∧ s.vacant isl then .next (s.islandUp isl (s.cluster isl).phys false) else .next s

/-- The image of a pair that is loaded: the higher verified version that OTP admits (R261). -/
def bootImage (otp : Nat) (x : ImgPair) : Option Nat :=
  let ok (x : Option Nat) : Option Nat := x.filter (fun v => decide (v ≥ otp))
  match ok x.a, ok x.b with
  | some v, some w => some (max v w)
  | some v, none => some v
  | none, some w => some w
  | none, none => none

/-- The control-store images of a cluster's engines loaded: those that verify (R261, R269). -/
def State.putEngines (s : State) (c : Nat) : State :=
  s.updCluster c (fun k => { k with copyFw := bootImage s.otpMin s.images.copyEng, unfoldFw := bootImage s.otpMin s.images.unfoldEng })

/-- A cluster is to be replaced: retired, or with a column retired. -/
def State.replaceable (s : State) (c : Nat) : Bool :=
  (s.cluster c).retired || decide ((s.col (2 * c)).power = .retired) || decide ((s.col (2 * c + 1)).power = .retired)

/-- Dirty lines of a retired slice that cannot be written back are poisoned (R244, R268): lines of 128 bytes of HBM. -/
def State.poisonLines (s : State) (lines : List Nat) : State :=
  s.addPoison ((lines.filter (fun l => decide (128 * l < hbmBytes))).flatMap (fun l => sectorsOf (128 * l) 128))

/-- SPARE_REPLACEMENT: the die's spare, if it passes its scan test, takes the number and the layout rows; without one the partition shrinks. The
lines of the retired slice that cannot be written back are poisoned. A cluster that still holds core groups is emptied first. Log entry 42: DEDUCED. -/
def execSpareReplacement (x : Replaced) (s : State) : Host.Outcome State Fault Refusal :=
  let cluster := x.cluster
  if cluster ≥ 64 ∨ !s.replaceable cluster then .next s
  else if !s.vacant cluster then .next ((s.updCluster cluster (fun k => { k with draining := true })).evacuate cluster)
  else
    let spare := Map.find? s.spares (cluster / 16)
    let s1 := (coresOf cluster).foldl (fun (s : State) k => s.emptyCore k) (s.poisonLines x.lost)
    let s2 := { s1 with spares := s1.spares.erase (cluster / 16) }
    match spare, x.pass with
    | some p, true =>
      .next (((s2.islandUp cluster (some p) true).putEngines cluster).updCluster cluster (fun k => { k with draining := false, retired := false }))
    | some _, false | none, _ =>
      .next ({ s2 with live := { s2.live with cluspart := s2.live.cluspart.erase cluster, connmat := s2.live.connmat.erase cluster } }.updCluster
        cluster (fun k => { k with phys := none, retired := true }))

/-! ### Bring-up and attestation -/

/-- The logical clusters of a die: physical numbers of its scan tests' passes, in order (R19). -/
def diePasses (pass : List Nat) (die : Nat) : List Nat := (List.range 17).filter (fun p => pass.contains (17 * die + p))

/-- The islands of a die powered and numbered: the logical clusters are the first sixteen that pass, and a seventeenth is its spare (R19). -/
def State.dieUp (pass : List Nat) (s : State) (die : Nat) : State :=
  let ps := diePasses pass die
  let s1 := (ps.take 16).zipIdx.foldl (fun (s : State) e => (s.islandUp (16 * die + e.2) (some e.1) true).putEngines (16 * die + e.2)) s
  match ps[16]? with
  | some p => { s1 with spares := Map.insert s1.spares die p }
  | none => s1

/-- PACKAGE_RESET (R19, R261, R269): what OTP holds stays, the slots hold the images found in them, and the rest is as at reset. Then bring-up
goes as far as the images verify: with Basecamp's the islands come up, and with all of them Trailhead is loaded, the ports train, and the package
is ready. Log entry 50: DESIGN CHOICE. -/
def execPackageReset (pass : List Nat) (slotA slotB : ImgSlots) (s : State) : Host.Outcome State Fault Refusal :=
  let found := Images.ofSlots slotA slotB
  let s0 := { State.reset with
    otpMin := s.otpMin, fuses := s.fuses, hss := s.hss, images := found, agenda := s.agenda, freeCtr := s.freeCtr, drawCtr := s.drawCtr }
  match bootImage s.otpMin found.basecamp with
  | none => .next s0
  | some v =>
    let s1 := (List.range 4).foldl (State.dieUp pass) { s0 with booted := some v }
    match bootImage s.otpMin found.trailhead, bootImage s.otpMin found.copyEng, bootImage s.otpMin found.unfoldEng with
    | some t, some _, some _ => .next ({ s1 with tpFw := [(0, t), (1, t)], portsUp := true }.note .ready)
    | _, _, _ => .next s1

/-- BASECAMP_RESTART (R256, R269): the image of its pair runs, BOOTCNT rises, staging is discarded, and a commit whose record was written is
applied. When no image verifies, Basecamp stays in reset, as it does until the package is reset. Log entry 34: DEDUCED. -/
def execBasecampRestart (s : State) : Host.Outcome State Fault Refusal :=
  match s.booted, bootImage s.otpMin s.images.basecamp with
  | none, _ => .next s
  | some _, none => .next { s with booted := none }
  | some _, some v =>
    let s1 := { s with booted := some v, bootcnt := s.bootcnt + 1 }
    .next (if s.commitRec then s1.applyLayout else { s1 with sgen := 0 })

/-- An image is written into a slot of its pair: its version when it verifies (R261, R269). -/
def State.writeImage (s : State) (k : ImgKind) (slotB : Bool) (version : Option Nat) : State :=
  let put (x : ImgPair) : ImgPair := if slotB then { x with b := version } else { x with a := version }
  let m := s.images
  { s with images := match k with
    | .basecamp => { m with basecamp := put m.basecamp }
    | .trailhead => { m with trailhead := put m.trailhead }
    | .copyEng => { m with copyEng := put m.copyEng }
    | .unfoldEng => { m with unfoldEng := put m.unfoldEng } }

/-- Basecamp loads the verified image into the standby Trailhead processor, before a take-over or after it (R211). -/
def State.loadStandby (s : State) : State :=
  match s.booted, bootImage s.otpMin s.images.trailhead with
  | some _, some v => { s with tpFw := Map.insert s.tpFw (1 - s.active) v }
  | _, _ => s

/-- A cluster is drained: it takes no core group, and holds none (R267, R269). -/
def State.drainedCluster (s : State) (c : Nat) : Bool := (s.cluster c).draining && s.vacant c

/-- Basecamp loads the control stores of a drained cluster's engines (R269). -/
def State.loadEngines (s : State) (c : Nat) : State := if s.booted.isSome && s.drainedCluster c then s.putEngines c else s

/-- The Spillways of a column of a drained cluster are calibrated (R269). -/
def State.calibrate (s : State) (col x : Nat) : State :=
  if s.drainedCluster (col / 2) then s.updCol col (fun k => { k with calib := x }) else s

/-- OTP_MINIMUM_VERSION_RAISE (R261): to at most the version of the image that runs. Log entry 49: DESIGN CHOICE. -/
def execOtpMinimumVersionRaise (version : Nat) (s : State) : Host.Outcome State Fault Refusal :=
  match s.booted with
  | none => .next s
  | some v => .next (if s.otpMin ≤ version ∧ version ≤ v then { s with otpMin := version } else s)

/-- The live layout registers as the apertures lay them out: CLUSPART, CONNMAT, PARTCFG (R253). -/
def Layout.bytes (l : Layout) : List Byte :=
  (List.range 64).flatMap (fun c => natLe 4 (l.clus c).toNat) ++ (List.range 64).flatMap (fun c => natLe 16 (l.conn c).toNat)
  ++ (List.range 32).flatMap (fun p => natLe 4 (l.cfg p).toNat)

/-- The hashes of the images that run: Basecamp's, Trailhead's, and those of the engines' pairs. -/
def State.imageHashes (s : State) : List Byte :=
  let h (k : ImgKind) (v : Option Nat) : List Byte := (List.range 32).map (Config.imageByte k v)
  h .basecamp s.booted ++ h .trailhead (Map.find? s.tpFw s.active) ++ h .copyEng (bootImage s.otpMin s.images.copyEng)
  ++ h .unfoldEng (bootImage s.otpMin s.images.unfoldEng)

/-- Bytes 0 to 231 of a report: what is signed. -/
def State.reportBody (s : State) (nonce : List Byte) : List Byte :=
  nonce ++ (List.range 32).map Config.identityByte ++ s.imageHashes ++ natLe 4 s.gen.toNat ++ natLe 4 s.otpMin ++ sha256 s.live.bytes

/-- ATTESTATION_REPORT (R262): the counter, and at a new lower tree the fuse, before the report leaves. The signature's bytes are free. Log
entry 49: DESIGN CHOICE. -/
def execAttestationReport (nonce : List Byte) (s : State) : Host.Outcome State Fault Refusal :=
  if s.booted.isNone ∨ nonce.length ≠ 32 ∨ s.hss ≥ 2 ^ 20 then .next s
  else
    let fuses := if s.hss % 1024 = 0 then s.fuses + 1 else s.fuses
    let (sg, s1) := s.freeBytes 2964
    .next ({ s1 with fuses := fuses, hss := s.hss + 1 }.note (.report (s.reportBody nonce ++ sg)))

/-! ### The fabric -/

/-- Bytes and permissions of an inbound access. -/
def inNeed : InKind → Nat × BitVec 4
  | .load n => (n, needRead)
  | .store bs => (bs.length, needWrite)
  | .fetch => (4, needExec)
  | .atomicAdd n _ | .atomicXchg n _ | .atomicCas n _ _ => (n, needAtomic)
  | .atomicOp _ _ _ => (4, needAtomic)

/-- An atomic request. -/
def inAtomicKind : InKind → Bool
  | .load _ | .store _ | .fetch => false
  | .atomicAdd _ _ | .atomicXchg _ _ | .atomicCas _ _ _ | .atomicOp _ _ _ => true

/-- The partition of a window that covers an access and grants its permission (R264). -/
def State.window (s : State) (r : Inbound) : Option Nat :=
  let (n, need) := inNeed r.kind
  (List.find? (fun (e : Nat × BitVec 128) =>
    let base := (e.2.extractLsb' 102 26).toNat * 65536
    let len := ((e.2.extractLsb' 76 26).toNat + 1) * 65536
    e.2.getLsbD 0 && decide (base ≤ r.addr ∧ r.addr + n ≤ base + len) && (e.2.getLsbD 65 || decide ((e.2.extractLsb' 66 10).toNat = r.src))
      && decide (e.2.extractLsb' 56 4 &&& need = need)) s.inwin).map (fun (e : Nat × BitVec 128) => (e.2.extractLsb' 60 5).toNat)

/-- A request's bytes as pieces that lie within 64 KiB units, each translated by stage 2 (R264); a failure where one does not translate, or leads
to a peer. -/
def State.inSpans (s : State) (part : Nat) (need : BitVec 4) : Nat → Nat → Nat → Except XErr (List (Nat × Nat))
  | 0, _, _ => .ok []
  | fuel + 1, a, n =>
    if n = 0 then .ok []
    else
      let k := min n (65536 - a % 65536)
      match s.xlate2 [] part 64 a need with
      | .error e => .error e
      | .ok x => if isPeer x.loc then .error (.mk false true) else (s.inSpans part need fuel (a + k) (n - k)).map (fun l => (x.loc, k) :: l)

/-- Who reads for an endpoint outside: it knows what its agents have acquired (R165). An atomic's read is one step with its write. -/
def State.outReader (s : State) (r : Inbound) : Reader :=
  { Reader.agent ((Map.find? s.outSeen r.src).getD []) with rmw := if inAtomicKind r.kind then some (outPlace, 4) else none }

/-- A byte that a request reads is undefined: of a poisoned sector (R390), or in a race with an unpaired atomic write (R135). -/
def State.inFree (s : State) (r : Inbound) (l : Nat) : Bool := s.poison.contains (sectorOf l) || s.racing (s.outReader r) l 1

/-- A request reads some byte of a poisoned sector. -/
def State.inPoison (s : State) (xs : List (Nat × Nat)) : Bool := xs.any (fun x => (sectorsOf x.1 x.2).any s.poison.contains)

/-- The bytes that a request reads: undefined ones where it meets poison or a race. -/
def State.inBytes (s : State) (r : Inbound) (xs : List (Nat × Nat)) : List Byte :=
  ((xs.flatMap (fun x => s.fetchBy (s.outReader r) 64 x.1 x.2)).zip (spanLocs xs)).zipIdx.map (fun e =>
    if s.inFree r e.1.2 then Config.freeByte (s.freeCtr + e.2) else e.1.1)

/-- A read answered. -/
def State.answer (s : State) (r : Inbound) (xs : List (Nat × Nat)) : State :=
  if (spanLocs xs).any (s.inFree r) then { s with freeCtr := s.freeCtr + (spanLocs xs).length }.note (.answer r.src (s.inBytes r xs))
  else s.note (.answer r.src (xs.flatMap (fun x => s.fetchBy (s.outReader r) 64 x.1 x.2)))

/-- What a request acquires at its pieces, when it is an acquire (R133, R165). -/
def State.inHears (s : State) (r : Inbound) (xs : List (Nat × Nat)) : State :=
  if r.acq then xs.foldl (fun s x => s.outHears r.src x.1 x.2) s else s

/-- A write of the bytes of a request, piece by piece, which passes on what happens before it when it is a release (R133, R165). -/
def State.inStore (s : State) (r : Inbound) : List (Nat × Nat) → List Byte → State
  | [], _ => s
  | x :: xs, bs => (((s.storeAt 64 x.1 (bs.take x.2)).cleanse x.1 x.2).outTells r.src x.1 x.2 r.rel []).inStore r xs (bs.drop x.2)

/-- An atomic at a location: the old value is answered (R168), and its write goes on with the release sequences there (R133). In a poisoned
sector it reads nothing and writes nothing (R390). -/
def State.inAtomic (s : State) (r : Inbound) (l n : Nat) (f : Nat → Option Nat) : State :=
  let old := leNat (s.fetchBy (s.outReader r) 64 l n)
  let s1 := (s.answer r [(l, n)]).inHears r [(l, n)]
  if s.inPoison [(l, n)] then s1
  else match f old with
  | some x => (s1.storeAt 64 l (natLe n x)).outTells r.src l n r.rel (s.syncs.filter (fun y => overlap y.loc y.n l n))
  | none => s1.kick l n

/-- The operation of an `atom.*` of a peer's wave. -/
def peerOp : PeerOp → AtomOp
  | .add => .add
  | .min => .min
  | .max => .max
  | .and => .and
  | .or => .or
  | .xor => .xor
  | .inc => .inc
  | .fadd => .fadd

/-- An accepted request performed: its location is that of its first piece. -/
def State.inPerform (s : State) (r : Inbound) (xs : List (Nat × Nat)) : State :=
  let l := (xs.headD (0, 0)).1
  match r.kind with
  | .load _ => (s.answer r xs).inHears r xs
  | .fetch => s.answer r xs
  | .store bs => s.inStore r xs bs
  | .atomicOp op ty x => s.inAtomic r l 4 (fun old => atomNew (peerOp op) ty old x.toNat 0)
  | .atomicAdd n x => s.inAtomic r l n (fun old => some (old + x.toNat))
  | .atomicXchg n x => s.inAtomic r l n (fun _ => some x.toNat)
  | .atomicCas n e x => s.inAtomic r l n (fun old => if old = e.toNat % 256 ^ n then some x.toNat else none)

/-- A request that no window accepts, or that stage 2 does not translate, is refused: the requester sees the endpoint as unreachable, and
the hypervisor's ring is told (R259). Log entry 13: DESIGN CHOICE. -/
def State.refuseIn (s : State) (r : Inbound) : State :=
  (s.note (.refusedIn r.src r.addr)).postEvent 32 (natLe 4 r.src ++ natLe 4 0 ++ natLe 4 0 ++ natLe 4 0 ++ natLe 8 r.addr ++ natLe 8 0)

/-- INBOUND_REQUEST (R264). One that stage 2 gives no defined translation, or whose tables are not reached, gets no answer (R10). -/
def execInboundRequest (req : Inbound) (s : State) : Host.Outcome State Fault Refusal :=
  let (n, need) := inNeed req.kind
  if !s.fabricUp then .next s
  else match s.window req with
    | none => .next (s.refuseIn req)
    | some p => match s.inSpans p need (unitsOf n) (req.addr % 2 ^ 42) n with
      | .error .undef => .next s
      | .error (.mk _ _) => .next (s.refuseIn req)
      | .ok xs =>
        if decide (n = 0) || (inAtomicKind req.kind && decide (xs.length ≠ 1)) then .next (s.refuseIn req) else .next (s.inPerform req xs)

/-- An access leaves its wave: what it was still to write is full again. -/
def Wave.dropAccess (w : Wave) (a : Access) : Wave :=
  let ds := match a.dst with
    | some d => d.span a.nreg
    | none => []
  { w.setRegs (ds.foldl (fun r d => r.mark d false) w.st.regs) with inflight := w.inflight.filter (fun b => b.id ≠ a.id) }

/-- The threads of an access whose location lies with the endpoint of a location that did not answer; every issuing one of a uniform access. -/
def Access.awayAt (a : Access) (l : Nat) : Lanes :=
  if a.uni then a.threads else maskWhere ((a.pieces.filter (fun p => isPeer p.loc && decide (p.loc / 2 ^ 42 = l / 2 ^ 42))).map (·.t)) (fun _ => true)

/-- A wave's access raises TRF as a stage-2 fault, at its own instruction (R123, R168). Log entry 51: DEDUCED. -/
def State.lateFault (s : State) (u : Nat) (w : Wave) (a : Access) (fa : DWord) (l : Nat) : State :=
  let w1 := w.dropAccess a
  let lead := if w1.st.finished a.lead then w1.st.unfinished.head? else some a.lead
  match lead with
  | none => s.setWave u w1
  | some sl =>
    let w2 := { w1 with st := w1.st.updSlices (w1.st.gangOf sl) (fun _ x => { x with pc := a.pc, mac := a.mac, wait := none }) }
    (s.setWave u w2).takeTrap u sl { cause := .trf, mask := a.awayAt l, fa := fa, s2 := true, asy := false, unr := false }

/-- UNREACHABLE (R168, R263): a peer did not acknowledge a request of an access. While the wave is parked, this waits. -/
def execUnreachable (w acc : Nat) (s : State) : Host.Outcome State Fault Refusal :=
  match s.wave? w with
  | none => .next s
  | some x => match x.inflight.find? (fun a => decide (a.id = acc)) with
    | none => .next s
    | some a => match (a.pieces.find? (fun p => s.deafAt p.loc)).or (a.pieces.find? (fun p => isPeer p.loc)) with
      | none => .next s
      | some p =>
        let parked := match x.st.trap with
          | some t => !t.running
          | none => false
        if parked then .next s else .next (((s.note (.unreachable p.loc)).postEvent 32 (awayRecord p.va)).lateFault w x a (BitVec.ofNat 64 p.va) p.loc)

end Sys2Proof.Machine
end

