-- ==== Sys2Proof/Machine/Perform.lean ====
section
/-! DEFINITION. Accesses as they are performed: sectors that return, stores that reach their homes, walks that end (R44, R113, R115, R120, R130
to R137, R166 to R168, R390). -/

namespace Sys2Proof.Machine

/-! ### Order -/

/-- An earlier access and pieces of a later one meet at a location. -/
def Access.meets (b : Access) (ps : List Piece) : Bool := b.pieces.any (fun x => ps.any (fun p => overlap x.loc x.n p.loc p.n))

/-- An earlier access of a wave keeps pieces of a later one back: an acquire wider than `.core` any later one of the wave (R115, R166); and one
that happens before accesses of the later one's threads (R126) at a common location (R130), an acquire or a seq_cst, and any before a release or a seq_cst (R133, R136), but for a store
that has set out for a peer when the release is narrower than `.fab` (R167). A non-ordering atomic passes and is passed (R135). Log entry
4: DESIGN CHOICE. -/
def Access.holdsBack (b a : Access) (ps : List Piece) : Bool :=
  let both := !a.nonOrdering && !b.nonOrdering
  (both && b.acq && decide (b.scope ≥ 2))
  || (decide (b.reach &&& a.threads ≠ 0)
    && (b.meets ps || (both && (b.acq || b.sc || ((a.rel || a.sc) && !(b.sent.isSome && decide (a.scope ≠ 4)))))))

/-- A walk that an access waits for. -/
def State.walking (s : State) (w : Wave) (u acc : Nat) : Bool := (s.cluster (clusterOf w.core)).walks.any (fun k => k.joined.contains (u, acc))

/-- A store that set out for a peer earlier than a given place meets pieces. -/
def State.sentBefore (s : State) (k : Option Nat) (ps : List Piece) : Bool :=
  s.waves.any (fun e => e.2.inflight.any (fun b => match b.sent, k with
    | some n, some m => decide (n < m) && b.meets ps
    | some _, none => b.meets ps
    | none, _ => false))

/-- Pieces that go to a peer's home may be performed there: the ports carry requests, the endpoint acknowledges them, and the stores of the package
that set out for the location before are home (R130, R254, R263). A store that has not set out needs none of these. -/
def State.peerReady (s : State) (a : Access) (ps : List Piece) : Bool :=
  if a.isStore && a.sent.isNone then true
  else if ps.any (fun p => isPeer p.loc) then ps.all (fun p => s.reach p.loc) && (match a.op with
    | .load _ _ => true
    | .store _ | .atomic _ _ _ => !s.sentBefore a.sent ps)
  else true

/-- An `atom.cas` whose compares all fail is ordered as `lda` under the same order: it is no release (R277). -/
def State.asOrdered (s : State) (a : Access) (ps : List Piece) : Access :=
  match a.op with
  | .atomic .cas _ _ => if ps.all (fun p => decide (s.homeValue p.loc p.n ≠ p.data)) then { a with rel := false } else a
  | .atomic _ _ _ | .load _ _ | .store _ => a

/-- Pieces of an access may be performed now. -/
def State.mayPerform (s : State) (u : Nat) (w : Wave) (a : Access) (ps : List Piece) : Bool :=
  !ps.isEmpty && !s.walking w u a.id && s.peerReady a ps
  && (w.inflight.takeWhile (fun b => b.id ≠ a.id)).all (fun b => !b.holdsBack (s.asOrdered a ps) ps)

/-! ### Reading -/

/-- n bytes of a sector's value from a location on. -/
def sectorBytes (x : BitVec 256) (l n : Nat) : List Byte := (List.range n).map (fun i => x.extractLsb' (8 * ((l + i) % 32)) 8)

/-- n undefined bytes by the counter as it stands. Log entry 6: DESIGN CHOICE. -/
def State.freeNow (s : State) (n : Nat) : List Byte := (s.freeBytes n).1

/-- The bytes of a load's piece: what it read before, undefined ones in a race (R135), those of the core data cache where it holds the sector
(R115), else those of the home or the cluster's read copy. -/
def State.loadBytes (s : State) (u : Nat) (w : Wave) (a : Access) (p : Piece) : List Byte :=
  match p.got with
  | some x => natLe p.n x
  | none =>
    if s.racing (s.readerOf u w a p) p.loc p.n then s.freeNow p.n
    else match (if p.cache then Map.find? (s.core w.core).dcache (sectorOf p.loc) else none) with
      | some x => sectorBytes x p.loc p.n
      | none => s.fetchBy (s.readerOf u w a p) (clusterOf w.core) p.loc p.n

/-- Lines of 128 bytes that an L2 slice of 4 MiB holds, in 16 ways (R15). -/
abbrev peerLines : Nat := 32768

/-- The ways of an L2 slice that lines are kept in: the sixteenth holds the memory undo log (R15, R240). -/
abbrev peerWays : Nat := 15

/-- The set of a line, of 2,048, and the lines of read copies in it, the lowest first. Log entry 52: DEDUCED. -/
def peerSet (c : Map (BitVec 256)) (line : Nat) : List Nat :=
  ((c.map (fun e => e.1 / 4)).eraseDups).filter (fun x => decide (x % (peerLines / 16) = line % (peerLines / 16)))

/-- Read copies with one more sector: a line joins its set, from which the lowest other line leaves when its ways are full. Replacement is
not architectural (R115; log entry 11, DESIGN CHOICE). -/
def keepLine (c : Map (BitVec 256)) (k : Nat) (x : BitVec 256) : Map (BitVec 256) :=
  let ls := peerSet c (k / 4)
  let c1 := if ls.contains (k / 4) ∨ ls.length < peerWays then c else c.filter (fun e => decide (some (e.1 / 4) ≠ ls.head?))
  Map.insert c1 k x

/-- A cluster keeps a read copy of a peer's sector (R166). Log entry 52: DEDUCED. -/
def State.keepCopy (s : State) (cluster k : Nat) : State :=
  if (Map.find? (s.cluster cluster).peers k).isSome then s
  else
    let x : BitVec 256 := BitVec.ofNat 256 (leNat (s.fetchAt cluster (32 * k) 32))
    s.updCluster cluster (fun c => { c with peers := keepLine c.peers k x })

/-- What a load that was served leaves in the caches. Log entry 11: DESIGN CHOICE. -/
def State.keepSector (s : State) (w : Wave) (nt : Bool) (p : Piece) : State :=
  if nt || w.tp.isSome then s
  else if p.cache then s.fillSector w.core (sectorOf p.loc)
  else if isPeer p.loc then s.keepCopy (clusterOf w.core) (sectorOf p.loc)
  else s

/-- A value of n bytes as a 32-bit word, extended. -/
def extendLoad (sx : Bool) (n x : Nat) : Word := if n < 4 ∧ sx then trunc32 (signExt x (8 * n)) else BitVec.ofNat 32 x

/-- Registers that a piece fills. -/
abbrev Piece.regs (p : Piece) : Nat := (p.n + 3) / 4

/-- A piece's value written to its destination: word j to the j-th of its registers. -/
def Wave.land (w : Wave) (a : Access) (sx : Bool) (p : Piece) (x : Nat) : Wave :=
  match a.dst with
  | none => w
  | some (.v n) => ((List.range p.regs).foldl (fun w j => w.watchV (n + p.word + j) ((1 : Lanes) <<< p.t)) w).setRegs
      ((List.range p.regs).foldl (fun r j =>
        r.setV (n + p.word + j) ((1 : Lanes) <<< p.t) (fun _ => extendLoad sx p.n (x / 2 ^ (32 * j)))) w.st.regs)
  | some (.s n) => w.setRegs ((List.range p.regs).foldl (fun (r : Regs) j =>
      { r with s := r.s.setIfInBounds (n + p.word + j) (extendLoad sx p.n (x / 2 ^ (32 * j))) }) w.st.regs)

/-- The lowest poisoned address that pieces read. -/
def State.poisonedVa (s : State) (ps : List Piece) : Option Nat :=
  ps.foldl (fun b p => match s.poisonAt p.n p.loc with
    | none => b
    | some i => some (match b with
      | some x => min x (p.va + i)
      | none => p.va + i)) none

/-- A wave's access has read poison (R390): one UCE is held for it, with the lowest poisoned address that it has read, also where an earlier
one has been delivered. -/
def Wave.consumed (w : Wave) (a : Access) (va : Nat) : Wave :=
  let fa (x : Nat) : DWord := BitVec.ofNat 64 x
  let lo := min va (a.hurt.getD va)
  let w1 := { w with inflight := w.inflight.map (fun (b : Access) => if b.id = a.id then { b with hurt := some lo } else b) }
  match a.hurt with
  | none => w1.hold .uce (fa lo)
  | some old =>
    if w1.held.contains (Cause.uce, fa old, false) then
      { w1 with held := w1.held.map (fun x => if x = (Cause.uce, fa old, false) then (Cause.uce, fa lo, false) else x) }
    else w1.hold .uce (fa lo)

/-- A piece of a poisoned sector: its destination bytes are free, and extended as the load extends (R390). -/
def State.landFree (s : State) (u : Nat) (a : Access) (sx : Bool) (p : Piece) : State :=
  { s with freeCtr := s.freeCtr + p.n }.updWave u (fun w => w.land a sx p (leNat (s.freeNow p.n)))

/-- A load's piece performed. -/
def State.performLoad (s : State) (u : Nat) (w : Wave) (a : Access) (sx nt : Bool) (p : Piece) : State :=
  if (s.poisonAt p.n p.loc).isSome then s.landFree u a sx p
  else
    let x := leNat (s.loadBytes u w a p)
    ((({ s with freeCtr := s.freeCtr + p.n }).updWave u (fun w => w.land a sx p x)).seeQuantums u w a p).keepSector w nt p

/-- Pieces of a load performed, as their sector returns. -/
def State.performLoads (s : State) (u : Nat) (w : Wave) (a : Access) (sx nt : Bool) (ps : List Piece) : State :=
  let s1 := ps.foldl (fun s p => s.performLoad u w a sx nt p) s
  match s.poisonedVa ps with
  | none => s1
  | some va => s1.updWave u (fun w => w.consumed a va)

/-! ### Atomics -/

/-- What a read of a piece leaves for the thread's later quantum atomics there (R130, R135): a quantum one's own place among those `before`, or those
that any other found. -/
def State.noteRead (s : State) (u : Nat) (w : Wave) (a : Access) (before : List QOp) (old : Nat) (p : Piece) : State :=
  if a.isQuantum then s.noteQuantum u w a before old p else if a.reads then s.seeQuantums u w a p else s

/-- What an atomic's read gives (R135): a free value when it is speculative, or races with an unpaired write; for a quantum one the value
chosen of those that an interleaving of the racing quantum atomics gives; else the old value. -/
def State.atomRead (s : State) (u : Nat) (w : Wave) (a : Access) (use : Nat) (p : Piece) : Nat :=
  if use = 4 then leNat (s.freeNow p.n)
  else match p.got with
    | some x => x
    | none => if s.racing (s.readerOf u w a p) p.loc p.n then leNat (s.freeNow p.n) else s.homeValue p.loc p.n

/-- An atomic's piece performed at its home, as one step (R128, R168, R276). -/
def State.performAtomic (s : State) (u : Nat) (w : Wave) (a : Access) (op : AtomOp) (ty use : Nat) (p : Piece) : State :=
  let drop (s : State) : State := if w.tp.isSome then s else (s.dropLine w.core p.loc).refreshCopy w.core p.loc p.n
  match s.poisonAt p.n p.loc with
  | some i => drop (((s.noEvent u a p).landFree u a false p).updWave u (fun w => w.consumed a (p.va + i)))
  | none =>
    let old := s.homeValue p.loc p.n
    let s1 := ({ s with freeCtr := s.freeCtr + p.n }).updWave u (fun w => w.land a false p (s.atomRead u w a use p))
    let s2 := s1.atomHears u w a use p
    let qs := s2.quantsAt p.loc p.n
    match atomNew op ty old p.data p.data2 with
    | none => drop (((s2.noEvent u a p).noteRead u w a qs old p).kick p.loc p.n)
    | some x =>
      let ys := s2.syncs.filter (fun y => overlap y.loc y.n p.loc p.n)
      drop ((((s2.storeAt (clusterOf w.core) p.loc (natLe p.n x)).lastEvent u a p).atomTells u w a use ys p).noteRead u w a qs old p)

/-- A quantum atomic's operation on a value. -/
def QOp.apply (x : Nat) (q : QOp) : Nat := (atomNew q.op q.ty x q.data q.data2).getD x

/-- A quantum atomic's piece in place k reads what an interleaving of the racing quantum atomics gives (R135), in which those of a list come before
it: from what the location held before the first of those that have been performed since it was last written otherwise. An interleaving keeps
every agent's program order and what happens before what (R130). -/
def State.quantumRead (s : State) (u acc k : Nat) (via : List QName) : State :=
  match s.wave? u with
  | none => s
  | some w => match w.inflight.find? (fun a => decide (a.id = acc)) with
    | none => s
    | some a => match a.pieces[k]? with
      | none => s
      | some p =>
        let done := s.quantsAt p.loc p.n
        let all := done ++ s.quantsToCome p.loc p.n
        let before := via.filterMap (fun x => all.find? (fun q => decide (q.name = x)))
        let me := a.qop s u w s.nextEv 0 p []
        if !a.isQuantum || !a.reads || decide (before.length ≠ via.length) || !quantumOrder all before || !quantumView all before me then s
        else
          let base := ((done.head?).map (·.old)).getD (s.homeValue p.loc p.n)
          s.setWave u { w with inflight := w.inflight.map (fun (b : Access) => if b.id = acc then
            { b with pieces := b.pieces.modify k (fun q => { q with got := some (before.foldl QOp.apply base), saw := via }) } else b) }

/-! ### The happenings -/

/-- An access whose pieces are all performed: its registers become full, and an acquire takes effect (R115, R133). -/
def State.finishAccess (s : State) (u : Nat) (a : Access) (rest : List Piece) : State :=
  if rest.isEmpty then
    let s1 := s.updWave u (fun w => w.dropAccess a)
    if a.acq then
      (match s1.wave? u with
        | some w => s1.acquire w.core a.scope
        | none => s1)
    else s1
  else s.updWave u (fun w => { w with inflight := w.inflight.map (fun (b : Access) => if b.id = a.id then { b with pieces := rest } else b) })

/-- The pieces of a load in its k-th distinct sector. -/
def sectorPieces (ps : List Piece) (k : Nat) : List Piece :=
  match ((ps.map (fun p => sectorOf p.loc)).eraseDups)[k]? with
  | some x => ps.filter (fun p => decide (sectorOf p.loc = x))
  | none => []

/-- SECTOR_RETURN (R44, R113): a sector of a load returns, or one access of an atomic is performed. -/
def execSectorReturn (w acc k : Nat) (s : State) : Host.Outcome State Fault Refusal :=
  match s.wave? w with
  | none => .next s
  | some x => match x.inflight.find? (fun a => decide (a.id = acc)) with
    | none => .next s
    | some a => match a.op with
      | .store _ => .next s
      | .load sx nt =>
        let ps := sectorPieces a.pieces k
        if s.mayPerform w x a ps then
          .next ((s.performLoads w x a sx nt ps).finishAccess w a (a.pieces.filter (fun p => !ps.contains p)))
        else .next s
      | .atomic op ty use =>
        let ps := (a.pieces[k]?).toList
        if op ≠ .write ∧ s.mayPerform w x a ps then
          .next ((ps.foldl (fun s p => s.performAtomic w x a op ty use p) s).finishAccess w a (a.pieces.eraseIdx k))
        else .next s

/-- The sectors that pieces cover whole between them. -/
def coveredSectors (ps : List Piece) : List Nat :=
  ((ps.map (fun p => sectorOf p.loc)).eraseDups).filter (fun k =>
    (List.range 32).all (fun i => ps.any (fun p => decide (p.loc ≤ 32 * k + i ∧ 32 * k + i < p.loc + p.n))))

/-- A store's piece performed: logged for rollback when the store is ordinary, then made at its home and, where present, in the core data
cache; an atomic's drops the line instead (R115, R240). One that comes home to a peer changed the cluster's read copies when it set out. -/
def State.performStore (s : State) (u : Nat) (w : Wave) (a : Access) (p : Piece) : State :=
  let bs := natLe p.n p.data
  if w.tp.isSome || a.sent.isSome then s.storeAt 64 p.loc bs
  else match a.op with
    | .store _ | .load _ _ => ((s.logStore u p.loc p.n).coreStore w.core p.loc bs).eventA u w a p
    | .atomic _ _ use =>
      ((((s.storeAt (clusterOf w.core) p.loc bs).dropLine w.core p.loc).lastEvent u a p).atomTells u w a use [] p).noteRead u w a (s.quantsAt p.loc p.n)
        (s.homeValue p.loc p.n) p

/-- A store with pieces for peers reaches its cluster's L2 slice: its other pieces are performed, and those are on their way, visible in the
package from now on; the cluster's read copies are updated (R166, R167). Log entry 61: DEDUCED. -/
def State.sendStores (s : State) (u : Nat) (w : Wave) (a : Access) : State :=
  let away := a.pieces.filter (fun p => isPeer p.loc)
  let here := a.pieces.filter (fun p => !isPeer p.loc)
  let s1 := here.foldl (fun s p => s.performStore u w a p) s
  let s2 := away.foldl (fun s p => s.mergeCopies (clusterOf w.core) p.loc (natLe p.n p.data)) (s1.heal (coveredSectors here))
  { s2 with sends := s2.sends + 1 }.updWave u (fun w => { w with inflight := w.inflight.map (fun (b : Access) => if b.id = a.id then
    { b with pieces := away, sent := some s2.sends } else b) })

/-- The pieces of a store performed, in the order of the threads, or on their way to a peer's home (R379). Log entry 21: DESIGN CHOICE. -/
def State.performStores (s : State) (u : Nat) (w : Wave) (a : Access) : State :=
  if a.isStore && a.sent.isNone && a.pieces.any (fun p => isPeer p.loc) then s.sendStores u w a
  else ((a.pieces.foldl (fun s p => s.performStore u w a p) s).heal (coveredSectors a.pieces)).finishAccess u a []

/-- A piece of a store that sets out for a peer ahead of the others becomes an access of its own, before the rest (R129). -/
def State.sendPiece (s : State) (u : Nat) (w : Wave) (a : Access) (k : Nat) (p : Piece) : State :=
  let x : Access := { a with id := w.nextAcc, pieces := [p], sent := some s.sends }
  let s1 := s.mergeCopies (clusterOf w.core) p.loc (natLe p.n p.data)
  { s1 with sends := s1.sends + 1 }.updWave u (fun w => { w with
    nextAcc := w.nextAcc + 1,
    inflight := w.inflight.flatMap (fun (b : Access) => if b.id = a.id then [x, { b with pieces := b.pieces.eraseIdx k }] else [b]) })

/-- One piece of an access ahead of the others: of an ordinary one (R129), where no poison is met, a load's is read, and a store's performed,
or sent towards a peer's home; and of an atomic store, whose accesses come in any order (R212). A store's piece does not pass one of a lower
thread at a common byte (R379). -/
def State.pieceAhead (s : State) (u acc k : Nat) : State :=
  match s.wave? u with
  | none => s
  | some w => match w.inflight.find? (fun a => decide (a.id = acc)) with
    | none => s
    | some a => match a.pieces[k]? with
      | none => s
      | some p =>
        let late := (a.pieces.take k).any (fun x => overlap x.loc x.n p.loc p.n)
        if !s.mayPerform u w a [p] || (sectorsOf p.loc p.n).any (fun x => s.poison.contains x) then s
        else match a.op with
          | .atomic op _ _ => if op = .write then (s.performStore u w a p).finishAccess u a (a.pieces.eraseIdx k) else s
          | .store _ =>
            if late then s
            else if isPeer p.loc && a.sent.isNone then (if a.pieces.length ≤ 1 then s else s.sendPiece u w a k p)
            else (s.performStore u w a p).finishAccess u a (a.pieces.eraseIdx k)
          | .load _ _ => { s with freeCtr := s.freeCtr + p.n }.setWave u { w with inflight := w.inflight.map (fun (b : Access) => if b.id = acc then
              { b with pieces := b.pieces.modify k (fun q => { q with got := some (leNat (s.loadBytes u w a p)) }) } else b) }

/-- A read in flight, of the piece in place k, races with an unpaired atomic write that is still to come: its value is undefined (R135), and the
agenda owes it that write from now on: a run at whose end a write is owed is none of the machine's. Log entry 22: DEDUCED. -/
def State.racedRead (s : State) (u acc k : Nat) : State :=
  match s.wave? u with
  | none => s
  | some w => match w.inflight.find? (fun a => decide (a.id = acc)) with
    | none => s
    | some a => match a.pieces[k]? with
      | none => s
      | some p =>
        if !a.reads || p.got.isSome then s
        else
          let o : Owed := { id := s.nextEv, loc := p.loc, n := p.n, src := u, ts := a.agents p, acc := acc,
                            rmw := if a.isRmw then some (w.place u, a.scope) else none }
          let free (q : Piece) : Piece := { q with got := some (leNat (s.freeNow q.n)) }
          { s with freeCtr := s.freeCtr + 16, nextEv := s.nextEv + 1, owed := s.owed ++ [o] }.setWave u { w with
            inflight := w.inflight.map (fun (b : Access) => if b.id = acc then { b with pieces := b.pieces.modify k free } else b) }

/-- STORE_PERFORMED (R137): a store, or an atomic write, reaches its L2 slice, its buffer or its peer's home. -/
def execStorePerformed (w acc : Nat) (s : State) : Host.Outcome State Fault Refusal :=
  match s.wave? w with
  | none => .next s
  | some x => match x.inflight.find? (fun a => decide (a.id = acc)) with
    | none => .next s
    | some a =>
      let mine := match a.op with
        | .store _ => true
        | .atomic op _ _ => decide (op = .write)
        | .load _ _ => false
      if mine && s.mayPerform w x a a.pieces then .next (s.performStores w x a) else .next s

/-- RANGE_WALK_COMPLETE (R120): one of the 32 outstanding walks ends and fills the range caches; the accesses joined to it go on. -/
def execRangeWalkComplete (cluster i : Nat) (s : State) : Host.Outcome State Fault Refusal :=
  match ((s.cluster cluster).walks.take 32)[i]? with
  | none => .next s
  | some k =>
    .next (k.cores.foldl (fun s c => s.fillCaches c [k.ent]) (s.updCluster cluster (fun x => { x with walks := x.walks.eraseIdx i })))

end Sys2Proof.Machine
end

