-- ==== Sys2Proof/Machine/Sched.lean ====
section
/-! DEFINITION. What happens next: the agenda, else what is due and the oldest ready gang in turn (R45; log entry 3, DESIGN CHOICE). -/

namespace Sys2Proof.Machine

/-- What a step does: the meaning of an instruction in a machine, or a change that no instruction makes. -/
inductive Choice where
  /-- run the instruction -/
  | run (i : Instr) (s : State)
  /-- the step is this change alone -/
  | done (s : State)

/-! ### Gangs -/

/-- The leading slices of a wave's gangs, lowest first. -/
def WaveCore.leads (w : WaveCore) : List Nat := w.unfinished.filter (fun i => decide ((w.gangOf i).head? = some i))

/-- A gang has waited 256 cycles of its quad without dispatch (R45). -/
def Wave.isStarved (w : Wave) (sl : Nat) : Bool := decide ((Map.find? w.starved sl).getD 0 ≥ waitBound)

/-- A gang is ready and has starved. -/
def State.starving (s : State) (w : Wave) (sl : Nat) : Bool := s.ready w sl && w.isStarved sl

/-- The waves of a quad in creation order. Trailhead's own processors issue by the agenda alone. -/
def State.wavesOfQuad (s : State) (core quad : Nat) : List (Nat × Wave) :=
  s.waves.filter (fun e => e.2.tp.isNone && decide (e.2.core = core ∧ e.2.quad = quad))

/-- The wave that a quad chooses: one with a gang that has starved, else the oldest with a ready one (R45). -/
def State.quadPick (s : State) (core quad : Nat) : Option Nat :=
  let here := s.wavesOfQuad core quad
  match here.find? (fun e => e.2.st.leads.any (s.starving e.2)) with
  | some e => some e.1
  | none => (here.find? (fun e => e.2.st.leads.any (s.ready e.2))).map (·.1)

/-- The instruction of a fetched word, or its rejection (R68). -/
def instrOf (x : Word) : Instr :=
  match decodeWord x with
  | .ok i => i
  | .error _ => .unassignedOpcode x

/-- The instruction at a gang's PC. -/
def State.pcInstr (s : State) (w : Wave) (sl : Nat) : Option Instr :=
  match s.fetch w sl with
  | .word x _ => some (instrOf x)
  | .stuck | .fault _ => none

/-- The instruction that a gang issues next: an operation of its macro, or what stands past a macro that is over (R339). -/
def State.nextInstr (s : State) (w : Wave) (sl : Nat) : Option Instr :=
  match (w.st.slice sl).mac with
  | some m =>
    if s.macOver w sl then s.pcInstr (w.leaveMac sl) sl
    else some (instrOf (substWord m.p1 m.p2 ((s.core w.core).macWord m.m m.i)))
  | none => s.pcInstr w sl

/-- An operand of the lane pipelines: a varying register or predicate. -/
def laneOp (o : Operand) : Bool := decide (clsOf o = .vary ∨ clsOf o = .vpred)

/-- The instruction goes to a pipeline set, not to the uniform or affine datapath: the class of its destination selects (R31, R40), for an
atomic store that of D (R380). A store or a prefetch that each thread makes goes to a pipeline set as well, and so do `brv`, `cnv` and `exit`, by
which each slice goes on by itself: 18_balance.md has `cnv` and `exit` of parted slices in one cycle, and a `regang` at the draw of the uniform
datapath. Log entry 68: DESIGN CHOICE. -/
def onLanes (i : Instr) : Bool :=
  match i with
  | .add d _ _ | .sub d _ _ | .mul d _ _ | .mulh d _ _ | .mad d _ _ | .min d _ _ | .max d _ _ | .and d _ _ | .or d _ _ | .xor d _ _
  | .shl d _ _ | .shr d _ _ | .sar d _ _ | .rot d _ _ | .bfx d _ _ | .bfi d _ _ | .fadd d _ _ | .fsub d _ _ | .fmul d _ _ | .fma d _ _
  | .fmin d _ _ | .fmax d _ _ | .cmpEq d _ _ | .cmpNe d _ _ | .cmpLt d _ _ | .cmpLe d _ _ | .cmpGt d _ _ | .cmpGe d _ _ | .fcmpEq d _ _
  | .fcmpNe d _ _ | .fcmpLt d _ _ | .fcmpLe d _ _ | .fcmpGt d _ _ | .fcmpGe d _ _ | .fcmpUn d _ _ | .cvt d _ _ | .cvt8 d _ _ | .bsq d _ _
  | .shflIdx d _ _ | .shflUp d _ _ | .shflDn d _ _ | .shflXor d _ _ | .scan d _ _ | .scanx d _ _ | .sel d _ _ | .rdlane d _ _
  | .wrlane d _ _ | .mkaff d _ _ => laneOp d
  | .mov d _ | .promo d _ | .neg d _ | .abs d _ | .clz d _ | .popc d _ | .brev d _ | .not d _ | .fabs d _ | .fneg d _ | .bsc d _
  | .exp2 d _ | .log2 d _ | .rcp d _ | .rsq d _ | .sqrt d _ | .sin d _ | .cos d _ | .tanh d _ | .sigm d _ | .voteAny d _ | .voteAll d _
  | .voteBal d _ | .redAdd d _ | .redMin d _ | .redMax d _ | .matchKey d _ => laneOp d
  | .movi d _ | .movh d _ | .recChild d => laneOp d
  | .ld d _ _ _ _ _ | .ldu d _ _ _ _ _ | .lda d _ _ | .sta d _ _ | .atomAdd d _ _ _ | .atomMin d _ _ _
  | .atomMax d _ _ _ | .atomAnd d _ _ _ | .atomOr d _ _ _ | .atomXor d _ _ _ | .atomXchg d _ _ _ | .atomCas d _ _ _ | .atomFadd d _ _ _
  | .atomInc d _ _ _ => laneOp d
  | .st _ _ _ _ _ | .pf _ _ _ _ | .brv _ _ | .cnv | .exit => true
  | _ => false

/-- The registers that a load marks empty. An `atom.*`, which R275 makes a load for R44 and R124, counts as one for R125 too. Log entry 68:
DESIGN CHOICE. -/
def loadRegs (i : Instr) : List Dst :=
  match i with
  | .ld d _ _ sz _ _ => (dstOf d).toList.flatMap (·.span (sizeRegs sz))
  | .lda d _ _ | .atomAdd d _ _ _ | .atomMin d _ _ _ | .atomMax d _ _ _ | .atomAnd d _ _ _ | .atomOr d _ _ _ | .atomXor d _ _ _
  | .atomXchg d _ _ _ | .atomCas d _ _ _ | .atomFadd d _ _ _ | .atomInc d _ _ _ => (dstOf d).toList
  | _ => []

/-- The gang's next instruction takes a pipeline set; one that has none to issue takes neither datapath's place, and goes alone. -/
def State.onLanes (s : State) (w : Wave) (sl : Nat) : Bool := ((s.nextInstr w sl).map Machine.onLanes).getD false

/-- The gangs that one dispatch takes of a wave's in line: the first, and with it, when it goes to a pipeline set, the others that go there, no
two of which load one register (R31, R125). -/
def State.packed (s : State) (w : Wave) (ls : List Nat) : List Nat :=
  match ls with
  | [] => []
  | i :: r =>
    if !s.onLanes w i then [i]
    else ((i :: r.filter (s.onLanes w)).foldl (fun (p : List Nat × List Dst) i =>
      let ds := ((s.nextInstr w i).map loadRegs).getD []
      if ds.any p.2.contains then p else (p.1 ++ [i], p.2 ++ ds)) ([], [])).1

/-- The gangs of a wave that may be chosen: those that have starved first, then the lowest slice first (R45). -/
def State.inLine (s : State) (w : Wave) : List Nat :=
  let ls := w.st.leads.filter (s.ready w)
  ls.filter w.isStarved ++ ls.filter (fun i => !w.isStarved i)

/-- One dispatch of a quad: of the wave that it chooses, what goes together, and one instruction of another wave whose first in line takes the other
datapath: of one that has starved, else of the oldest (R31, R45). -/
def State.quadRound (s : State) (core quad : Nat) : List (Nat × Nat) :=
  match (s.quadPick core quad).bind (fun u => (s.wave? u).map (fun w => (u, w))) with
  | none => []
  | some (u, w) =>
    let lane := s.onLanes w ((s.inLine w).headD 0)
    let fits (e : Nat × Wave) : Bool := decide (e.1 ≠ u) && (match s.inLine e.2 with
      | [] => false
      | i :: _ => s.onLanes e.2 i != lane && (s.nextInstr e.2 i).isSome)
    let all := (s.wavesOfQuad core quad).filter fits
    let other : List (Nat × Nat) := match (all.find? (fun e => e.2.isStarved ((s.inLine e.2).headD 0))).or all.head? with
      | some e => (s.packed e.2 (s.inLine e.2)).map (fun i => (e.1, i))
      | none => []
    (s.packed w (s.inLine w)).map (fun i => (u, i)) ++ other

/-- One dispatch of every quad that holds a wave. -/
def State.round (s : State) : List (Nat × Nat) :=
  let quads := ((s.waves.filter (fun e => e.2.tp.isNone)).map (fun e => (e.2.core, e.2.quad))).eraseDups
  quads.flatMap (fun e => s.quadRound e.1 e.2)

/-- The gang that issues next when nothing else comes first. -/
def State.oldest (s : State) : Option (Nat × Nat) := s.round.head?

/-- STARVATION_PRIORITY (R45): a gang that has starved is chosen before every other. -/
def execStarvationPriority (w sl : Nat) (s : State) : Host.Outcome State Fault Refusal :=
  match s.wave? w with
  | none => .next s
  | some x => if s.starving x sl then .next { s with agenda := .issue w sl :: s.agenda } else .next s

/-! ### What comes before a wave's next instruction -/

/-- A gang that waits for what it will try again, or sleeps: an asynchronous cause finds it before its next instruction (R376). One whose instruction
has issued waits for others in it (R153, R159). -/
def Wait.mayTake : Option Wait → Bool
  | none => true
  | some x => match x with
    | .stall | .retry | .regang _ | .ckpt => true
    | .handle _ | .baton | .recRun _ _ | .barrier _ | .hyper | .returned => false

/-- The machine after the delivery of a held asynchronous cause, when one can be delivered (R233, R250): before the next instruction of the
wave. While its lowest gang waits for others in an instruction that is done, and no other gang can issue, the wave has none. Log entry 26:
DEDUCED. -/
def State.deliverHeld (s : State) (u : Nat) (w : Wave) : Option State :=
  match w.held, w.st.unfinished with
  | (x, fa, unr) :: rest, sl :: _ =>
    if w.st.trap.isSome || w.ending || !s.coreRuns w then none
    else if Wait.mayTake (w.st.slice sl).wait || w.st.leads.any (s.canIssue w) then
      let w1 := { w with held := rest }
      some ((s.setWave u w1).takeAsync u w1 x fa unr)
    else none
  | _, _ => none

/-- What checkpoints ask for before a wave's next instruction: the attempts of its core when its count has passed a multiple, the checkpoint that
unpins it, or that of an attempt that has waited 1,024 cycles (R238, R241). -/
def State.dueCheckpoint (s : State) (u : Nat) (w : Wave) : Option Instr :=
  if !w.plain then none
  else if (s.core w.core).attemptDue then some (.checkpointAttempt w.core)
  else if w.pinned && s.clean u then some (.pinnedCheckpoint u)
  else if (w.attempt.getD 0) ≥ 1024 && s.clean u then some (.checkpointAttemptTimeout u)
  else none

/-- What comes before a wave's next instruction. -/
def State.before (s : State) (u : Nat) (w : Wave) : Option Choice :=
  match s.deliverHeld u w with
  | some t => some (.done t)
  | none => (s.dueCheckpoint u w).map (fun i => .run i s)

/-! ### Issue -/

/-- The machine in which a gang acts; it starves no longer. -/
def State.dispatch (s : State) (u sl : Nat) (w : Wave) : State :=
  { s.setWave u { w with starved := w.starved.filter (fun e => !(w.st.gangOf sl).contains e.1) } with act := some (u, sl) }

/-- A gang fetches at its PC and issues (R51). -/
def State.pcIssue (s : State) (u sl : Nat) (w : Wave) : Choice :=
  match s.fetch w sl with
  | .fault _ => .run .fetchFault s
  | .stuck => .done (s.block u sl .stall)
  | .word x s' => .run (instrOf x) s'

/-- A gang issues an operation of its macro; past the last one, what stands after the `mcall` (R339). -/
def State.fetchIssue (s : State) (u sl : Nat) (w : Wave) : Choice :=
  match (w.st.slice sl).mac with
  | some m =>
    if s.macOver w sl then (s.updWave u (fun w => w.leaveMac sl)).pcIssue u sl (w.leaveMac sl)
    else .run (instrOf (substWord m.p1 m.p2 ((s.core w.core).macWord m.m m.i))) s
  | none => s.pcIssue u sl w

/-- The gang led by a slice issues, after what comes before. -/
def State.issueGang (s : State) (u sl : Nat) : Choice :=
  match s.wave? u with
  | none => .done s
  | some w =>
    match s.before u w with
    | some c => c
    | none => if !s.canIssue w sl then .done s else (s.dispatch u sl w).fetchIssue u sl w

/-! ### What is due without the agenda -/

/-- A request of an access to a peer has gone out, and its endpoint does not acknowledge it (R263); a parked wave's waits. -/
def State.unanswered (s : State) (w : Wave) (a : Access) : Bool :=
  let parked := match w.st.trap with
    | some t => !t.running
    | none => false
  !s.deaf.isEmpty && !parked && !(a.isStore && a.sent.isNone) && a.pieces.any (fun p => s.deafAt p.loc)
  && (w.inflight.takeWhile (fun b => b.id ≠ a.id)).all (fun b => !b.holdsBack a a.pieces)

/-- An access of a wave that can go on. -/
def State.dueAccess (s : State) (u : Nat) (w : Wave) : Option Instr :=
  w.inflight.findSome? (fun a => if s.unanswered w a then some (.unreachable u a.id) else match a.op with
    | .store _ => if s.mayPerform u w a a.pieces then some (.storePerformed u a.id) else none
    | .load _ _ =>
      ((List.range a.pieces.length).find? (fun k => s.mayPerform u w a (sectorPieces a.pieces k))).map (fun k => .sectorReturn u a.id k)
    | .atomic op _ _ =>
      if op = .write then (if s.mayPerform u w a a.pieces then some (.storePerformed u a.id) else none)
      else ((List.range a.pieces.length).find? (fun k => s.mayPerform u w a (a.pieces[k]?).toList)).map (fun k => .sectorReturn u a.id k))

/-- What is due of a wave. -/
def State.dueWave (s : State) (u : Nat) (w : Wave) : Option Choice :=
  match s.before u w with
  | some c => some c
  | none =>
    if w.ending && w.inflight.isEmpty then some (.run (.waveEnd u) s)
    else if w.atCkpt.isSome && s.clean u then some (.done (s.endCkpt u))
    else (s.dueAccess u w).map (fun i => .run i s)

/-- What is due of a core: its attempts, its engine, its run, its throttles. -/
def State.dueCore (s : State) (core : Nat) (k : CoreSt) : Option Instr :=
  let eng : Option Instr := if !s.clocked core then none else match k.eng with
    | [] => none
    | o :: _ => match o.kind with
      | .load _ _ => if o.started then some (.bankLoadComplete core) else k.loadReady.map (fun _ => .bankLoadStart core)
      | .word _ _ _ _ _ _ _ _ => if o.started then some (.mmaWordComplete core) else none
      | .zero _ => some (.mzeroComplete core)
      | .norm _ _ => some (.mnormComplete core)
  let call : Option Instr := if !s.clocked core then none else k.run.bind (fun r => (r.snaps.zipIdx.find? (fun e => match s.wave? e.1.w with
      | some x => s.mayCall r e.1.w x && (r.nextCall e.2).isSome
      | none => false)).map (fun e => .routineCall core e.1.w))
  let words : Option Instr := if !s.clocked core then none else ((List.range 2).find? (fun h => (k.wordReady h).isSome)).map (fun h => .mmaWordStart core h)
  let thr : Option Instr := if k.pendUp then some (.throttle (colOf core) (layerOf core))
    else if k.pendDn then some (.throttle (colOf core) (layerOf core - 1)) else none
  let tries : Option Instr := if k.attemptDue && s.clocked core then some (.checkpointAttempt core) else none
  (tries.or (words.or eng)).or (call.or thr)

/-- The first of some happenings that changes the machine: one that still waits for something leaves its turn to the next. -/
def State.firstMove (s : State) (l : List (Instr × (State → Host.Outcome State Fault Refusal))) : Option Instr :=
  (l.find? (fun e => decide (nextOr s (e.2 s) ≠ s))).map (·.1)

/-- What is due of a copy queue: its header, the ends of its packets, a SIGNAL whose turn has come, and its head packet. -/
def State.dueCopy (s : State) (q : Nat) (x : Queue) : Option Instr :=
  let ends := (x.jobs.filter (fun j => j.acted)).map (fun j =>
    if j.fill.isSome then (Instr.fillComplete q j.idx, execFillComplete q j.idx) else (.packetComplete q j.idx, execPacketComplete q j.idx))
  let head := match s.cqHead? q x with
    | none => []
    | some b =>
      let k := (packetOf b).kind
      [if k = 1 then (Instr.copy q, execCopy q) else if k = 2 then (.fill q, execFill q) else if k = 3 then (.reduceCopy q, execReduceCopy q)
        else if k = 4 then (.copySignal q, execCopySignal q) else (.copyVoid q, execCopyVoid q)]
  s.firstMove ((.headerLineChange q, execHeaderLineChange q) :: ends ++ (.copySignal q, execCopySignal q) :: head)

/-- A graph of a key has no run running or pending. -/
def State.graphFree (s : State) (key : Nat) : Bool :=
  match Map.find? s.graphs key with
  | some g => g.run.isNone && g.pending.isEmpty
  | none => true

/-- What is due of a work queue: a SIGNAL whose turn has come, else its next packet. -/
def State.dueWork (s : State) (q : Nat) (x : Queue) : Option Instr :=
  let wait : List (Instr × (State → Host.Outcome State Fault Refusal)) :=
    if (x.jobs.head?.map (fun j => j.launch.isNone)).getD false then [(.workSignal q, execWorkSignal q)] else []
  let next : List (Instr × (State → Host.Outcome State Fault Refusal)) := match s.nextPacket x with
    | none => []
    | some (_, b) =>
      let k := workKind b
      if x.fwd.isSome then [(.forwardingQueuePacket q, execForwardingQueuePacket q)]
      else if k = 1 then [(.launch q, execLaunch q)]
      else if k = 2 then [(.workSignal q, execWorkSignal q)]
      else if k = 3 then (if workMalformed b || s.graphFree (graphKey x.owner (pkField b 24 2)) then [(.gload q, execGload q)] else [])
      else [(.workVoid q, execWorkVoid q)]
  s.firstMove (wait ++ next)

/-- What is due of a service queue. -/
def State.dueSvc (s : State) (q : Nat) (x : Queue) : Option Instr :=
  (s.head? x).bind (fun b =>
    let o := svcOp b
    s.firstMove [if o = 2 then (Instr.qset q, execQset q) else if o = 3 then (.peek q, execPeek q) else if o = 4 then (.resolve q, execResolve q)
      else if o = 5 then (.kill q, execKill q) else if o = 6 then (.zero q, execZero q) else (.qreg q, execQreg q)])

/-- A node of a run can start. -/
def State.nodeDue (s : State) (part gid : Nat) (g : Graph) (r : GraphRun) (n : Nat) : Bool :=
  let b := nodeBytes g.image n
  !r.started.contains n && (edgesOf g.image).all (fun e => decide (e.2 ≠ n) || r.done.contains e.1)
  && (if pkField b 4 4 % 4 = 0 then !workMalformed b && (s.launchOf part g.space g.tvec b (.node part gid n)).toOption.isSome
      else (s.postNode part gid n b).isSome)

/-- What is due of a graph. -/
def State.dueGraph (s : State) (key : Nat) (g : Graph) : Option Instr :=
  let part := key / 65536
  let gid := key % 65536
  match g.run with
  | none => s.firstMove [(.graphRunStart part gid, execGraphRunStart part gid)]
  | some r =>
    if (List.range (nodesOf g.image)).all (fun n => r.done.contains n) then s.firstMove [(.graphRunEnd part gid, execGraphRunEnd part gid)]
    else ((List.range (nodesOf g.image)).find? (fun n => s.nodeDue part gid g r n)).map (fun n => .graphNodeStart part gid n)

/-- What is due of a launch. -/
def State.dueLaunch (s : State) (n : Nat) (l : Launch) : Option Instr :=
  if !l.waits && decide (l.running = 0) then some (.launchComplete n)
  else if l.waits && corOf l.bytes && decide (s.waited l ≥ 16) && !l.reserved then some (.coresidentReservation n)
  else none

/-- What is due of Trailhead, while it does not replay a journal (R195 to R208, R211, R259). -/
def State.dueTrailhead (s : State) : Option Instr :=
  if s.takeover then some .takeOver
  else
    let kick : Option Instr := s.firstMove (s.kicks.map (fun q => (.workQueueRead q, execWorkQueueRead q)))
    let svc : Option Instr := s.svcQs.findSome? (fun e => s.dueSvc e.1 e.2)
    let work : Option Instr := s.workQs.findSome? (fun e => s.dueWork e.1 e.2)
    let graph : Option Instr := s.graphs.findSome? (fun e => s.dueGraph e.1 e.2)
    let launch : Option Instr := s.launches.findSome? (fun e => s.dueLaunch e.1 e.2)
    let idle := decide (s.decisions ≠ 0) && (s.advanceable s.turn).isEmpty
    let place : Option Instr := if idle || (List.range 32).any (fun p => !(s.advanceable p).isEmpty) then some .placementDecision else none
    ((((kick.or svc).or work).or graph).or launch).or place

/-- A store of Trailhead to a peer that can be made now, or that its endpoint does not acknowledge; a store to TRIG whose list can be read again;
a record for an event ring that can be reached again; a run of the unfolding engine that can go on (R180, R204, R211, R254, R263). -/
def State.dueHeld (s : State) : Option Choice :=
  let may (i : Nat) : Bool := match s.heldStores[i]? with
    | some (loc, _) => isPeer loc && s.fabricUp && !s.spansWait [(loc, 8)]
    | none => false
  let th : Option Choice := if s.takeover then none
    else match (List.range s.heldStores.length).find? may with
      | some i => some (.done (s.heldStore i true))
      | none => if s.heldTrigs.any (fun e => !s.trigAway e.1 e.2) then some (.done s.releaseTrigs) else none
  let rec_ : Option Choice := if s.heldRecs.any (fun e => s.ringReached e.1) then some (.done s.releaseRecs) else none
  let run : Option Choice := (List.find? (fun (e : Nat × CoreSt) => s.clocked e.1 && s.runDue e.1) s.cores).map (fun e =>
    .done (if (s.core e.1).run.isSome then s.pumpRun e.1 else s.nextRun e.1))
  th.or (rec_.or run)

/-- Once a halted cluster is quiet, the change for which it was halted goes on (R229, R246, R267, R268). -/
def State.dueHalted (s : State) (c : Nat) (k : ClusterSt) : Option Instr :=
  match s.partOf c with
  | none => none
  | some p =>
    if !k.halted then none
    else if (Map.find? s.preempt p).isSome then (if s.quiet (s.clustersOf p) then some (.cisternSwap p) else none)
    else if !s.quiet (s.whole p [c]) then none
    else if (s.testing.bind (fun d => s.partOf d)) = some p then (if s.quiet (s.clustersOf p) then some .selfTestPreempt else none)
    else match [2 * c, 2 * c + 1].find? (fun x => (s.col x).failing && decide ((s.col x).power ≠ .retired)) with
      | some x => some (.columnRestart x)
      | none => if s.replaceable c && s.quiet (s.clustersOf p) then some (.spareReplacement { cluster := c, lost := [], pass := true }) else none

/-- What is due of a cluster. -/
def State.dueCluster (s : State) (c : Nat) (k : ClusterSt) : Option Instr :=
  if !k.walks.isEmpty then some (.rangeWalkComplete c 0)
  else if k.islBusy then some (.islptChangeDone c)
  else match List.find? (fun (e : Nat × LantCopy) => e.2.closed && !s.replaying e.2 && (s.replayCore e.2).isSome) k.lant with
    | some e => some (.auditReplay c e.1 0 none)
    | none => s.dueHalted c k

/-- What is due of a column (R220, R228, R229): one whose retirement had to wait is retired as soon as that can begin. -/
def State.dueCol (s : State) (c : Nat) (k : ColSt) : Option Instr :=
  if k.power = .waking then
    (if !k.wakePending then some (.wakeStepEnd c)
      else if (s.col (otherCol c)).current + 50 ≤ 1600 then some (.inrushGrant c) else none)
  else if k.stopped && !k.failing then some (.columnRestart c)
  else if !k.failing || decide (k.power = .retired) || (s.cluster (c / 2)).halted then none
  else s.firstMove [(.columnRestart c, execColumnRestart c)]

/-- What is due of Basecamp's registers: a commit whose record stands, and a write of FABID that waited (R254, R255). -/
def State.dueBasecamp (s : State) : Option Instr :=
  if s.booted.isNone then none
  else if s.commitRec then some (.laycmt ((s.gen + 1).zeroExtend 32))
  else match s.fabNext with
    | some x => if s.portsIdle then some (.fabid x) else none
    | none => none

/-- What is due outside the waves. -/
def State.dueAgents (s : State) : Option Instr :=
  let a : Option Instr := s.dueBasecamp
  let b : Option Instr := s.clusters.findSome? (fun e => s.dueCluster e.1 e.2)
  let c : Option Instr := s.cores.findSome? (fun e => s.dueCore e.1 e.2)
  let d : Option Instr := s.copyQs.findSome? (fun e => s.dueCopy e.1 e.2)
  let e : Option Instr := if s.zeroing.isEmpty then none else some (.zeroComplete 0)
  let f : Option Instr := s.cols.findSome? (fun e => s.dueCol e.1 e.2)
  ((((a.or b).or c).or d).or e).or (f.or s.dueTrailhead)

/-- What is due: of the waves, else of the other agents. -/
def State.due (s : State) : Option Choice :=
  match s.waves.findSome? (fun e => s.dueWave e.1 e.2) with
  | some c => some c
  | none => s.dueHeld.or (s.dueAgents.map (fun i => .run i s))

/-! ### The choice -/

/-- The wave with every stalled slice free to try again. -/
def Wave.retry (w : Wave) : Wave := w.again ((List.range 8).filter (fun i => decide ((w.st.slice i).wait = some .stall)))

/-- Every gang that waits to issue again may try once more. -/
def State.retryAll (s : State) : State := { s with waves := s.waves.map (fun e => (e.1, e.2.retry)) }

/-- A happening of the opcode table: not an instruction word, nor what a word that cannot run raises. Log entry 54: DESIGN CHOICE. -/
def isHappening (i : Instr) : Bool :=
  (encode i).isNone && decide (i ≠ .fetchFault) && (match i with
    | .unassignedOpcode _ => false
    | _ => true)

/-- Every cluster with a wave of a round counts a cycle. -/
def State.tickRound (s : State) (l : List (Nat × Nat)) : State :=
  let cs := l.filterMap (fun g => (s.wave? g.1).map (fun w => clusterOf w.core))
  cs.eraseDups.foldl (fun s c => s.tick c 1) s

/-- The quads dispatch once each: their clusters count a cycle, the first gang issues, and the others follow. -/
def State.issueRound (s : State) : Option Choice :=
  match s.round with
  | [] => none
  | g :: r => some (({ s with evTurn := true, agenda := r.map (fun (x : Nat × Nat) => Next.issue x.1 x.2) }.tickRound (g :: r)).issueGang g.1 g.2)

/-- The sleeping slice that is nearest to its end. -/
def State.sleeper (s : State) : Option (Nat × Nat) :=
  let all := s.waves.flatMap (fun e => (e.2.st.unfinished.filter (fun i => decide ((e.2.st.slice i).sleep ≠ 0) && s.coreRuns e.2)).map (fun i =>
    ((e.2.st.slice i).sleep, e.1, i)))
  (all.foldl (fun (b : Option (Nat × Nat × Nat)) x => match b with
    | none => some x
    | some y => if x.1 < y.1 then some x else some y) none).map (fun x => (x.2.1, x.2.2))

/-- Nothing is ready and nothing is due: sleeps pass, and what stalled tries again. -/
def State.idle (s : State) : Choice :=
  match s.sleeper with
  | some (u, sl) => .run (.sleepExpiry u sl) s.retryAll
  | none => .done s.retryAll

/-- The default order: what is due and a dispatch of the quads take turns. -/
def State.default (s : State) : Choice :=
  let ev : Option Choice := ({ s.retryAll with evTurn := false }).due
  let go : Option Choice := s.issueRound
  match (if s.evTurn then ev.or go else go.or ev) with
  | some c => c
  | none => s.idle

/-- The endpoint of a location of a peer. -/
abbrev endpointOf (l : Nat) : Nat := (l - peerBase) / 2 ^ 42

/-- A peer's own agent writes bytes of its memory, by a read-modify-write or not, as an acquire, as a release (R165, R168). -/
def State.outWrite (s : State) (l : Nat) (bs : List Byte) (rmw acq rel : Bool) : State :=
  let s1 := if acq then s.outHears (endpointOf l) l bs.length else s
  let old := if rmw then s1.syncs.filter (fun y => overlap y.loc y.n l bs.length) else []
  (s1.storeAt 64 l bs).outTells (endpointOf l) l bs.length rel old

/-- The endpoint of a peer acknowledges no request from now on, or answers again (R263). -/
def State.setDeaf (s : State) (ep : Nat) (b : Bool) : State :=
  if !b then { s with deaf := s.deaf.filter (· ≠ ep) }
  else if s.deaf.contains ep then s
  else { s with deaf := ep :: s.deaf }

/-- What the outside or an agent does by the agenda. -/
def State.input (s : State) (x : Next) : Choice :=
  match x with
  | .issue u sl => s.issueGang u sl
  | .event i => if isHappening i then .run i s else .done s
  | .cycles c n => .done (s.tick c n)
  | .quantum p n => .done { s with quanta := Map.insert s.quanta p ((Map.find? s.quanta p).getD 0 + n) }
  | .current c x => .done (s.updCol c (fun k => { k with current := x }))
  | .evict c k => .done (s.updCore c (fun y => { y with dcache := y.dcache.erase k }))
  | .evictPeer c k => .done (s.updCluster c (fun y => { y with peers := y.peers.erase k }))
  | .evictI c l => .done (s.updCore c (fun y => { y with icache := y.icache.erase l }))
  | .evictRc c i =>
    .done ((s.updCore c (fun y => { y with rc := y.rc.eraseIdx i })).updCluster (clusterOf c) (fun y => { y with rc := y.rc.eraseIdx i }))
  | .quantumRead u i k via => .done (s.quantumRead u i k via)
  | .deaf ep b => .done (s.setDeaf ep b)
  | .piece u i k => .done (s.pieceAhead u i k)
  | .packetUnreachable q => .done (s.packetUnreachable q)
  | .computed c i => .done (if s.clocked c then s.updCore c (fun k => k.compute i) else s)
  | .raced u i k => .done (s.racedRead u i k)
  | .held i ok => .done (s.heldStore i ok)
  | .extern l bs rmw acq rel => if isPeer l && isPeer (l + bs.length) then .done (s.outWrite l bs rmw acq rel) else .done s
  | .layRecord x => .done (s.commitRecord x)
  | .stage2 p d => if s.sgen = 0 then .done s else .done { s with shadow := { s.shadow with stage2 := Map.insert s.shadow.stage2 p d } }
  | .image k slotB v => .done (s.writeImage k slotB v)
  | .loadStandby => .done s.loadStandby
  | .loadEngines c => .done (s.loadEngines c)
  | .calibrate c x => .done (s.calibrate c x)
  | .hyperQueue x => .done { s with svcQs := Map.insert s.svcQs 32 x }

/-- What happens next. -/
def State.choose (s : State) : Choice :=
  match s.agenda with
  | x :: r => State.input { s with agenda := r } x
  | [] => s.default

end Sys2Proof.Machine
end

