-- ==== Sys2Proof/Machine/Load.lean ====
section
/-! DEFINITION. Putting one instruction where the next step fetches (log entry 9, DESIGN CHOICE): in the path of a gang that can issue, or else in a
launched wave, placed on core 0 in the state of R49, that stands for the bring-up, the launch and the placement. -/

namespace Sys2Proof.Machine

/-- Address of the text of the wave that stands for a launch. -/
def loadText : Nat := 0x10000

/-- A range covering the whole space with every permission, for a stage of the address space that stands for a launch's. -/
def loadRange (stage : Nat) : RcEnt :=
  { stage := stage, part := 0, desc := 0, lo := 0, hi := 2 ^ 52 - 1, tgt := 0, peer := false, nc := false, perm := 0b1111 }

/-- The launch that stands for the loaded program's: one core group of one wave with 64 varying registers and every buffer of a core. -/
def loadLaunch : Launch :=
  { bytes := natLe 4 0x10000000 ++ natLe 4 0 ++ natLe 8 loadText ++ natLe 8 0 ++ natLe 4 1 ++ natLe 4 (7 * 2 ^ 29)
      ++ natLe 4 (256 * 2 ^ 23 + 128 * 2 ^ 15 + 192 * 2 ^ 7 + 4 * 2 ^ 4) ++ natLe 4 0 ++ natLe 8 0 ++ natLe 8 0 ++ natLe 8 0,
    part := 0, space := 0, tvec := 0, params := [], macs := [], cloc := none, origin := .queue 0 0, placed := 1, running := 1,
    killed := false, turns := 0, reserved := false }

/-- Its core group. -/
def loadGroup (launch : Nat) : Group :=
  { core := 0, launch := launch, index := 0, sOff := 0, sLen := 0x40000, aOff := 0, aLen := 0x20000, cUnit := 0, cLen := 32,
    banks := [0, 1, 2, 3], macWait := [] }

/-- The machine with a launched wave on core 0, which runs, and translations for it. -/
def State.loadWave (s : State) : State :=
  let g := loadGroup s.nextLaunch
  let w := Wave.init (launchCore g loadLaunch 0) 0 0 0 s.nextGroup none 64
  let s1 := { s with
    launches := Map.insert s.launches s.nextLaunch loadLaunch, nextLaunch := s.nextLaunch + 1,
    groups := Map.insert s.groups s.nextGroup g, nextGroup := s.nextGroup + 1,
    live := { s.live with connmat := Map.insert s.live.connmat 0 (BitVec.allOnes 128) } }
  let s2 := s1.updCore 0 (fun k => { k with rc := [loadRange 1, loadRange 2] })
  let s3 := s2.setCol 0 { s2.col 0 with power := .on, stopped := false }
  let s4 := s3.updCluster 0 (fun k => { k with halted := false })
  s4.addWave w

/-- Stores a word where a gang fetches next, and lets that gang issue next; none when the gang's fetch would trap. -/
def State.placeFor (s : State) (u sl : Nat) (x : Word) : Option State :=
  match s.wave? u with
  | none => none
  | some w =>
    let w := { w with st := w.st.updSlices (w.st.gangOf sl) (fun _ y => { y with mac := none }) }
    let s := s.setWave u w
    if (s.before u w).isSome || !s.canIssue w sl then none
    else match s.fetch w sl with
    | .fault _ | .stuck => none
    | .word _ _ =>
      match s.xlateWave w (w.st.slice sl).pc.toNat needExec with
      | .error _ => none
      | .ok r => some { (s.updCore w.core (fun k => { k with icache := k.icache.erase r.loc })) with
          mem := s.mem.writeN r.loc 4 x.toNat, agenda := [.issue u sl] }

/-- A word where the next step fetches. Log entry 9: DESIGN CHOICE. -/
def State.placeWord (s : State) (x : Word) : State :=
  let fresh := (s.loadWave.placeFor s.nextWave 0 x).getD s
  match s.oldest with
  | some (u, sl) => (s.placeFor u sl x).getD fresh
  | none => fresh

end Sys2Proof.Machine
end

