-- ==== Sys2Proof/Machine/Lanes.lean ====
section
/-! DEFINITION. The cross-lane instructions: shuffles, votes, reductions, scans, `match`, `rdlane` and `wrlane` (R101, R102, R337, R338,
R359, R364, R371, R372, R375, R384, R386). -/

namespace Sys2Proof.Machine

/-! ### Shuffles (R375) -/

/-- A shuffle: `src b t` names the source thread. -/
def Ctx.shfl (c : Ctx) (i : Instr) (d a b : Operand) (varB : Bool) (src : Nat → Nat → Option Nat) : Chk Wave := do
  c.regChecks i false d [(a, true), (b, false)] true
    (decide (clsOf d = .vary ∧ clsOf a = .vary) && (isUni b || (varB && decide (clsOf b = .vary))))
  pure (c.write d (fun t => match src (c.r.src b t).toNat t with
    | some u => if c.act.getLsbD u then c.r.src a u else c.r.src a t
    | none => c.r.src a t))

/-- SHFL_IDX. -/
def execShflIdx (d a b : Operand) (s : State) : Host.Outcome State Fault Refusal :=
  issueWave s (fun c => c.shfl (.shflIdx d a b) d a b true (fun n _ => some (n % 32)))
/-- SHFL_UP. -/
def execShflUp (d a b : Operand) (s : State) : Host.Outcome State Fault Refusal :=
  issueWave s (fun c => c.shfl (.shflUp d a b) d a b false (fun n t => if n ≤ t then some (t - n) else none))
/-- SHFL_DN. -/
def execShflDn (d a b : Operand) (s : State) : Host.Outcome State Fault Refusal :=
  issueWave s (fun c => c.shfl (.shflDn d a b) d a b false (fun n t => if t + n ≤ 31 then some (t + n) else none))
/-- SHFL_XOR. -/
def execShflXor (d a b : Operand) (s : State) : Host.Outcome State Fault Refusal :=
  issueWave s (fun c => c.shfl (.shflXor d a b) d a b false (fun n t => some (t ^^^ (n % 32))))

/-! ### Votes (R384) -/

/-- A false k guard: the destination of a collective stays as it is. -/
abbrev Ctx.kOff (c : Ctx) : Bool := guardIsK c.mx && !c.kOn

/-- The checks of a vote. -/
def Ctx.voteChecks (c : Ctx) (i : Instr) (d a : Operand) (dOk : Bool) : Chk Unit := do
  c.start i false [d, a]
  c.guardOk
  c.need (dOk && decide (clsOf a = .vpred)) .opc
  c.need (c.w.st.fullMember c.sl) .mbf

/-- A vote into a k predicate. -/
def Ctx.vote (c : Ctx) (i : Instr) (d a : Operand) (f : Lanes → Bool) : Chk Wave := do
  c.voteChecks i d a (decide (clsOf d = .upred))
  match d with
  | .k n => pure (if c.kOff then c.w else c.w.putK n.val (f (c.r.predMask a)))
  | .v _ | .s _ | .a _ | .p _ | .zero | .lane | .par1 | .par2 | .imm _ => pure c.w

/-- VOTE_ANY. -/
def execVoteAny (d a : Operand) (s : State) : Host.Outcome State Fault Refusal :=
  issueWave s (fun c => c.vote (.voteAny d a) d a (fun p => decide (c.hit &&& p ≠ 0)))
/-- VOTE_ALL. -/
def execVoteAll (d a : Operand) (s : State) : Host.Outcome State Fault Refusal :=
  issueWave s (fun c => c.vote (.voteAll d a) d a (fun p => decide (c.hit &&& ~~~p = 0)))
/-- VOTE_BAL. -/
def execVoteBal (d a : Operand) (s : State) : Host.Outcome State Fault Refusal :=
  issueWave s (fun c => do
    c.voteChecks (.voteBal d a) d a (isS d)
    if c.kOff then pure c.w else do
      c.free (dstOf d).toList
      match d with
      | .s n => pure (c.w.putS n.val (c.hit &&& c.r.predMask a))
      | .v _ | .a _ | .p _ | .k _ | .zero | .lane | .par1 | .par2 | .imm _ => pure c.w)

/-! ### Reductions and scans (R101, R102) -/

/-- The combining operations of `red.*`, `scan` and `scanx`. -/
inductive Comb where
  | add | min | max
deriving DecidableEq, Repr

/-- Width and number of elements of a type that reductions accept. -/
def combShape (ty : Nat) : Option (Nat × Nat) :=
  match intType ty with
  | some (n, _) => some (n, 32 / n)
  | none => match floatType ty with
    | some (_, n, cnt) => some (n, cnt)
    | none => none

/-- `Combine` of two element codes (R364). -/
def combine (op : Comb) (ty rm : Nat) (sat : Bool) (g : BitVec 16) (x y : Nat) : Nat :=
  match intType ty with
  | some (n, sg) =>
    let a : Int := if sg then signExt x n else (x : Int)
    let b : Int := if sg then signExt y n else (y : Int)
    let r : Int := match op with
      | .add => if sat then clampElem n sg (a + b) else a + b
      | .min => if a ≤ b then a else b
      | .max => if a ≤ b then b else a
    (r % (2 ^ n : Nat)).toNat
  | none => match floatType ty with
    | some (f, _, _) => match op with
      | .add => f.round rm g ((f.val x).add rm (f.val y))
      | .min => f.round 0 0 ((f.val x).min (f.val y))
      | .max => f.round 0 0 ((f.val x).max (f.val y))
    | none => 0

/-- `Combine` where an operand may be absent. -/
def combineOpt (f : Nat → Nat → Nat) : Option Nat → Option Nat → Option Nat
  | some x, some y => some (f x y)
  | some x, none => some x
  | none, y => y

/-- One level of the tree of R101: adjacent values, the lower lane on the left; the operation sees the node's number. -/
def treeLevel (f : Nat → Nat → Nat → Nat) : Nat → List (Option Nat) → List (Option Nat)
  | _, [] => []
  | _, [x] => [x]
  | k, x :: y :: r => combineOpt (f k) x y :: treeLevel f (k + 1) r

/-- The tree of R101 over 32 lanes: the root's value, none when no thread contributes. -/
def treeRoot (f : Nat → Nat → Nat → Nat → Nat) (xs : List (Option Nat)) : Option Nat :=
  ((List.range 5).foldl (fun l k => treeLevel (f k) 0 l) xs).headD none

/-- The five steps of R102. -/
def scanSteps (f : Nat → Nat → Nat → Nat → Nat) (xs : List (Option Nat)) : List (Option Nat) :=
  (List.range 5).foldl (fun l k =>
    (List.range 32).map (fun i => if 2 ^ k ≤ i then combineOpt (f k i) (l.getD (i - 2 ^ k) none) (l.getD i none) else l.getD i none)) xs

/-- Element k of the contributing threads' values, by lane. -/
def Ctx.lanesOf (c : Ctx) (a : Operand) (n k : Nat) : List (Option Nat) :=
  (List.range 32).map (fun t => if c.hit.getLsbD t then some (code n (c.r.src a t) k) else none)

/-- MODE.RM is consulted by a floating-point addition alone. -/
def usesRm (op : Comb) (ty : Nat) : Bool := decide (op = .add) && (floatType ty).isSome

/-- A reduction (R364). -/
def Ctx.red (c : Ctx) (i : Instr) (op : Comb) (d a : Operand) : Chk (Wave × Nat) := do
  let ty := modeT c.mx
  let rm := modeRM c.mx
  c.start i false [d, a]
  c.guardOk
  c.need ((combShape ty).isSome && (!usesRm op ty || rmValid rm)) .udi
  c.need (isS d && decide (clsOf a = .vary)) .opc
  c.alloc [a]
  c.need (c.w.st.fullMember c.sl) .mbf
  if c.kOff then pure (c.w, 0) else do
    if c.hit = 0 then pure () else c.reads [(a, true)]
    c.free (dstOf d).toList
    match d, combShape ty with
    | .s m, some (n, cnt) =>
      let one (k : Nat) : Nat := (treeRoot (fun lv node x y =>
        combine op ty rm (modeSAT c.mx) (Config.draw (c.s.drawCtr + 64 * lv + 2 * node + k)) x y) (c.lanesOf a n k)).getD 0
      pure (c.w.putS m.val (packCodes n cnt one), if usesRm op ty then rm else 0)
    | .s _, none | .v _, _ | .a _, _ | .p _, _ | .k _, _ | .zero, _ | .lane, _ | .par1, _ | .par2, _ | .imm _, _ => pure (c.w, 0)

/-- RED_ADD (R364). -/
def execRedAdd (d a : Operand) (s : State) : Host.Outcome State Fault Refusal := issueDraw s (fun c => c.red (.redAdd d a) .add d a)
/-- RED_MIN (R364). -/
def execRedMin (d a : Operand) (s : State) : Host.Outcome State Fault Refusal := issueDraw s (fun c => c.red (.redMin d a) .min d a)
/-- RED_MAX (R364). -/
def execRedMax (d a : Operand) (s : State) : Host.Outcome State Fault Refusal := issueDraw s (fun c => c.red (.redMax d a) .max d a)

/-- The operation that a scan's third operand names. -/
def scanOp : Operand → Comb
  | .imm x => if x = 0 then .add else if x = 1 then .min else .max
  | .v _ | .s _ | .a _ | .p _ | .k _ | .zero | .lane | .par1 | .par2 => .add

/-- A scan; an exclusive one gives each lane its predecessor's value (R371, R372). -/
def Ctx.scan (c : Ctx) (i : Instr) (d a b : Operand) (excl : Bool) : Chk (Wave × Nat) := do
  let ty := modeT c.mx
  let rm := modeRM c.mx
  let op := scanOp b
  c.start i false [d, a, b]
  c.guardOk
  c.need ((combShape ty).isSome && (!isImm b || !usesRm op ty || rmValid rm)) .udi
  c.need (isImm b && decide (clsOf d = .vary ∧ clsOf a = .vary)) .opc
  c.alloc [d, a]
  c.need (c.w.st.fullMember c.sl) .mbf
  if c.hit = 0 then pure (c.w, 0) else do
    c.reads [(a, true)]
    c.free (dstOf d).toList
    match combShape ty with
    | none => pure (c.w, 0)
    | some (n, cnt) =>
      let cols := (List.range cnt).map (fun k => scanSteps (fun step lane x y =>
        combine op ty rm (modeSAT c.mx) (Config.draw (c.s.drawCtr + 256 * step + 4 * lane + k)) x y) (c.lanesOf a n k))
      let at_ (t k : Nat) : Nat :=
        if excl then (if t = 0 then 0 else (((cols.getD k []).getD (t - 1) none).getD 0)) else ((cols.getD k []).getD t none).getD 0
      pure (c.write d (fun t => packCodes n cnt (at_ t)), if usesRm op ty then rm else 0)

/-- SCAN (R371). -/
def execScan (d a b : Operand) (s : State) : Host.Outcome State Fault Refusal := issueDraw s (fun c => c.scan (.scan d a b) d a b false)
/-- SCANX (R372). -/
def execScanx (d a b : Operand) (s : State) : Host.Outcome State Fault Refusal := issueDraw s (fun c => c.scan (.scanx d a b) d a b true)

/-! ### `match` (R337, R338) -/

/-- Two codes of a floating-point format hold the same key. -/
def sameFp (n : Nat) (val : Nat → FpVal) (x y : Nat) : Bool :=
  decide (x = y) || (decide (x % 2 ^ (n - 1) = 0) && decide (y % 2 ^ (n - 1) = 0)) || ((val x).isNan && (val y).isNan)

/-- `Same` by type (R338). -/
def sameKey (ty : Nat) (x y : Word) : Bool :=
  if (intType ty).isSome then decide (x = y)
  else match floatType ty with
    | some (f, n, cnt) => (List.range cnt).all (fun k => sameFp n f.val (code n x k) (code n y k))
    | none => sameFp 8 (if ty = 11 then valE4m3 else e5m2.val) (code 8 x 0) (code 8 y 0)

/-- MATCH (R337): every active thread is written, one whose guard is false with 0. -/
def execMatchKey (d a : Operand) (s : State) : Host.Outcome State Fault Refusal :=
  issueWave s (fun c => do
    let ty := modeT c.mx
    c.start (.matchKey d a) false [d, a]
    c.guardOk
    c.need (decide (ty ≤ 12)) .udi
    c.need (decide (clsOf d = .vary ∧ clsOf a = .vary)) .opc
    c.alloc [d, a]
    if c.act = 0 then pure c.w else do
      if c.hit = 0 then pure () else c.reads [(a, true)]
      c.free (dstOf d).toList
      match d with
      | .v n => pure (c.w.putV n.val c.act (fun t =>
          if c.hit.getLsbD t then lanesWhere (fun u => c.hit.getLsbD u && sameKey ty (c.r.src a u) (c.r.src a t)) else 0))
      | .s _ | .a _ | .p _ | .k _ | .zero | .lane | .par1 | .par2 | .imm _ => pure c.w)

/-! ### One lane -/

/-- RDLANE (R359). -/
def execRdlane (d a b : Operand) (s : State) : Host.Outcome State Fault Refusal :=
  issueWave s (fun c => do
    c.regChecks (.rdlane d a b) false d [(a, true), (b, false)] true (isS d && decide (clsOf a = .vary) && isUni b)
    pure (c.write d (fun _ => c.r.src a ((c.r.uni b).toNat % 32))))

/-- WRLANE (R386). The thread that B names is checked whatever the guard, so A and B are always read. -/
def execWrlane (d a b : Operand) (s : State) : Host.Outcome State Fault Refusal :=
  issueWave s (fun c => do
    c.start (.wrlane d a b) false [d, a, b]
    c.guardOk
    c.need (decide (clsOf d = .vary) && isUni a && isUni b) .opc
    c.alloc [d]
    c.reads [(a, true), (b, false)]
    let l := (c.r.uni b).toNat % 32
    c.need ((c.w.st.gangOf c.sl).contains (l / 4)) .mbf
    if c.w.st.live.getLsbD l && (guardMask c.r c.mx).getLsbD l then do
      c.free (dstOf d).toList
      match d with
      | .v n => pure (c.w.putV n.val ((1 : Lanes) <<< l) (fun _ => c.r.uni a))
      | .s _ | .a _ | .p _ | .k _ | .zero | .lane | .par1 | .par2 | .imm _ => pure c.w
    else pure c.w)

end Sys2Proof.Machine
end

