-- ==== Sys2Proof/Machine/Sfu.lean ====
section
/-! DEFINITION. The special functions (R103, R104, R310, R317, R334, R358). Their results are free within the error that R103 allows: a
free value counts when it lies within that error of the function's value, which is computed here to 2^-512 with an error far below any
half ulp; another free value is replaced by the value rounded to nearest. -/

namespace Sys2Proof.Machine

/-! ### Functions in fixed point: integers that stand for n / 2^512 -/

/-- Fraction bits. -/
abbrev fxP : Nat := 512
/-- 1. -/
abbrev fxOne : Int := (2 ^ fxP : Nat)
/-- Product. -/
def fxMul (a b : Int) : Int := a * b / fxOne
/-- Quotient. -/
def fxDiv (a b : Int) : Int := a * fxOne / b

/-- The exponential series from term k on. -/
def expSeries (x : Int) : Nat → Nat → Int → Int → Int
  | 0, _, _, acc => acc
  | n + 1, k, term, acc => let t := fxMul term x / ((k : Int) + 1); expSeries x n (k + 1) t (acc + t)

/-- e^x for 0 ≤ x < 1. -/
def fxExpSmall (x : Int) : Int := expSeries x 110 0 fxOne fxOne

/-- Sum of y^(2k+1) / (2k+1), signs alternating for the arc tangent. -/
def oddSeries (y2 : Int) (alt : Bool) : Nat → Nat → Int → Int → Int
  | 0, _, _, acc => acc
  | n + 1, k, term, acc =>
    let t := term / (2 * k + 1 : Nat)
    oddSeries y2 alt n (k + 1) (fxMul term y2) (if alt && k % 2 = 1 then acc - t else acc + t)

/-- The inverse hyperbolic tangent of |y| ≤ 1/3. -/
def fxAtanh (y : Int) : Int := oddSeries (fxMul y y) false 170 0 y 0
/-- The arc tangent of |y| ≤ 1/5. -/
def fxAtan (y : Int) : Int := oddSeries (fxMul y y) true 120 0 y 0

/-- log 2. -/
def fxLn2 : Int := 2 * fxAtanh (fxOne / 3)
/-- π, by Machin. -/
def fxPi : Int := 16 * fxAtan (fxOne / 5) - 4 * fxAtan (fxOne / 239)

/-- x × 2^n. -/
def fxShift (x : Int) (n : Int) : Int := if n < 0 then x / (2 ^ n.natAbs : Nat) else x * (2 ^ n.natAbs : Nat)

/-- e^x for |x| ≤ 256. -/
def fxExp (x : Int) : Int := let n := x / fxLn2; fxShift (fxExpSmall (x - n * fxLn2)) n

/-- A finite value in fixed point. -/
def fxOf (neg : Bool) (m : Nat) (e : Int) : Int :=
  let x : Int := fxShift (m : Int) (e + fxP)
  if neg then -x else x

/-- x held between −b and b. -/
def fxClamp (x : Int) (b : Int) : Int := if x < -b * fxOne then -b * fxOne else if x > b * fxOne then b * fxOne else x

/-- The sine series from term k on. -/
def sinSeries (x2 : Int) : Nat → Nat → Int → Int → Int
  | 0, _, _, acc => acc
  | n + 1, k, term, acc =>
    let t := -(fxMul term x2) / (((2 * k + 2) * (2 * k + 3) : Nat) : Int)
    sinSeries x2 n (k + 1) t (acc + t)

/-- sin x, after reduction to a half turn about 0. -/
def fxSin (x : Int) : Int :=
  let r := x - (x + fxPi) / (2 * fxPi) * (2 * fxPi)
  sinSeries (fxMul r r) 70 0 r r

/-- The integer square root by bits from the top. -/
def isqrtBits (n : Nat) : Nat → Nat → Nat
  | 0, r => r
  | i + 1, r => isqrtBits n i (if (r + 2 ^ i) * (r + 2 ^ i) ≤ n then r + 2 ^ i else r)
/-- The integer square root. -/
def isqrt (n : Nat) : Nat := isqrtBits n (bitLen n / 2 + 1) 0

/-- The base-2 logarithm of m × 2^e, m > 0. -/
def fxLog2 (m : Nat) (e : Int) : Int :=
  let k := floorLog2 m e
  let x := fxShift (m : Int) ((fxP : Int) + e - k)
  k * fxOne + fxDiv (2 * fxAtanh (fxDiv (x - fxOne) (x + fxOne))) fxLn2

/-! ### The nine functions -/

/-- The special functions of R310. -/
inductive SFn where
  | exp2 | log2 | rcp | rsq | sqrt | sin | cos | tanh | sigm
deriving DecidableEq, Repr

/-- The value of a function at an ordinary operand in fixed point; arguments so large that the value is at its limit to far below an ulp
stand for all beyond. -/
def sfuValue (fn : SFn) (neg : Bool) (m : Nat) (e : Int) : Int :=
  let x := fxOf neg m e
  match fn with
  | .exp2 => let y := fxClamp x 200; let n := y / fxOne; fxShift (fxExpSmall (fxMul (y - n * fxOne) fxLn2)) n
  | .log2 => fxLog2 m e
  | .rcp =>
    let y : Int := if e ≤ fxP then fxShift (2 ^ 1100 : Nat) ((fxP : Int) - 1100 - e) / m else 0
    if neg then -y else y
  | .rsq => (isqrt ((2 ^ (2 * fxP - e).toNat : Nat) / m) : Nat)
  | .sqrt => (isqrt (m * 2 ^ (2 * fxP + e).toNat) : Nat)
  | .sin => fxSin x
  | .cos => fxSin (x + fxPi / 2)
  | .tanh => let y := fxExp (2 * fxClamp x 100); fxDiv (y - fxOne) (y + fxOne)
  | .sigm => fxDiv fxOne (fxOne + fxExp (-(fxClamp x 200)))

/-- The exact result that R104 gives a special operand; none for an ordinary one. An integer operand of `exp2` is special when 2 to its
power is not below the smallest subnormal. -/
def sfuSpecial (f : Fmt) (fn : SFn) (v : FpVal) : Option FpVal :=
  let one : FpVal := .fin false 1 0
  let zero (n : Bool) : FpVal := .fin n 0 0
  match v with
  | .nan => some .nan
  | .inf neg => match fn with
    | .exp2 => some (if neg then zero false else .inf false)
    | .log2 | .rsq | .sqrt => some (if neg then .nan else if fn = .rsq then zero false else .inf false)
    | .rcp => some (zero neg)
    | .sin | .cos => some .nan
    | .tanh => some (.fin neg 1 0)
    | .sigm => some (if neg then zero false else one)
  | .fin neg m e =>
    if m = 0 then match fn with
      | .exp2 | .cos => some one
      | .log2 => some (.inf true)
      | .rcp => some (.inf neg)
      | .rsq => some (.inf neg)
      | .sqrt | .sin | .tanh => some (zero neg)
      | .sigm => some (.fin false 1 (-1))
    else match fn with
      | .log2 =>
        if neg then some .nan
        else if m = 2 ^ (bitLen m - 1) then some (intVal (floorLog2 m e)) else none
      | .rsq => if neg then some .nan else none
      | .sqrt => if neg then some .nan else none
      | .exp2 =>
        let q := scaled neg m e (min e 0)
        let k : Nat := 2 ^ (-(min e 0)).toNat
        if q % (k : Int) = 0 ∧ bitLen m + e ≤ 10 ∧ f.emin ≤ q / (k : Int) then some (.fin false 1 (q / (k : Int))) else none
      | .rcp | .sin | .cos | .tanh | .sigm => none

/-- Ulps of error that R103 allows: 1 for the half-width types and for `rcp`, else 2. -/
def sfuUlps (fn : SFn) (f : Fmt) : Nat := if f.eb = 8 ∧ f.fb = 23 ∧ fn ≠ .rcp then 2 else 1

/-- The error that R103 allows about a value in fixed point: ulps of the value's binade; 2^-21 for `sin` and `cos` of an F32 operand
beyond 65,536. -/
def sfuBound (fn : SFn) (f : Fmt) (m : Nat) (e : Int) (v : Int) : Int :=
  let far := decide (fn = .sin ∨ fn = .cos) && decide (f.fb = 23) && decide (fxOf false m e > 65536 * fxOne)
  if far then fxShift fxOne (-21)
  else
    let q := max f.emin (floorLog2 v.natAbs (-(fxP : Int)) - f.fb)
    sfuUlps fn f * fxShift fxOne q

/-- A code counts as a result: it is finite and its value lies within the error; or it is the infinity next to a value of the top binade. -/
def sfuOk (f : Fmt) (v bound : Int) (x : Nat) : Bool :=
  match f.val x with
  | .nan => false
  | .inf neg =>
    let top := fxShift fxOne (f.emin + f.infBits / 2 ^ f.fb + f.fb - 1)
    decide (v.natAbs + bound ≥ top) && (neg == decide (v < 0))
  | .fin neg m e => decide ((fxOf neg m e - v).natAbs ≤ bound) && (m != 0 || neg == decide (v < 0))

/-- The result of a special function other than `sqrt` for one element: R104's for a special operand; past the largest finite value,
infinity; else the free value, within the error of R103. An `exp2` below the smallest subnormal is +0 or that subnormal (R317). Log entry
7: DESIGN CHOICE. -/
def sfuElem (fn : SFn) (f : Fmt) (free : Word) (v : FpVal) : Nat :=
  match sfuSpecial f fn v with
  | some r => f.round 0 0 r
  | none => match v with
    | .nan | .inf _ => f.canon
    | .fin neg m e =>
      let y := sfuValue fn neg m e
      let near := f.round 0 0 (.fin (decide (y < 0)) y.natAbs (-(fxP : Int)))
      let x := free.toNat % 2 ^ (f.eb + f.fb + 1)
      if near % 2 ^ (f.eb + f.fb) = f.infBits then near
      else if fn = .exp2 ∧ y < fxShift fxOne f.emin then (if x ≤ 1 then x else near)
      else if sfuOk f y (sfuBound fn f m e y) x then x else near

/-- `sqrt` for one element, rounded by RM from a root with more than 64 further bits. -/
def sqrtElem (rm : Nat) (f : Fmt) (g : BitVec 16) (v : FpVal) : Nat :=
  match sfuSpecial f .sqrt v with
  | some r => f.round rm g r
  | none => match v with
    | .nan | .inf _ => f.canon
    | .fin _ m e =>
      let n := m * 2 ^ (2 * fxP + e).toNat
      let r := isqrt n
      f.round rm g (.fin false (2 * r + if r * r = n then 0 else 1) (-(fxP : Int) - 1))

/-- A special function instruction other than `sqrt` (R310). -/
def Ctx.sfu (c : Ctx) (i : Instr) (fn : SFn) (d a : Operand) : Chk Wave := do
  let ty := modeT c.mx
  c.regChecks i true d [(a, true)] (floatType ty).isSome (varyUniOk d [(a, true)])
  pure (c.write d (fun t => fpElems ty (fun f k x _ _ =>
    sfuElem fn f (Config.special (c.s.drawCtr + 4 * t + k) (c.r.fsrc ty a t)) x) (c.r.fsrc ty a t) 0 0))

/-- Runs a special function and uses up its free values. -/
def issueSfu (s : State) (f : Ctx → Chk Wave) : Host.Outcome State Fault Refusal :=
  issueState s (fun c => match f c with
    | .ok w => .ok (c.putDraw w 5)
    | .error e => .error e)

/-- EXP2 (R317). -/
def execExp2 (d a : Operand) (s : State) : Host.Outcome State Fault Refusal := issueSfu s (fun c => c.sfu (.exp2 d a) .exp2 d a)
/-- LOG2 (R334). -/
def execLog2 (d a : Operand) (s : State) : Host.Outcome State Fault Refusal := issueSfu s (fun c => c.sfu (.log2 d a) .log2 d a)
/-- RCP (R358). -/
def execRcp (d a : Operand) (s : State) : Host.Outcome State Fault Refusal := issueSfu s (fun c => c.sfu (.rcp d a) .rcp d a)
/-- RSQ (R358). -/
def execRsq (d a : Operand) (s : State) : Host.Outcome State Fault Refusal := issueSfu s (fun c => c.sfu (.rsq d a) .rsq d a)
/-- SIN (R358). -/
def execSin (d a : Operand) (s : State) : Host.Outcome State Fault Refusal := issueSfu s (fun c => c.sfu (.sin d a) .sin d a)
/-- COS (R310). -/
def execCos (d a : Operand) (s : State) : Host.Outcome State Fault Refusal := issueSfu s (fun c => c.sfu (.cos d a) .cos d a)
/-- TANH (R358). -/
def execTanh (d a : Operand) (s : State) : Host.Outcome State Fault Refusal := issueSfu s (fun c => c.sfu (.tanh d a) .tanh d a)
/-- SIGM (R358). -/
def execSigm (d a : Operand) (s : State) : Host.Outcome State Fault Refusal := issueSfu s (fun c => c.sfu (.sigm d a) .sigm d a)

/-- SQRT (R103, R358): correctly rounded under MODE.RM. -/
def execSqrt (d a : Operand) (s : State) : Host.Outcome State Fault Refusal :=
  issueDraw s (fun c => c.fpOp (.sqrt d a) d [(a, true)] true (fun rm f g x _ _ => sqrtElem rm f g x) a .zero)

end Sys2Proof.Machine
end

