-- ==== Sys2Proof/Machine/Dispatch.lean ====
section
/-! DEFINITION. The meaning of every instruction, one arm a constructor. -/

namespace Sys2Proof.Machine

def exec (i : Instr) (s : State) : Host.Outcome State Fault Refusal :=
  match i with
  | .nop => Sys2Proof.Machine.execNop s
  | .br off => Sys2Proof.Machine.execBr off s
  | .bru n neg off => Sys2Proof.Machine.execBru n neg off s
  | .brv c off => Sys2Proof.Machine.execBrv c off s
  | .cnv => Sys2Proof.Machine.execCnv s
  | .call off => Sys2Proof.Machine.execCall off s
  | .callr a => Sys2Proof.Machine.execCallr a s
  | .ret => Sys2Proof.Machine.execRet s
  | .exit => Sys2Proof.Machine.execExit s
  | .waveEnd w => Sys2Proof.Machine.execWaveEnd w s
  | .regang m => Sys2Proof.Machine.execRegang m s
  | .trap imm => Sys2Proof.Machine.execTrap imm s
  | .mcall m p1 p2 => Sys2Proof.Machine.execMcall m p1 p2 s
  | .sleep n => Sys2Proof.Machine.execSleep n s
  | .sleepExpiry w sl => Sys2Proof.Machine.execSleepExpiry w sl s
  | .modex en g t rm sat fe => Sys2Proof.Machine.execModex en g t rm sat fe s
  | .modem en sc ord au aot => Sys2Proof.Machine.execModem en sc ord au aot s
  | .mov d a => Sys2Proof.Machine.execMov d a s
  | .movi d imm => Sys2Proof.Machine.execMovi d imm s
  | .movh d imm => Sys2Proof.Machine.execMovh d imm s
  | .sel d a b => Sys2Proof.Machine.execSel d a b s
  | .promo d a => Sys2Proof.Machine.execPromo d a s
  | .mkaff d a b => Sys2Proof.Machine.execMkaff d a b s
  | .setb n sp lo hi => Sys2Proof.Machine.execSetb n sp lo hi s
  | .rdsr d imm => Sys2Proof.Machine.execRdsr d imm s
  | .wrsr d imm => Sys2Proof.Machine.execWrsr d imm s
  | .thrcfgWrite cluster x => Sys2Proof.Machine.execThrcfgWrite cluster x s
  | .colstatWrite core x => Sys2Proof.Machine.execColstatWrite core x s
  | .add d a b => Sys2Proof.Machine.execAdd d a b s
  | .sub d a b => Sys2Proof.Machine.execSub d a b s
  | .mul d a b => Sys2Proof.Machine.execMul d a b s
  | .mulh d a b => Sys2Proof.Machine.execMulh d a b s
  | .mad d a b => Sys2Proof.Machine.execMad d a b s
  | .neg d a => Sys2Proof.Machine.execNeg d a s
  | .abs d a => Sys2Proof.Machine.execAbs d a s
  | .min d a b => Sys2Proof.Machine.execMin d a b s
  | .max d a b => Sys2Proof.Machine.execMax d a b s
  | .clz d a => Sys2Proof.Machine.execClz d a s
  | .popc d a => Sys2Proof.Machine.execPopc d a s
  | .brev d a => Sys2Proof.Machine.execBrev d a s
  | .and d a b => Sys2Proof.Machine.execAnd d a b s
  | .or d a b => Sys2Proof.Machine.execOr d a b s
  | .xor d a b => Sys2Proof.Machine.execXor d a b s
  | .not d a => Sys2Proof.Machine.execNot d a s
  | .shl d a b => Sys2Proof.Machine.execShl d a b s
  | .shr d a b => Sys2Proof.Machine.execShr d a b s
  | .sar d a b => Sys2Proof.Machine.execSar d a b s
  | .rot d a b => Sys2Proof.Machine.execRot d a b s
  | .bfx d a b => Sys2Proof.Machine.execBfx d a b s
  | .bfi d a b => Sys2Proof.Machine.execBfi d a b s
  | .fadd d a b => Sys2Proof.Machine.execFadd d a b s
  | .fsub d a b => Sys2Proof.Machine.execFsub d a b s
  | .fmul d a b => Sys2Proof.Machine.execFmul d a b s
  | .fma d a b => Sys2Proof.Machine.execFma d a b s
  | .fmin d a b => Sys2Proof.Machine.execFmin d a b s
  | .fmax d a b => Sys2Proof.Machine.execFmax d a b s
  | .fabs d a => Sys2Proof.Machine.execFabs d a s
  | .fneg d a => Sys2Proof.Machine.execFneg d a s
  | .cmpEq d a b => Sys2Proof.Machine.execCmpEq d a b s
  | .cmpNe d a b => Sys2Proof.Machine.execCmpNe d a b s
  | .cmpLt d a b => Sys2Proof.Machine.execCmpLt d a b s
  | .cmpLe d a b => Sys2Proof.Machine.execCmpLe d a b s
  | .cmpGt d a b => Sys2Proof.Machine.execCmpGt d a b s
  | .cmpGe d a b => Sys2Proof.Machine.execCmpGe d a b s
  | .fcmpEq d a b => Sys2Proof.Machine.execFcmpEq d a b s
  | .fcmpNe d a b => Sys2Proof.Machine.execFcmpNe d a b s
  | .fcmpLt d a b => Sys2Proof.Machine.execFcmpLt d a b s
  | .fcmpLe d a b => Sys2Proof.Machine.execFcmpLe d a b s
  | .fcmpGt d a b => Sys2Proof.Machine.execFcmpGt d a b s
  | .fcmpGe d a b => Sys2Proof.Machine.execFcmpGe d a b s
  | .fcmpUn d a b => Sys2Proof.Machine.execFcmpUn d a b s
  | .cvt d a b => Sys2Proof.Machine.execCvt d a b s
  | .cvt8 d a b => Sys2Proof.Machine.execCvt8 d a b s
  | .bsc d a => Sys2Proof.Machine.execBsc d a s
  | .bsq d a b => Sys2Proof.Machine.execBsq d a b s
  | .exp2 d a => Sys2Proof.Machine.execExp2 d a s
  | .log2 d a => Sys2Proof.Machine.execLog2 d a s
  | .rcp d a => Sys2Proof.Machine.execRcp d a s
  | .rsq d a => Sys2Proof.Machine.execRsq d a s
  | .sqrt d a => Sys2Proof.Machine.execSqrt d a s
  | .sin d a => Sys2Proof.Machine.execSin d a s
  | .cos d a => Sys2Proof.Machine.execCos d a s
  | .tanh d a => Sys2Proof.Machine.execTanh d a s
  | .sigm d a => Sys2Proof.Machine.execSigm d a s
  | .shflIdx d a b => Sys2Proof.Machine.execShflIdx d a b s
  | .shflUp d a b => Sys2Proof.Machine.execShflUp d a b s
  | .shflDn d a b => Sys2Proof.Machine.execShflDn d a b s
  | .shflXor d a b => Sys2Proof.Machine.execShflXor d a b s
  | .voteAny d a => Sys2Proof.Machine.execVoteAny d a s
  | .voteAll d a => Sys2Proof.Machine.execVoteAll d a s
  | .voteBal d a => Sys2Proof.Machine.execVoteBal d a s
  | .redAdd d a => Sys2Proof.Machine.execRedAdd d a s
  | .redMin d a => Sys2Proof.Machine.execRedMin d a s
  | .redMax d a => Sys2Proof.Machine.execRedMax d a s
  | .scan d a b => Sys2Proof.Machine.execScan d a b s
  | .scanx d a b => Sys2Proof.Machine.execScanx d a b s
  | .matchKey d a => Sys2Proof.Machine.execMatchKey d a s
  | .rdlane d a b => Sys2Proof.Machine.execRdlane d a b s
  | .wrlane d a b => Sys2Proof.Machine.execWrlane d a b s
  | .ld d o b sz sx nt => Sys2Proof.Machine.execLd d o b sz sx nt s
  | .st d o b sz nt => Sys2Proof.Machine.execSt d o b sz nt s
  | .ldu d o b sz sx nt => Sys2Proof.Machine.execLdu d o b sz sx nt s
  | .stu d o b sz sx nt => Sys2Proof.Machine.execStu d o b sz sx nt s
  | .pf o b sz nt => Sys2Proof.Machine.execPf o b sz nt s
  | .sectorReturn w acc k => Sys2Proof.Machine.execSectorReturn w acc k s
  | .lda d o b => Sys2Proof.Machine.execLda d o b s
  | .sta d o b => Sys2Proof.Machine.execSta d o b s
  | .atomAdd d o b r => Sys2Proof.Machine.execAtomAdd d o b r s
  | .atomMin d o b r => Sys2Proof.Machine.execAtomMin d o b r s
  | .atomMax d o b r => Sys2Proof.Machine.execAtomMax d o b r s
  | .atomAnd d o b r => Sys2Proof.Machine.execAtomAnd d o b r s
  | .atomOr d o b r => Sys2Proof.Machine.execAtomOr d o b r s
  | .atomXor d o b r => Sys2Proof.Machine.execAtomXor d o b r s
  | .atomXchg d o b r => Sys2Proof.Machine.execAtomXchg d o b r s
  | .atomCas d o b r => Sys2Proof.Machine.execAtomCas d o b r s
  | .atomFadd d o b r => Sys2Proof.Machine.execAtomFadd d o b r s
  | .atomInc d o b r => Sys2Proof.Machine.execAtomInc d o b r s
  | .cqPost k q f => Sys2Proof.Machine.execCqPost k q f s
  | .batClose d => Sys2Proof.Machine.execBatClose d s
  | .waitBat a => Sys2Proof.Machine.execWaitBat a s
  | .hbFill a => Sys2Proof.Machine.execHbFill a s
  | .hbAcq a => Sys2Proof.Machine.execHbAcq a s
  | .hbRel a => Sys2Proof.Machine.execHbRel a s
  | .hbState d a => Sys2Proof.Machine.execHbState d a s
  | .hbCfg a b => Sys2Proof.Machine.execHbCfg a b s
  | .mmaBi8 c a w v sel rows acc => Sys2Proof.Machine.execMmaBi8 c a w v sel rows acc s
  | .mmaBi4 c a w v sel rows acc => Sys2Proof.Machine.execMmaBi4 c a w v sel rows acc s
  | .mmaI8w c a w v sel rows acc => Sys2Proof.Machine.execMmaI8w c a w v sel rows acc s
  | .mwait => Sys2Proof.Machine.execMwait s
  | .mzero a => Sys2Proof.Machine.execMzero a s
  | .mnorm d a => Sys2Proof.Machine.execMnorm d a s
  | .mwsel a => Sys2Proof.Machine.execMwsel a s
  | .mfence => Sys2Proof.Machine.execMfence s
  | .btonTake => Sys2Proof.Machine.execBtonTake s
  | .btonPass => Sys2Proof.Machine.execBtonPass s
  | .bankLoadStart core => Sys2Proof.Machine.execBankLoadStart core s
  | .bankLoadComplete core => Sys2Proof.Machine.execBankLoadComplete core s
  | .mmaWordStart core half => Sys2Proof.Machine.execMmaWordStart core half s
  | .mmaWordComplete core => Sys2Proof.Machine.execMmaWordComplete core s
  | .mzeroComplete core => Sys2Proof.Machine.execMzeroComplete core s
  | .mnormComplete core => Sys2Proof.Machine.execMnormComplete core s
  | .recRun a b => Sys2Proof.Machine.execRecRun a b s
  | .recChild d => Sys2Proof.Machine.execRecChild d s
  | .recRet a => Sys2Proof.Machine.execRecRet a s
  | .recWait d => Sys2Proof.Machine.execRecWait d s
  | .routineCall core w => Sys2Proof.Machine.execRoutineCall core w s
  | .spawn d a b => Sys2Proof.Machine.execSpawn d a b s
  | .cjoin d => Sys2Proof.Machine.execCjoin d s
  | .barInit b m => Sys2Proof.Machine.execBarInit b m s
  | .barArrive b m => Sys2Proof.Machine.execBarArrive b m s
  | .barWait b m => Sys2Proof.Machine.execBarWait b m s
  | .barSync b m => Sys2Proof.Machine.execBarSync b m s
  | .barInval b m => Sys2Proof.Machine.execBarInval b m s
  | .fenceAll sc => Sys2Proof.Machine.execFenceAll sc s
  | .fenceLoads sc => Sys2Proof.Machine.execFenceLoads sc s
  | .fenceStores sc => Sys2Proof.Machine.execFenceStores sc s
  | .fenceEngines sc => Sys2Proof.Machine.execFenceEngines sc s
  | .rgn => Sys2Proof.Machine.execRgn s
  | .rgnI => Sys2Proof.Machine.execRgnI s
  | .rgnE => Sys2Proof.Machine.execRgnE s
  | .ckpt => Sys2Proof.Machine.execCkpt s
  | .balBurn a b => Sys2Proof.Machine.execBalBurn a b s
  | .balShunt d a => Sys2Proof.Machine.execBalShunt d a s
  | .balStop => Sys2Proof.Machine.execBalStop s
  | .burnExpiry w => Sys2Proof.Machine.execBurnExpiry w s
  | .eret => Sys2Proof.Machine.execEret s
  | .hv imm => Sys2Proof.Machine.execHv imm s
  | .mcsWr a b => Sys2Proof.Machine.execMcsWr a b s
  | .iinv => Sys2Proof.Machine.execIinv s
  | .tlbinv a => Sys2Proof.Machine.execTlbinv a s
  | .starvationPriority w sl => Sys2Proof.Machine.execStarvationPriority w sl s
  | .headerLineChange q => Sys2Proof.Machine.execHeaderLineChange q s
  | .copy q => Sys2Proof.Machine.execCopy q s
  | .fill q => Sys2Proof.Machine.execFill q s
  | .reduceCopy q => Sys2Proof.Machine.execReduceCopy q s
  | .copySignal q => Sys2Proof.Machine.execCopySignal q s
  | .copyVoid q => Sys2Proof.Machine.execCopyVoid q s
  | .packetComplete q idx => Sys2Proof.Machine.execPacketComplete q idx s
  | .fillComplete q idx => Sys2Proof.Machine.execFillComplete q idx s
  | .workQueueRead q => Sys2Proof.Machine.execWorkQueueRead q s
  | .launch q => Sys2Proof.Machine.execLaunch q s
  | .workSignal q => Sys2Proof.Machine.execWorkSignal q s
  | .gload q => Sys2Proof.Machine.execGload q s
  | .workVoid q => Sys2Proof.Machine.execWorkVoid q s
  | .forwardingQueuePacket q => Sys2Proof.Machine.execForwardingQueuePacket q s
  | .placementDecision => Sys2Proof.Machine.execPlacementDecision s
  | .coresidentReservation launch => Sys2Proof.Machine.execCoresidentReservation launch s
  | .launchComplete launch => Sys2Proof.Machine.execLaunchComplete launch s
  | .trig part x => Sys2Proof.Machine.execTrig part x s
  | .graphRunStart part gid => Sys2Proof.Machine.execGraphRunStart part gid s
  | .graphNodeStart part gid node => Sys2Proof.Machine.execGraphNodeStart part gid node s
  | .graphRunEnd part gid => Sys2Proof.Machine.execGraphRunEnd part gid s
  | .qreg q => Sys2Proof.Machine.execQreg q s
  | .qset q => Sys2Proof.Machine.execQset q s
  | .peek q => Sys2Proof.Machine.execPeek q s
  | .resolve q => Sys2Proof.Machine.execResolve q s
  | .kill q => Sys2Proof.Machine.execKill q s
  | .zero q => Sys2Proof.Machine.execZero q s
  | .zeroComplete imm => Sys2Proof.Machine.execZeroComplete imm s
  | .timeQuantumExpiry part => Sys2Proof.Machine.execTimeQuantumExpiry part s
  | .cisternSwap part => Sys2Proof.Machine.execCisternSwap part s
  | .pinnedTimeout part => Sys2Proof.Machine.execPinnedTimeout part s
  | .takeOver => Sys2Proof.Machine.execTakeOver s
  | .checkpointAttempt core => Sys2Proof.Machine.execCheckpointAttempt core s
  | .checkpointAttemptTimeout w => Sys2Proof.Machine.execCheckpointAttemptTimeout w s
  | .pinnedCheckpoint w => Sys2Proof.Machine.execPinnedCheckpoint w s
  | .uceConsumed site => Sys2Proof.Machine.execUceConsumed site s
  | .correctedError b => Sys2Proof.Machine.execCorrectedError b s
  | .leak => Sys2Proof.Machine.execLeak s
  | .auditReplay cluster imm err third => Sys2Proof.Machine.execAuditReplay cluster imm err third s
  | .railReading col rail r => Sys2Proof.Machine.execRailReading col rail r s
  | .throttle col rail => Sys2Proof.Machine.execThrottle col rail s
  | .columnRestart col => Sys2Proof.Machine.execColumnRestart col s
  | .phaseFailure col rail => Sys2Proof.Machine.execPhaseFailure col rail s
  | .columnGate col => Sys2Proof.Machine.execColumnGate col s
  | .inrushGrant col => Sys2Proof.Machine.execInrushGrant col s
  | .wakeStepWait col => Sys2Proof.Machine.execWakeStepWait col s
  | .islpt isl x => Sys2Proof.Machine.execIslpt isl x s
  | .islptChangeDone isl => Sys2Proof.Machine.execIslptChangeDone isl s
  | .laystg x => Sys2Proof.Machine.execLaystg x s
  | .laycmt x => Sys2Proof.Machine.execLaycmt x s
  | .basecampRestart => Sys2Proof.Machine.execBasecampRestart s
  | .fabid x => Sys2Proof.Machine.execFabid x s
  | .registerWrite pa n x => Sys2Proof.Machine.execRegisterWrite pa n x s
  | .selfTestDrain => Sys2Proof.Machine.execSelfTestDrain s
  | .selfTestPreempt => Sys2Proof.Machine.execSelfTestPreempt s
  | .scanSelfTestDone pass => Sys2Proof.Machine.execScanSelfTestDone pass s
  | .spareReplacement x => Sys2Proof.Machine.execSpareReplacement x s
  | .attestationReport nonce => Sys2Proof.Machine.execAttestationReport nonce s
  | .otpMinimumVersionRaise version => Sys2Proof.Machine.execOtpMinimumVersionRaise version s
  | .packageReset pass slotA slotB => Sys2Proof.Machine.execPackageReset pass slotA slotB s
  | .islandPowerUp isl => Sys2Proof.Machine.execIslandPowerUp isl s
  | .inboundRequest req => Sys2Proof.Machine.execInboundRequest req s
  | .unreachable w acc => Sys2Proof.Machine.execUnreachable w acc s
  | .unassignedOpcode x => Sys2Proof.Machine.execUnassignedOpcode x s
  | .fetchFault => Sys2Proof.Machine.execFetchFault s
  | .storePerformed w acc => Sys2Proof.Machine.execStorePerformed w acc s
  | .rangeWalkComplete cluster imm => Sys2Proof.Machine.execRangeWalkComplete cluster imm s
  | .wakeStepEnd col => Sys2Proof.Machine.execWakeStepEnd col s
  | .coolingShortfall isl point => Sys2Proof.Machine.execCoolingShortfall isl point s

end Sys2Proof.Machine
end

