-- ==== Sys2Proof/Machine/Settle.lean ====
section
/-! DEFINITION. What follows from any change at once, at the end of its step. -/

namespace Sys2Proof.Machine

/-- Macros that waited for a wave to leave them are written (R389). -/
def State.settleMacros (s : State) : State :=
  (s.groups.filter (fun e => !e.2.macWait.isEmpty)).foldl (fun s e => s.writeMacros e.1) s

/-- A gang that stalled would go on now: tried, it issues, though it may then wait for something else, or takes its trap (R222). -/
def State.goesOn (s : State) (u sl : Nat) : Bool :=
  let after (t : State) : Bool := match t.wave? u, s.wave? u with
    | some w, some w0 => decide ((w.st.slice sl).wait ≠ some .stall ∧ (w.st.slice sl).wait ≠ some .retry) || decide (w.st.trap ≠ w0.st.trap)
    | _, _ => true
  match s.issueGang u sl with
  | .done t => after t
  | .run i t => match exec i t with
    | .next t' => after t'
    | .fault _ | .refused _ => true

/-- A core holds an issuable wave: one with a gang that waits for nothing, or that stalled for what now holds (R222). -/
def State.issuableNow (s : State) (core : Nat) : Bool :=
  s.issuable core || (s.wavesOn core).any (fun e => e.2.st.leads.any (fun i => s.canIssue e.2 i && s.goesOn e.1 i))

/-- The waiting burn of a core ends when a wave of it becomes issuable (R222). -/
def State.settleBurn (s : State) : State :=
  (s.cores.filter (fun e => decide (e.2.waitBurn ≠ 0) && s.issuableNow e.1)).foldl (fun s e => s.updCore e.1 (fun k => { k with waitBurn := 0 })) s

/-- A hidden wave whose region has closed early ends (R265). -/
def State.settleReplays (s : State) : State :=
  if s.waves.any (fun e => e.2.hidden.isSome && !e.2.st.region) then
    { s with waves := s.waves.map (fun (e : Nat × Wave) => if e.2.hidden.isSome && !e.2.st.region then (e.1, { e.2 with ending := true }) else e) }
  else s

/-- What follows from any change at once. -/
def State.settleAll (s : State) : State := s.settleMacros.settleBurn.settleReplays

/-- After an instruction: no gang is acting, and what its wave wrote has found its room in the register undo log (R242). -/
def State.settle (s : State) : State :=
  match s.act with
  | none => s.settleAll
  | some (u, _) => { s.relieveRegs u with act := none }.settleAll

end Sys2Proof.Machine
end

