-- ==== Sys2Proof/Machine/Step.lean ====
section
/-! DEFINITION. One step of the machine: what `State.choose` picks, run by `exec`. -/

namespace Sys2Proof.Machine

/-- One step. -/
def step (s : State) : Host.Outcome State Fault Refusal :=
  match s.choose with
  | .done t => .next t.settle
  | .run i t =>
    match exec i t with
    | .next t' => .next t'.settle
    | .fault f => .fault f
    | .refused r => .refused r

/-- The machine with an instruction word where `step` fetches next. -/
def State.withFetchWord (s : State) (nbits w : Nat) : State := s.placeWord (BitVec.ofNat 32 (w % 2 ^ nbits))

end Sys2Proof.Machine
end

