-- ==== Sys2Proof/Safety.lean ====
section
/-! DEFINITION. The terms in which claims are made: which states are sound, when an instruction is issuing and may complete, and what it
leaves alone. -/

namespace Sys2Proof.Machine

/-! ### Invariants -/

/-- The memory has its canonical form. -/
def State.MemOk (s : State) : Prop := Memory.wf s.mem = true

/-- The running image is not older than the OTP's minimum version (R261). -/
def State.BootOk (s : State) : Prop := ∀ v, s.booted = some v → s.otpMin ≤ v

/-- The bytes that a saved context keeps are in canonical form and within a core's window (R247). -/
def Context.BytesOk (x : Context) : Prop := Memory.wf x.bytes = true ∧ ∀ c ∈ x.bytes, c.1 < coreWindow

/-- The memory has its canonical form, and so have the bytes of every context that waits in a Cistern or in HBM to come back to it. -/
structure State.BytesOk (s : State) : Prop where
  /-- the memory -/
  mem : s.MemOk
  /-- contexts in HBM -/
  stored : ∀ x ∈ s.stored, x.BytesOk
  /-- contexts in the Cisterns -/
  cisterns : ∀ e ∈ s.cores, ∀ x, e.2.cistern = some x → x.BytesOk

/-! ### An instruction that issues -/

/-- The gang of slice `c.sl` of wave `c.u` acts in `s`, and `c` is what its instruction sees. -/
structure Issues (s : State) (c : Ctx) : Prop where
  /-- the machine -/
  machine : c.s = s
  /-- the acting gang -/
  acting : s.act = some (c.u, c.sl)
  /-- its wave -/
  wave : s.wave? c.u = some c.w

/-- The word is one of the instruction set, and the processor is a core, or a Trailhead processor and the word belongs to the uniform
subset (R53, R70, R270). -/
def Ctx.Allowed (c : Ctx) (i : Instr) (uniform : Bool) (ops : List Operand) : Prop :=
  i.wf = true ∧ (c.w.tp = none ∨ uniform = true ∧ ∀ o ∈ ops, clsOf o = .uni ∨ clsOf o = .upred)

/-- Every v register named lies within the wave's allocation (R61). -/
def Ctx.Allocated (c : Ctx) (ops : List Operand) : Prop := ∀ n, Operand.v n ∈ ops → n.val < c.w.valloc

/-- The registers behind the operands are full (R44). -/
def Ctx.Full (c : Ctx) (ops : List Operand) : Prop := ∀ o ∈ ops, ∀ r, dstOf o = some r → c.r.empty r = false

/-- What a register instruction with destination `d` and sources `srcs` needs in order to complete (R41, R42, R44, R53, R61, R64, R71): its
word is allowed, its guard is not reserved, its registers are allocated, a uniform write has no p guard and the whole live set, and, when
it acts, its registers are full. -/
structure Ready (c : Ctx) (i : Instr) (uniform : Bool) (d : Operand) (srcs : List Operand) : Prop where
  /-- R53, R70 -/
  allowed : c.Allowed i uniform (d :: srcs)
  /-- R64 -/
  guard : guardReserved c.mx = false
  /-- R61 -/
  allocated : c.Allocated (d :: srcs)
  /-- R41, R42 -/
  whole : clsOf d ≠ .vary → clsOf d ≠ .vpred → guardIsP c.mx = false ∧ c.act = c.live
  /-- R44 -/
  full : c.acts d = true → c.Full (d :: srcs)

/-- What a reduction or a scan needs in order to complete (R364, R371): its word, a guard that is not reserved, allocated registers, full live
membership, a true k guard where the guard is one, and full registers. -/
def Gathers (c : Ctx) (i : Instr) (ops : List Operand) : Prop :=
  c.Allowed i false ops ∧ guardReserved c.mx = false ∧ c.Allocated ops ∧ c.w.st.fullMember c.sl = true ∧
    (guardIsK c.mx = true → c.kOn = true) ∧ c.Full ops

/-- The classes of R40: a varying destination takes varying and uniform sources, a uniform one takes uniform sources. -/
def VaryingOrUniform (d : Operand) (srcs : List Operand) : Prop :=
  (clsOf d = .vary ∧ ∀ o ∈ srcs, clsOf o = .vary ∨ clsOf o = .uni) ∨ (isS d = true ∧ ∀ o ∈ srcs, clsOf o = .uni)

/-- The integer types of MODE.T (R64, R80): element width and signedness. -/
def IntType (ty n : Nat) (signed : Bool) : Prop :=
  (ty, n, signed) ∈ [(0, 32, true), (1, 32, false), (7, 16, true), (8, 16, false), (9, 8, true), (10, 8, false)]

/-- The range of an element (R80, R81). -/
def InRange (n : Nat) (signed : Bool) (x : Int) : Prop :=
  if signed then -(2 ^ (n - 1) : Nat) ≤ x ∧ x < (2 ^ (n - 1) : Nat) else 0 ≤ x ∧ x < (2 ^ n : Nat)

/-- An exact result brought into an element of `n` bits (R81): clamped to its range when saturating, else reduced modulo 2^n. -/
def Narrowed (n : Nat) (signed sat : Bool) (exact r : Int) : Prop :=
  InRange n signed r ∧
    if sat then (InRange n signed exact → r = exact) ∧ (∀ y, InRange n signed y → exact < y → r ≤ y) ∧ (∀ y, InRange n signed y → y < exact → y ≤ r)
    else (r - exact) % (2 ^ n : Nat) = 0

/-- A combination of R364 of two element codes of an integer type: by 0 the exact sum, wrapped or clamped (R81), by 1 the smaller of the two
and by 2 the larger, as signed or unsigned numbers. -/
def Combines (op n : Nat) (signed sat : Bool) (x y z : Nat) : Prop :=
  let v (a : Nat) : Int := if signed && decide (2 ^ (n - 1) ≤ a) then (a : Int) - (2 ^ n : Nat) else a
  z < 2 ^ n ∧ (op = 0 → Narrowed n signed sat (v x + v y) (v z)) ∧ (op = 1 → v z = min (v x) (v y)) ∧ (op = 2 → v z = max (v x) (v y))

/-- A combination of operands that may be absent: a present one passes unchanged (R101). -/
def present (f : Nat → Nat → Nat) : Option Nat → Option Nat → Option Nat
  | some x, some y => some (f x y)
  | some x, none => some x
  | none, y => y

/-- The value of a node of the tree of R101, by level and number: level 0 holds the lanes, and a node combines the two adjacent ones below it,
the lower lanes on the left. `f` sees the level below and the node's number. -/
def treeNode (f : Nat → Nat → Nat → Nat → Nat) (xs : Nat → Option Nat) : Nat → Nat → Option Nat
  | 0, i => xs i
  | k + 1, i => present (f k i) (treeNode f xs k (2 * i)) (treeNode f xs k (2 * i + 1))

/-- What a lane holds after some of the five steps of R102; `f` sees the step and the lane. -/
def scanLane (f : Nat → Nat → Nat → Nat → Nat) (xs : Nat → Option Nat) : Nat → Nat → Option Nat
  | 0, l => xs l
  | k + 1, l => if 2 ^ k ≤ l then present (f k l) (scanLane f xs k (l - 2 ^ k)) (scanLane f xs k l) else scanLane f xs k l

/-! ### Numbers -/

/-- `y` is num / den rounded to an integer of the sign `neg` by RM, ties and directions as R85 has them and the draw `g` as R86. -/
def RoundedInt (rm : Nat) (g : BitVec 16) (neg : Bool) (num den : Nat) (y : Int) : Prop :=
  let rem := num % den
  let up : Prop := rem ≠ 0 ∧
    (rm = 0 ∧ (2 * rem > den ∨ 2 * rem = den ∧ num / den % 2 = 1) ∨ rm = 2 ∧ neg = false ∨ rm = 3 ∧ neg = true ∨ rm = 4 ∧ 2 * rem ≥ den ∨
      rm = 5 ∧ rem * 2 ^ 16 / den + g.toNat ≥ 2 ^ 16)
  ∃ m : Nat, (up → m = num / den + 1) ∧ (¬up → m = num / den) ∧ y = if neg then -(m : Int) else m

/-- The value of a code of a type that is no integer type (R64, R83, R87). -/
def floatVal (ty x : Nat) : FpVal :=
  if ty = 2 then f32.val x
  else if ty = 3 ∨ ty = 5 then f16.val x
  else if ty = 4 ∨ ty = 6 then bf16.val x
  else if ty = 11 then (if x % 128 = 127 then .nan else .fin (decide (x / 128 % 2 = 1)) (e4m3.magnitude x).1 (e4m3.magnitude x).2)
  else e5m2.val x

/-- The code that a value rounds to in such a type (R84, R85); for E4M3 and E5M2 the three steps of R88. -/
def floatCode (ty rm : Nat) (sat : Bool) (g : BitVec 16) (v : FpVal) : Nat :=
  let zero (neg : Bool) : Bool := decide (rm = 1 ∨ rm = 2 ∧ neg = true ∨ rm = 3 ∧ neg = false)
  let sgn (neg : Bool) : Nat := if neg then 0x80 else 0
  if ty = 2 then f32.round rm g v
  else if ty = 3 ∨ ty = 5 then f16.round rm g v
  else if ty = 4 ∨ ty = 6 then bf16.round rm g v
  else match v with
    | .nan => if ty = 11 then 0x7F else 0x7E
    | .inf neg => if ty = 11 then (if sat then 0x7E + sgn neg else 0x7F) else (if sat || zero neg then 0x7B else 0x7C) + sgn neg
    | .fin neg m e =>
      if ty = 11 then
        (if e4m3.roundMag rm neg g m e ≤ 0x7E then e4m3.roundMag rm neg g m e + sgn neg else if sat then 0x7E + sgn neg else 0x7F)
      else (if e5m2.roundMag rm neg g m e ≤ 0x7B then e5m2.roundMag rm neg g m e else if sat || zero neg then 0x7B else 0x7C) + sgn neg

/-- A value divided by 2^(e − 127) and multiplied by 2^k (R95, R96). -/
def FpVal.over (e : Nat) (k : Int) : FpVal → FpVal
  | .nan => .nan
  | .inf neg => .inf neg
  | .fin neg m q => .fin neg m (q + 127 - e + k)

/-! ### Accumulation (R98 to R100, R161) -/

/-- A field of n bits in two's complement. -/
def signedField (n x : Nat) : Int := if x < 2 ^ (n - 1) then x else (x : Int) - (2 ^ n : Nat)

/-- RoundHalfEven(m / 2), n times over (R99). -/
def halved (m : Int) : Nat → Int
  | 0 => m
  | n + 1 =>
    let x := halved m n
    if x % 2 = 0 ∨ x / 2 % 2 = 0 then x / 2 else x / 2 + 1

/-- `r` is b × 2^k, rounded half to even (R99). -/
def Aligned (b k r : Int) : Prop :=
  (0 ≤ k → r = b * (2 ^ k.toNat : Nat)) ∧
    (k < 0 → let d : Int := (2 ^ (-k).toNat : Nat)
      2 * (r * d - b).natAbs ≤ d ∧ (2 * ((r * d - b).natAbs : Int) = d → r % 2 = 0))

/-- |m| + |b| × 2^(n − e) reaches 2^47, exactly (R99). -/
def Reaches47 (m b n e : Int) : Prop :=
  m.natAbs * 2 ^ (e - n).toNat + b.natAbs * 2 ^ (n - e).toNat ≥ 2 ^ 47 * 2 ^ (e - n).toNat

/-- The loop that ends a word: halvings until every mantissa is below 2^46 (R99, R100). -/
def FinalLoop (ms : List Int) (e : Int) (ms' : List Int) (e' : Int) : Prop :=
  ∃ n : Nat, e' = e + n ∧ ms' = ms.map (fun m => halved m n) ∧ (∀ m ∈ ms, (halved m n).natAbs < 2 ^ 46) ∧
    ∀ j, j < n → ∃ m ∈ ms, (halved m j).natAbs ≥ 2 ^ 46

/-- A weight: an INT8 code for `mma.i8w`, else w′ of a DW8 code (R91, R161). -/
def weightOf (kind x : Nat) : Int :=
  let term (s c : Nat) : Int := if c = 7 then 0 else if s = 1 then -(2 ^ (6 - c) : Nat) else (2 ^ (6 - c) : Nat)
  if kind = 2 then signedField 8 x else term (x / 128 % 2) (x / 16 % 8) + term (x / 8 % 2) (x % 8)

/-- Element k of row i of an A region: a BI8 code, or 16 × a BI4 code (R98, R158). -/
def actOf (kind : Nat) (a : Nat → Nat) (i k : Nat) : Int :=
  if kind = 1 then 16 * signedField 4 (a (128 * i + k / 2) / 16 ^ (k % 2) % 16) else signedField 8 (a (256 * i + k))

/-- The contributions of block g to the elements of the rows that take part, with scale bytes `ea` by row (R98, R161). -/
def IsBlock (kind rows g : Nat) (a img ea : Nat → Nat) (cs : List Contrib) : Prop :=
  cs.length = 256 * rows ∧ ∀ i j, i < rows → j < 256 → ∃ x, cs[256 * i + j]? = some x ∧ x.at_ = 256 * i + j ∧
    let ew := img (65536 + 256 * g + j)
    if ea i = 255 ∨ ew = 255 then x.b = 0 ∧ x.n = none
    else x.n = some ((ea i : Int) + ew - 254 - if kind = 2 then 6 else 12) ∧
      x.b = ((List.range 32).map (fun k => actOf kind a i (32 * g + k) * weightOf kind (img (256 * (32 * g + k) + j)))).sum

/-! ### Bytes that packets move (R145, R146) -/

/-- A span of HBM, or of the S or A buffer of a core. -/
def PlainSpan (e : Nat × Nat) : Prop :=
  e.1 + e.2 ≤ hbmBytes ∨ ∃ core, core < 512 ∧
    (locS core ≤ e.1 ∧ e.1 + e.2 ≤ locS core + 0x40000 ∨ locA core ≤ e.1 ∧ e.1 + e.2 ≤ locA core + 0x20000)

/-- No byte is a destination twice, none is both origin and destination, and no unpaired atomic has written where the packet reads (R135,
R145). -/
def Apart (s : State) (src dst : List (Nat × Nat)) : Prop :=
  (∀ e ∈ src ++ dst, PlainSpan e) ∧ (spanLocs src).length = (spanLocs dst).length ∧ (spanLocs dst).Nodup ∧
    (∀ x ∈ spanLocs src, x ∉ spanLocs dst) ∧ ∀ e ∈ src, ∀ x ∈ s.evs, isA x.loc = false → overlap x.loc x.n e.1 e.2 = false

/-- The bytes of the origin, in order, come to those of the destination; no other byte changes, and poison goes along (R145, R390). -/
def BytesMove (s t : State) (src dst : List (Nat × Nat)) : Prop :=
  (∀ (i x y : Nat), (spanLocs src)[i]? = some x → (spanLocs dst)[i]? = some y →
    t.mem.read y = s.mem.read x ∧ (s.isPoisoned x = true → t.isPoisoned y = true)) ∧
  ∀ y ∉ spanLocs dst, t.mem.read y = s.mem.read y

/-- Each element of n bytes at the destination becomes `f` of it and the element at its place in the origin; no other byte changes. -/
def ElementsCombine (s t : State) (n : Nat) (f : Nat → Nat → Nat) (src dst : List (Nat × Nat)) : Prop :=
  (∀ (i l : Nat), (spanLocs dst)[n * i]? = some l → t.mem.bytes l n =
    natLe n (f (leNat (s.mem.bytes l n)) (leNat ((((spanLocs src).drop (n * i)).take n).map s.mem.read)))) ∧
  ∀ y ∉ spanLocs dst, t.mem.read y = s.mem.read y

/-! ### What an instruction leaves alone -/

/-- Nothing of the machine but the waves differs; of the waves, only wave `u` differs. -/
structure OnlyWave (s t : State) (u : Nat) : Prop where
  /-- every field but the waves -/
  machine : t = { s with waves := t.waves }
  /-- every other wave -/
  others : ∀ v, v ≠ u → t.wave? v = s.wave? v

/-- A wave that an instruction changes in its registers and its slices alone: batches, traps, power and the rest of the checkpointed state,
the accesses in flight, the posted packets and the logs but the register log stay. A queued word may learn that its scale register was written. -/
structure OnlyRegs (w w' : Wave) : Prop where
  /-- outside the checkpointed state, the register undo log may grow, and watched scale registers be met -/
  wave : w' = { w with st := w'.st, regLog := w'.regLog, watch := w'.watch }
  /-- of the checkpointed state, registers and slices alone -/
  core : w'.st = { w.st with regs := w'.st.regs, slices := w'.st.slices }

/-- The slices of the issuing gang have moved past their instruction, and every other slice stays (R30, R51, R339). -/
def Moved (c : Ctx) (w' : Wave) : Prop :=
  ∀ i, i < 8 → w'.st.slice i = if i ∈ c.w.st.gangOf c.sl then (c.w.st.slice i).advance else c.w.st.slice i

/-- A wave that differs from the issuing one in its slices alone: slice i of the issuing gang became `f` of what it was. -/
structure Redirected (c : Ctx) (w' : Wave) (f : Slice → Slice) : Prop where
  /-- nothing but slices -/
  wave : w' = { c.w with st := { c.w.st with slices := w'.st.slices } }
  /-- the slices -/
  slices : ∀ i, i < 8 → w'.st.slice i = if i ∈ c.w.st.gangOf c.sl then f (c.w.st.slice i) else c.w.st.slice i

/-- The trap that an issuing gang's instruction raises, met by every active thread (R71, R231). -/
abbrev Ctx.trapped (c : Ctx) (x : Cause) (fa : DWord) : State :=
  c.s.takeTrap c.u c.sl { cause := x, mask := c.act, fa := fa, s2 := false, asy := false, unr := false }

/-! ### Accesses -/

/-- A location is a register of view P, for a wave outside the privileged view (R6, R253). -/
def Ctx.Hidden (c : Ctx) (loc n : Nat) : Prop := c.w.tp = none ∧ c.w.st.privileged = false ∧ apPrivate loc n = true

/-- Every contributing thread's address is aligned and reaches a location: a translation with the permissions for the global space, to no
register that the view hides, the core group's allocation and the table of R106 for a typed buffer (R106, R107, R109, R112, R122). -/
def Ctx.Reaches (c : Ctx) (k : AccKind) (need : BitVec 4) (b : Fin 8) (n : Nat) (ts : List Nat) (addr : Nat → DWord) (loc : Nat → XRes) : Prop :=
  ∀ t ∈ ts, (addr t).toNat % n = 0 ∧
    if (c.base b).tag = 0 then c.s.xlateWave c.w (addr t).toNat need = .ok (loc t) ∧ ¬c.Hidden (loc t).loc n
    else loc t = { loc := bufLoc c.w.core (c.base b).tag (addr t).toNat, cache := false, found := [] } ∧
      ∃ g, c.s.group? c.w.group = some g ∧ inAlloc g (c.base b).tag (addr t).toNat n = true ∧ viewOk k (c.base b).tag n = true

/-- An access of n bytes at an address meets a trap of R112 (R106, R107, R109, R122), or PRV at a register that the view hides (log entry 66,
DEDUCED); `s2` tells whether a translation failed at stage 2. -/
def Ctx.Meets (c : Ctx) (k : AccKind) (need : BitVec 4) (b : Fin 8) (n : Nat) (addr : DWord) (x : Cause) (s2 : Bool) : Prop :=
  let tag := (c.base b).tag
  (x = .spf ∧ s2 = false ∧ tag ≠ 0 ∧
    ∀ g, c.s.group? c.w.group = some g → inAlloc g tag addr.toNat n = true → viewOk k tag n = false) ∨
  (x = .alf ∧ s2 = false ∧ addr.toNat % n ≠ 0) ∨
  (x = .trf ∧ tag = 0 ∧ c.s.xlateWave c.w addr.toNat need = .error (.mk false s2)) ∨
  (x = .pmf ∧ tag = 0 ∧ c.s.xlateWave c.w addr.toNat need = .error (.mk true s2)) ∨
  (x = .prv ∧ s2 = false ∧ tag = 0 ∧ ∃ r, c.s.xlateWave c.w addr.toNat need = .ok r ∧ c.Hidden r.loc n)

/-- The checks of R112 raise `x`: some thread of `ts` meets it, `t` the lowest, and none meets a cause that stands before it in the order SPF,
ALF, TRF, PMF, PRV; `mask` holds the threads that meet it. -/
structure Ctx.Raises (c : Ctx) (k : AccKind) (need : BitVec 4) (b : Fin 8) (n : Nat) (ts : List Nat) (addr : Nat → DWord) (x : Cause) (t : Nat)
    (s2 : Bool) (mask : Lanes) : Prop where
  /-- a contributing thread -/
  thread : t ∈ ts
  /-- it meets the trap -/
  meets : c.Meets k need b n (addr t) x s2
  /-- no lower one does -/
  lowest : ∀ u ∈ ts, u < t → ∀ z, ¬c.Meets k need b n (addr u) x z
  /-- none meets an earlier one -/
  first : ∀ y ∈ [Cause.spf, .alf, .trf, .pmf, .prv].takeWhile (fun y => decide (y ≠ x)), ∀ u ∈ ts, ∀ z, ¬c.Meets k need b n (addr u) y z
  /-- those that meet it -/
  mask : ∀ j, j < 32 → (mask.getLsbD j = true ↔ j ∈ ts ∧ ∃ z, c.Meets k need b n (addr j) x z)

/-- The state after such a trap of the issuing gang, for the threads of `mask`; PRV gives address 0 (R231). -/
abbrev Ctx.refused (c : Ctx) (x : Cause) (mask : Lanes) (fa : DWord) (s2 : Bool) : State :=
  c.s.takeTrap c.u c.sl { cause := x, mask := mask, fa := if x = .prv then 0 else fa, s2 := s2, asy := false, unr := false }

/-- An affine offset has OV set, under MODE.AOT = 1 (R43). -/
def Ctx.Overflows (c : Ctx) (o : Operand) : Prop := ∃ n, o = .a n ∧ (c.r.a.getD n.val ⟨0, 0, false⟩).ov = true ∧ modeAOT c.mm = true

/-- An affine offset has no OV, or MODE.AOT is 0 (R43). -/
def Ctx.NoOverflow (c : Ctx) (o : Operand) : Prop := ∀ n, o = .a n → (c.r.a.getD n.val ⟨0, 0, false⟩).ov = false ∨ modeAOT c.mm = false

/-- n bytes of a thread's access from byte `off` of it on: location, virtual address, data, and whether the core data cache may hold them. -/
def partAt (t : Nat) (va : DWord) (x : XRes) (off n data data2 : Nat) : Piece :=
  Piece.mk t (x.loc + off) (va.toNat + off) n data data2 x.cache (off / 4) none []

/-- The pieces of an access: one a thread, at its location, with its datum; a q access to memory has two of 8 bytes (R129). -/
def piecesAt (ts : List Nat) (addr : Nat → DWord) (loc : Nat → XRes) (n : Nat) (data data2 : Nat → Nat) : List Piece :=
  ts.flatMap (fun t =>
    if n = 16 ∧ isAperture (loc t).loc = false then [partAt t (addr t) (loc t) 0 8 (data t % 2 ^ 64) 0, partAt t (addr t) (loc t) 8 8 (data t / 2 ^ 64 % 2 ^ 64) 0]
    else [partAt t (addr t) (loc t) 0 n (data t % 2 ^ (8 * n)) (data2 t)])

/-- An access went into flight and the gang moved on: the wave's list of accesses grew by one with property `P`, the registers `ds` are empty
until it returns and no register's value changed; memory is as it was, and so are the registers of every other wave. -/
def Sent (c : Ctx) (t : State) (ds : List Dst) (P : Access → Prop) : Prop :=
  t.mem = c.s.mem ∧ (∀ v, v ≠ c.u → (t.wave? v).map (fun y => y.st.regs) = (c.s.wave? v).map (fun y => y.st.regs)) ∧
    ∃ w' a, t.wave? c.u = some w' ∧ w'.inflight = c.w.inflight ++ [a] ∧ P a ∧ Moved c w' ∧
      w'.st.regs = { c.r with vEmpty := w'.st.regs.vEmpty, sEmpty := w'.st.regs.sEmpty } ∧
      ∀ x, w'.st.regs.empty x = (c.r.empty x || ds.contains x)

/-! ### Registers -/

/-- Every register but those named by `ds` holds what it held. -/
structure Kept (r r' : Regs) (ds : List Operand) : Prop where
  /-- v registers -/
  v : ∀ n : Fin 64, Operand.v n ∉ ds → r'.v[n] = r.v[n]
  /-- s registers -/
  s : ∀ n : Fin 32, Operand.s n ∉ ds → r'.s[n] = r.s[n]
  /-- a registers -/
  a : ∀ n : Fin 16, Operand.a n ∉ ds → r'.a[n] = r.a[n]
  /-- p registers -/
  p : ∀ n : Fin 8, Operand.p n ∉ ds → r'.pred n = r.pred n
  /-- k registers -/
  k : ∀ n : Fin 4, Operand.k n ∉ ds → r'.kpred n = r.kpred n
  /-- b registers -/
  b : r'.b = r.b
  /-- full/empty bits of the v registers -/
  vEmpty : r'.vEmpty = r.vEmpty
  /-- full/empty bits of the s registers -/
  sEmpty : r'.sEmpty = r.sEmpty

end Sys2Proof.Machine
end

