-- ==== Sys2Proof/Certificates/Slice0/Obligations.lean ====
section
/-! DEFINITION. The statements for the provers: what the instructions do, what they leave alone, where they stop, and the invariants. -/

open Sys2Proof Sys2Proof.Machine

/-! ### Integer, bit and move instructions -/

/-- R335, R351, R272 with R271, R80 and R81: an integer instruction whose destination is varying or uniform writes, in every element of
every thread that it writes, the exact result brought into the element's range. -/
def Obligations.IntegerArithmeticByElement : Prop :=
  ∀ (s : State) (c : Ctx) (d a b : Operand) (n : Nat) (signed : Bool), Issues s c → IntType (modeT c.mx) n signed →
    ∀ e ∈ ([(.add d a b, [a, b], fun x y _ => x + y), (.sub d a b, [a, b], fun x y _ => x - y), (.mul d a b, [a, b], fun x y _ => x * y),
        (.mulh d a b, [a, b], fun x y _ => x * y / (2 ^ n : Nat)), (.mad d a b, [a, b, d], fun x y z => x * y + z),
        (.neg d a, [a], fun x _ _ => -x), (.abs d a, [a], fun x _ _ => if x < 0 then -x else x),
        (.min d a b, [a, b], fun x y _ => min x y), (.max d a b, [a, b], fun x y _ => max x y)] :
        List (Instr × List Operand × (Int → Int → Int → Int))),
      Ready c e.1 true d e.2.1 → VaryingOrUniform d e.2.1 →
      ∃ f : Nat → Word, exec e.1 s = .next (c.put (c.write d f)) ∧
        ∀ t k, t < 32 → k < 32 / n →
          Narrowed n signed (modeSAT c.mx) (e.2.2 (elem n signed (c.r.src a t) k) (elem n signed (c.r.src b t) k) (elem n signed (c.r.src d t) k))
            (elem n signed (f t) k)

/-- R274, R354, R369, R295: the logical instructions on registers, the shifts and `brev` act on the 32 bits alone. -/
def Obligations.BitInstructionsOnThirtyTwoBits : Prop :=
  ∀ (s : State) (c : Ctx) (d a b : Operand), Issues s c →
    ∀ e ∈ ([(.and d a b, [a, b], fun x y => x &&& y), (.or d a b, [a, b], fun x y => x ||| y), (.xor d a b, [a, b], fun x y => x ^^^ y),
        (.not d a, [a], fun x _ => ~~~x), (.shl d a b, [a, b], fun x y => x <<< y.toNat), (.shr d a b, [a, b], fun x y => x >>> y.toNat),
        (.sar d a b, [a, b], fun x y => x.sshiftRight y.toNat), (.rot d a b, [a, b], fun x y => x.rotateLeft y.toNat),
        (.brev d a, [a], fun x _ => x.reverse)] : List (Instr × List Operand × (Word → Word → Word))),
      Ready c e.1 true d e.2.1 → VaryingOrUniform d e.2.1 →
      exec e.1 s = .next (c.put (c.write d (fun t => e.2.2 (c.r.src a t) (c.r.src b t))))

/-- R306, R356: `clz` counts the zero bits above the most significant set bit, `popc` the set bits.
R291 to R293: `bfx` takes a field of at most 32 − POS bits to the bottom of D, zero- or sign-extended; `bfi` puts the low bits of A
into the field of D and keeps its other bits. -/
def Obligations.BitFieldsAndCounts : Prop :=
  (∀ (s : State) (c : Ctx) (d a : Operand), Issues s c → VaryingOrUniform d [a] →
    (Ready c (.clz d a) true d [a] → ∃ f : Nat → Word, exec (.clz d a) s = .next (c.put (c.write d f)) ∧
      ∀ t, (f t).toNat ≤ 32 ∧ (∀ j, j < 32 → 32 - (f t).toNat ≤ j → (c.r.src a t).getLsbD j = false)
        ∧ ((f t).toNat < 32 → (c.r.src a t).getLsbD (31 - (f t).toNat) = true))
    ∧ (Ready c (.popc d a) true d [a] → ∃ f : Nat → Word, exec (.popc d a) s = .next (c.put (c.write d f)) ∧
      ∀ t, (f t).toNat = (List.range 32).countP (fun j => (c.r.src a t).getLsbD j)))
    ∧ (∀ (s : State) (c : Ctx) (d a b : Operand), Issues s c →
    (VaryingOrUniform d [a, b] → Ready c (.bfx d a b) true d [a, b] → ∃ f : Nat → Word, exec (.bfx d a b) s = .next (c.put (c.write d f)) ∧
      ∀ t, let y := c.r.src b t
        let pos := (y.extractLsb' 0 5).toNat
        let n := min ((y.extractLsb' 8 5).toNat + 1) (32 - pos)
        ∀ j, j < 32 → (f t).getLsbD j = if j < n then (c.r.src a t).getLsbD (pos + j) else y.getLsbD 15 && (c.r.src a t).getLsbD (pos + n - 1))
    ∧ (VaryingOrUniform d [a, b, d] → Ready c (.bfi d a b) true d [a, b, d] → ∃ f : Nat → Word, exec (.bfi d a b) s = .next (c.put (c.write d f)) ∧
      ∀ t, let y := c.r.src b t
        let pos := (y.extractLsb' 0 5).toNat
        let n := min ((y.extractLsb' 8 5).toNat + 1) (32 - pos)
        ∀ j, j < 32 → (f t).getLsbD j = if pos ≤ j ∧ j < pos + n then (c.r.src a t).getLsbD (j - pos) else (c.r.src d t).getLsbD j))

/-- R348, R349: `mov` on registers copies the pattern of A, `movi` writes the immediate zero-extended, `movh` replaces the upper half.
R373: `sel` writes every active thread, whatever its guard, with A where the guard is true and B where it is not; a uniform D once. -/
def Obligations.MovesAndSelection : Prop :=
  (∀ (s : State) (c : Ctx) (d a : Operand) (x : BitVec 16), Issues s c →
    (VaryingOrUniform d [a] → Ready c (.mov d a) true d [a] → exec (.mov d a) s = .next (c.put (c.write d (fun t => c.r.src a t))))
    ∧ (VaryingOrUniform d [] → Ready c (.movi d x) true d [] → exec (.movi d x) s = .next (c.put (c.write d (fun _ => 0#16 ++ x))))
    ∧ (VaryingOrUniform d [d] → Ready c (.movh d x) true d [d] →
        exec (.movh d x) s = .next (c.put (c.write d (fun t => x ++ (c.r.src d t).truncate 16)))))
    ∧ (∀ (s : State) (c : Ctx) (a b : Operand), Issues s c →
    (∀ n : Fin 64, VaryingOrUniform (.v n) [a, b] → c.Allowed (.sel (.v n) a b) true [.v n, a, b] → guardReserved c.mx = false →
      c.Allocated [.v n, a, b] → c.Full [.v n, a, b] →
      exec (.sel (.v n) a b) s = .next (c.put (if c.act = 0 then c.w else
        c.w.putV n.val c.act (fun t => if (guardMask c.r c.mx).getLsbD t then c.r.src a t else c.r.src b t))))
    ∧ (∀ n : Fin 32, VaryingOrUniform (.s n) [a, b] → c.Allowed (.sel (.s n) a b) true [.s n, a, b] → guardReserved c.mx = false →
      guardIsP c.mx = false → c.act = c.live → c.Full [.s n, a, b] →
      exec (.sel (.s n) a b) s = .next (c.put (c.w.putS n.val (if c.kOn then c.r.src a 0 else c.r.src b 0)))))

/-- R348, R357, R43: an affine value expands into thread t as base + t × stride; with OV set and MODE.AOT = 1 it raises AFO instead.
R273, R336, R343, R351, R352, R370 with R43: what an affine destination receives, and its OV: set when a source has it, or when the
exact value of some lane is not the one that the register gives. -/
def Obligations.AffineRegisters : Prop :=
  (∀ (s : State) (c : Ctx) (n : Fin 64) (m : Fin 16), Issues s c →
    ∀ i ∈ [Instr.mov (.v n) (.a m), Instr.promo (.v n) (.a m)],
      c.Allowed i false [.v n, .a m] → guardReserved c.mx = false → n.val < c.w.valloc → c.hit ≠ 0 →
      (modeAOT c.mm = true → c.r.a[m].ov = true →
        exec i s = .next (c.trapped .afo 0))
      ∧ (modeAOT c.mm = false ∨ c.r.a[m].ov = false → c.r.vEmpty.getLsbD n.val = false →
        exec i s = .next (c.put (c.w.putV n.val c.hit (fun t => c.r.a[m].base + BitVec.ofNat 32 t * c.r.a[m].stride)))))
    ∧ (∀ (s : State) (c : Ctx) (n : Fin 16) (a b : Operand), Issues s c →
    ∀ e ∈ ([(.add (.a n) a b, [a, b], isAffUni a && isAffUni b, c.r.aff a, c.r.aff b, fun x y => x + y, fun x y _ => x + y),
        (.sub (.a n) a b, [a, b], isAffUni a && isAffUni b, c.r.aff a, c.r.aff b, fun x y => x - y, fun x y _ => x - y),
        (.neg (.a n) a, [a], isAffUni a, c.r.aff a, ⟨0, 0, false⟩, fun x _ => -x, fun x _ _ => -x),
        (.mul (.a n) a b, [a, b], isAffUni a && isUni b, c.r.aff a, ⟨c.r.uni b, c.r.uni b, false⟩, fun x y => x * y,
          fun x _ _ => x * (c.r.uni b).toInt),
        (.mul (.a n) a b, [a, b], isUni a && isAffUni b, c.r.aff b, ⟨c.r.uni a, c.r.uni a, false⟩, fun x y => x * y,
          fun x _ _ => x * (c.r.uni a).toInt),
        (.mov (.a n) a, [a], isAffUni a, c.r.aff a, ⟨0, 0, false⟩, fun x _ => x, fun x _ _ => x),
        (.shl (.a n) a b, [a, b], isAffUni a && isUni b, c.r.aff a, ⟨0, 0, false⟩, fun x _ => x <<< (c.r.uni b).toNat,
          fun x _ _ => x * (2 ^ (c.r.uni b).toNat : Nat)),
        (.mkaff (.a n) a b, [a, b], isUni a && isUni b, ⟨c.r.uni a, 0, false⟩, ⟨0, c.r.uni b, false⟩, fun x y => x + y,
          fun x _ l => x + l * (c.r.uni b).toInt)] :
        List (Instr × List Operand × Bool × Aff × Aff × (Word → Word → Word) × (Int → Int → Nat → Int))),
      Ready c e.1 false (.a n) e.2.1 → e.2.2.1 = true →
      ∃ r : Aff, exec e.1 s = .next (c.put (if c.kOn then c.w.putA n.val r else c.w)) ∧
        r.base = e.2.2.2.2.2.1 e.2.2.2.1.base e.2.2.2.2.1.base ∧ r.stride = e.2.2.2.2.2.1 e.2.2.2.1.stride e.2.2.2.2.1.stride ∧
        (r.ov = true ↔ e.2.2.2.1.ov = true ∨ e.2.2.2.2.1.ov = true ∨
          ∃ l, l < 32 ∧ e.2.2.2.2.2.2 (e.2.2.2.1.lane l).toInt (e.2.2.2.2.1.lane l).toInt l ≠ (r.lane l).toInt))

/-- R274, R348, R354, R60: on predicates `mov`, `not`, `and`, `or` and `xor` act on one bit: a p destination in the active threads whose
guard is true, a k destination once, under the k guard.
R39, R60: p7 and k3 read as true in every state, and a write to them changes nothing.
R374: `setb` writes a b register with base high × 2^32 + low and the tag of the space, once, under the k guard. -/
def Obligations.PredicatesAndBases : Prop :=
  (∀ (s : State) (c : Ctx) (d a b : Operand), Issues s c →
    ∀ e ∈ ([(.and d a b, [a, b], fun x y => x && y), (.or d a b, [a, b], fun x y => x || y), (.xor d a b, [a, b], fun x y => x ^^ y),
        (.not d a, [a], fun x _ => !x), (.mov d a, [a], fun x _ => x)] : List (Instr × List Operand × (Bool → Bool → Bool))),
      Ready c e.1 true d e.2.1 →
      (∀ n, d = .p n → (∀ o ∈ e.2.1, isPred o = true) →
        ∃ m : Lanes, exec e.1 s = .next (c.put (c.w.putP n.val c.hit m)) ∧
          ∀ t, t < 32 → m.getLsbD t = e.2.2 (c.r.src a t != 0) (c.r.src b t != 0))
      ∧ (∀ n, d = .k n → (∀ o ∈ e.2.1, clsOf o = .upred) →
        exec e.1 s = .next (c.put (if c.kOn then c.w.putK n.val (e.2.2 (c.r.src a 0 != 0) (c.r.src b 0 != 0)) else c.w))))
    ∧ (∀ (r : Regs) (w : Wave) (m x : Lanes) (y : Bool),
    r.pred 7 = BitVec.allOnes 32 ∧ r.kpred 3 = true ∧ w.putP 7 m x = w ∧ w.putK 3 y = w)
    ∧ (∀ (s : State) (c : Ctx) (n sp : Fin 8) (lo hi : Operand), Issues s c → clsOf lo = .uni → clsOf hi = .uni →
    c.Allowed (.setb n sp lo hi) true [lo, hi] → guardReserved c.mx = false → guardIsP c.mx = false → c.act = c.live →
    (c.kOn = true → c.Full [lo, hi]) →
    ∃ x : BReg, exec (.setb n sp lo hi) s = .next (c.put (if c.kOn then c.w.putB n.val x else c.w)) ∧
      x.base.toNat = (c.r.uni hi).toNat * 2 ^ 32 + (c.r.uni lo).toNat ∧ x.tag.toNat = sp.val)

/-- R307: an integer compare writes the relation, taken over every element of the type, to the lower predicate of its pair and the
complement to the upper one; threads whose guard is false keep both.
R321 with R307: a floating-point compare writes its relation, taken over every element, to the lower predicate of its pair and the
complement to the upper one. The ordered relations are false when an operand is NaN. -/
def Obligations.Compares : Prop :=
  (∀ (s : State) (c : Ctx) (d a b : Operand) (n : Nat) (signed : Bool), Issues s c → IntType (modeT c.mx) n signed →
    ∀ e ∈ ([(.cmpEq d a b, fun x y => x = y), (.cmpNe d a b, fun x y => x ≠ y), (.cmpLt d a b, fun x y => x < y),
        (.cmpLe d a b, fun x y => x ≤ y), (.cmpGt d a b, fun x y => x > y), (.cmpGe d a b, fun x y => x ≥ y)] :
        List (Instr × (Int → Int → Prop))),
      Ready c e.1 true d [a, b] →
      (∀ p, d = .p p → (∀ o ∈ [a, b], clsOf o = .vary ∨ clsOf o = .uni) →
        ∃ m : Lanes, exec e.1 s = .next (c.put ((c.w.putP p.val c.hit m).putP (p.val + 1) c.hit (~~~m))) ∧
          ∀ t, t < 32 → (m.getLsbD t = true ↔ ∀ k, k < 32 / n → e.2 (elem n signed (c.r.src a t) k) (elem n signed (c.r.src b t) k)))
      ∧ (∀ p, d = .k p → (∀ o ∈ [a, b], clsOf o = .uni) →
        ∃ x : Bool, exec e.1 s = .next (c.put (if c.kOn then (c.w.putK p.val x).putK (p.val + 1) (!x) else c.w)) ∧
          (x = true ↔ ∀ k, k < 32 / n → e.2 (elem n signed (c.r.src a 0) k) (elem n signed (c.r.src b 0) k))))
    ∧ (∀ (s : State) (c : Ctx) (d a b : Operand) (f : Fmt) (n cnt : Nat), Issues s c → floatType (modeT c.mx) = some (f, n, cnt) →
    let el (o : Operand) (t k : Nat) : FpVal := f.val (code n (c.r.fsrc (modeT c.mx) o t) k)
    ∀ e ∈ ([(.fcmpEq d a b, fun x y => !x.isNan && !y.isNan && !x.lt y && !y.lt x), (.fcmpNe d a b, fun x y => x.isNan || y.isNan || x.lt y || y.lt x),
        (.fcmpLt d a b, fun x y => !x.isNan && !y.isNan && x.lt y), (.fcmpLe d a b, fun x y => !x.isNan && !y.isNan && !y.lt x),
        (.fcmpGt d a b, fun x y => !x.isNan && !y.isNan && y.lt x), (.fcmpGe d a b, fun x y => !x.isNan && !y.isNan && !x.lt y),
        (.fcmpUn d a b, fun x y => x.isNan || y.isNan)] : List (Instr × (FpVal → FpVal → Bool))),
      Ready c e.1 true d [a, b] →
      (∀ p, d = .p p → (∀ o ∈ [a, b], clsOf o = .vary ∨ clsOf o = .uni) →
        ∃ m : Lanes, exec e.1 s = .next (c.put ((c.w.putP p.val c.hit m).putP (p.val + 1) c.hit (~~~m))) ∧
          ∀ t, t < 32 → (m.getLsbD t = true ↔ ∀ k, k < cnt → e.2 (el a t k) (el b t k) = true))
      ∧ (∀ p, d = .k p → (∀ o ∈ [a, b], clsOf o = .uni) →
        ∃ x : Bool, exec e.1 s = .next (c.put (if c.kOn then (c.w.putK p.val x).putK (p.val + 1) (!x) else c.w)) ∧
          (x = true ↔ ∀ k, k < cnt → e.2 (el a 0 k) (el b 0 k) = true)))

/-- R271, R44, R51: what a varying or uniform result leaves alone. Of the machine only the wave changes, and of it only the destination,
the register undo log, and the place of the issuing gang's slices; the threads that are not active or whose guard is false keep the
destination, and a uniform destination under a false k guard is unchanged.
R30, R51, R339: an instruction that moves past itself changes no other wave and nothing of the machine; each slice of the issuing gang,
and no other, goes to PC + 4, or to the next operation of its macro. -/
def Obligations.ResultFrames : Prop :=
  (∀ (s : State) (c : Ctx) (d : Operand) (f : Nat → Word), Issues s c →
    ∃ w', (c.put (c.write d f)).wave? c.u = some w' ∧ OnlyWave s (c.put (c.write d f)) c.u ∧ OnlyRegs c.w w' ∧ Moved c w' ∧
      Kept c.r w'.st.regs [d] ∧ (∀ l, (c.put (c.write d f)).mem.read l = s.mem.read l) ∧
      (∀ n : Fin 64, d = .v n → ∀ t : Fin 32, w'.st.regs.v[n][t] = if c.hit.getLsbD t.val then f t.val else c.r.v[n][t]) ∧
      (∀ n : Fin 32, d = .s n → w'.st.regs.s[n] = if c.kOn then f 0 else c.r.s[n]))
    ∧ (∀ (s : State) (c : Ctx) (w : Wave), Issues s c → w.st.slices = c.w.st.slices → w.st.live = c.w.st.live →
    ∃ w', (c.put w).wave? c.u = some w' ∧ OnlyWave s (c.put w) c.u ∧ w' = { w with st := { w.st with slices := w'.st.slices } } ∧ Moved c w' ∧
      ∀ i, i < 8 → i ∈ c.w.st.gangOf c.sl → (c.w.st.slice i).mac = none →
        (w'.st.slice i).pc = (c.w.st.slice i).pc + 4 ∧ (w'.st.slice i).mask = (c.w.st.slice i).mask ∧ (w'.st.slice i).stack = (c.w.st.slice i).stack)

/-! ### Floating-point instructions -/

/-- R318, R319, R309, R84, R85: a floating-point instruction of two or three sources rounds the exact result once, element by element, by
MODE.RM; `fmin` and `fmax` are minimumNumber and maximumNumber and consult no RM.
R319, R320: `fabs` clears and `fneg` inverts the sign bit of every element that is a number, subnormals among them; every NaN becomes
the canonical one. -/
def Obligations.FloatInstructions : Prop :=
  (∀ (s : State) (c : Ctx) (d a b : Operand) (f : Fmt) (n cnt : Nat), Issues s c → floatType (modeT c.mx) = some (f, n, cnt) →
    ∀ e ∈ ([(.fadd d a b, [a, b], true, fun x y _ => x.add (modeRM c.mx) y), (.fsub d a b, [a, b], true, fun x y _ => x.add (modeRM c.mx) y.neg),
        (.fmul d a b, [a, b], true, fun x y _ => x.mul y), (.fma d a b, [a, b, d], true, fun x y z => (x.mul y).add (modeRM c.mx) z),
        (.fmin d a b, [a, b], false, fun x y _ => if x.isNan then y else if y.isNan then x else if y.below x then y else x),
        (.fmax d a b, [a, b], false, fun x y _ => if x.isNan then y else if y.isNan then x else if x.below y then y else x)] :
        List (Instr × List Operand × Bool × (FpVal → FpVal → FpVal → FpVal))),
      (e.2.2.1 = true → modeRM c.mx ≤ 5) → Ready c e.1 true d e.2.1 → VaryingOrUniform d e.2.1 →
      ∃ g : Nat → Word, exec e.1 s = .next (c.putDraw (c.write d g) (if e.2.2.1 then modeRM c.mx else 0)) ∧
        ∀ t, t < 32 → (g t).toNat < 2 ^ (n * cnt) ∧ ∀ k, k < cnt →
          code n (g t) k = f.round (if e.2.2.1 then modeRM c.mx else 0) (if e.2.2.1 then c.draw t k else 0)
            (e.2.2.2 (f.val (code n (c.r.fsrc (modeT c.mx) a t) k)) (f.val (code n (c.r.fsrc (modeT c.mx) b t) k))
              (f.val (code n (c.r.src d t) k))))
    ∧ (∀ (s : State) (c : Ctx) (d a : Operand) (f : Fmt) (n cnt : Nat), Issues s c → floatType (modeT c.mx) = some (f, n, cnt) →
    ∀ e ∈ ([(.fabs d a, fun x => x % 2 ^ (n - 1)), (.fneg d a, fun x => (x + 2 ^ (n - 1)) % 2 ^ n)] : List (Instr × (Nat → Nat))),
      Ready c e.1 true d [a] → VaryingOrUniform d [a] →
      ∃ g : Nat → Word, exec e.1 s = .next (c.putDraw (c.write d g) 0) ∧
        ∀ t k, t < 32 → k < cnt →
          code n (g t) k = if (f.val (code n (c.r.fsrc (modeT c.mx) a t) k)).isNan then f.canon else e.2 (code n (c.r.fsrc (modeT c.mx) a t) k))

/-- R92, R93, R95, R96, R313, R314, R299: `cvt` converts each element from the type that B names to MODE.T. Between two floating types the value
is rounded, a copy within one type keeps its code, and NaN becomes the canonical one; an integer goes exactly and is rounded, or wrapped or
clamped; a float goes to an integer rounded by RM, then reduced modulo 2^n or clamped, with NaN 0 and the infinities at the ends. `cvt8` and
`bsq` convert each thread's F32 value divided by 2^(e − 127), for the scale e in the low byte of B; `bsq` rounds it times 64 or 4 to an integer
and clamps it. Bits above a result are clear.
R94, R298: `bsc` with full live membership and all 32 threads live writes the E8M0 scale of the contributing threads: 127 when none
contributes or all are zero, 255 when one is NaN or infinite, else the floor of log2 of the largest magnitude, less emax, plus 127, clamped to
0–254. A false k guard leaves sD; without that membership it raises MBF. -/
def Obligations.ConversionsAndScales : Prop :=
  (∀ (s : State) (c : Ctx) (d a b : Operand), Issues s c → modeRM c.mx ≤ 5 →
    let rm := modeRM c.mx
    let ty := modeT c.mx
    let sat := modeSAT c.mx
    let e := (c.r.uni b).toNat % 256
    let lo (n : Nat) (signed : Bool) : Int := if signed then -(2 ^ (n - 1) : Nat) else 0
    let hi (n : Nat) (signed : Bool) : Int := if signed then (2 ^ (n - 1) : Nat) - 1 else (2 ^ n : Nat) - 1
    (∀ (x : BitVec 7) (n m cnt : Nat), typeShape x.toNat = some (n, cnt) → typeShape ty = some (m, cnt) →
      Ready c (.cvt d a (.imm x)) true d [a] → VaryingOrUniform d [a] →
      ∃ g : Nat → Word, exec (.cvt d a (.imm x)) s = .next (c.putDraw (c.write d g) rm) ∧
        ∀ t, t < 32 → (g t).toNat < 2 ^ (m * cnt) ∧ ∀ k, k < cnt →
          let y := code n (c.r.src a t) k
          let z := code m (g t) k
          let int (q : Nat) : Prop := ∃ w sg, IntType q w sg
          (¬int x.toNat → ¬int ty → x.toNat ≠ ty → z = floatCode ty rm sat (c.draw t k) (floatVal x.toNat y)) ∧
          (¬int ty → x.toNat = ty → z = if (floatVal ty y).isNan then floatCode ty rm sat 0 .nan else y) ∧
          (∀ sg, IntType x.toNat n sg → ¬int ty → z = floatCode ty rm sat (c.draw t k)
            (.fin (decide (elem n sg (c.r.src a t) k < 0)) (elem n sg (c.r.src a t) k).natAbs 0)) ∧
          (∀ sg sg', IntType x.toNat n sg → IntType ty m sg' → Narrowed m sg' sat (elem n sg (c.r.src a t) k) (elem m sg' (g t) k)) ∧
          (∀ sg, ¬int x.toNat → IntType ty m sg →
            (floatVal x.toNat y = .nan → z = 0) ∧
            (∀ neg, floatVal x.toNat y = .inf neg → elem m sg (g t) k = if sat then (if neg then lo m sg else hi m sg) else 0) ∧
            (∀ neg p q, floatVal x.toNat y = .fin neg p q → ∃ r, RoundedInt rm (c.draw t k) neg (p * 2 ^ q.toNat) (2 ^ (-q).toNat) r ∧
              Narrowed m sg sat r (elem m sg (g t) k))))
    ∧ (clsOf d = .vary → clsOf a = .vary → clsOf b = .uni →
      (ty = 11 ∨ ty = 12 → Ready c (.cvt8 d a b) false d [a, b] →
        ∃ g : Nat → Word, exec (.cvt8 d a b) s = .next (c.putDraw (c.write d g) rm) ∧
          ∀ t, t < 32 → (g t).toNat < 256 ∧
            (g t).toNat = floatCode ty rm sat (c.draw t 0) (if e = 255 then .nan else (f32.val (c.r.src a t).toNat).over e 0))
      ∧ (ty = 9 ∨ ty = 10 → Ready c (.bsq d a b) false d [a, b] → let n := if ty = 9 then 8 else 4
        ∃ g : Nat → Word, exec (.bsq d a b) s = .next (c.putDraw (c.write d g) rm) ∧
          ∀ t, t < 32 → (g t).toNat < 2 ^ n ∧ let v := (f32.val (c.r.src a t).toNat).over e (if ty = 9 then 6 else 2)
            ((e = 255 ∨ v = .nan) → (g t).toNat = 0) ∧
            (∀ neg, e ≠ 255 → v = .inf neg → (g t).toNat = if neg then 2 ^ (n - 1) else 2 ^ (n - 1) - 1) ∧
            (∀ neg p q, e ≠ 255 → v = .fin neg p q → ∃ r y, RoundedInt rm (c.draw t 0) neg (p * 2 ^ q.toNat) (2 ^ (-q).toNat) r ∧
              Narrowed n true true r y ∧ (g t).toNat = (y % (2 ^ n : Nat)).toNat))))
    ∧ (∀ (s : State) (c : Ctx) (m : Fin 32) (n : Fin 64), Issues s c → modeT c.mx ∈ [9, 10, 11, 12] →
    c.Allowed (.bsc (.s m) (.v n)) false [.s m, .v n] → guardReserved c.mx = false → n.val < c.w.valloc →
    let v (t : Nat) : FpVal := f32.val (c.r.src (.v n) t).toNat
    let takes (t : Nat) : Prop := t < 32 ∧ c.hit.getLsbD t = true
    let emax : Int := if modeT c.mx = 11 then 8 else if modeT c.mx = 12 then 15 else 0
    (c.w.st.fullMember c.sl = true → c.w.st.live = BitVec.allOnes 32 → guardIsK c.mx = true → c.kOn = false →
      exec (.bsc (.s m) (.v n)) s = .next (c.put c.w))
    ∧ (c.w.st.fullMember c.sl = true → c.w.st.live = BitVec.allOnes 32 → (guardIsK c.mx = true → c.kOn = true) → c.Full [.s m, .v n] →
      ∃ x : Nat, exec (.bsc (.s m) (.v n)) s = .next (c.put (c.w.putS m.val (BitVec.ofNat 32 x))) ∧ x < 256 ∧
        ((∃ t, takes t ∧ ∀ g q e, v t ≠ .fin g q e) → x = 255) ∧
        ((∀ t, takes t → ∃ g e, v t = .fin g 0 e) → x = 127) ∧
        ((∀ t, takes t → ∃ g q e, v t = .fin g q e) → ∀ t g q e, takes t → v t = .fin g q e → q ≠ 0 →
          (∀ u g' q' e', takes u → v u = .fin g' q' e' → q' * 2 ^ (e' + 1000).toNat ≤ q * 2 ^ (e + 1000).toNat) →
          (x : Int) = max 0 (min 254 (e + q.log2 - emax + 127))))
    ∧ (c.w.st.fullMember c.sl = false ∨ c.w.st.live ≠ BitVec.allOnes 32 →
      exec (.bsc (.s m) (.v n)) s = .next (c.trapped .mbf 0)))

/-- R310, R317, R103, R104: a special function answers exactly what the table of R104 gives for a NaN, an infinity and a zero, and for a finite
operand below 0 where the table gives NaN; `log2` of 1 is +0, `log2` of a power of two its exponent exactly, and `exp2` of an integer exact where it
is representable. For every other operand
the model leaves the result free within the error of R103: 1 or 2 ulp of the function's value, or 2^-21 for `sin` and `cos` of an F32 operand
beyond 65,536 (log entry 7, DESIGN CHOICE). `sqrt` alone consults RM: it rounds the exact root, given here by its square to 512 bits below the
point and a bit that says whether more follows. -/
def Obligations.SpecialFunctions : Prop :=
  ∀ (s : State) (c : Ctx) (d a : Operand) (f : Fmt) (n cnt : Nat), Issues s c → floatType (modeT c.mx) = some (f, n, cnt) →
    VaryingOrUniform d [a] →
    let one : FpVal := .fin false 1 0
    let x (t k : Nat) : FpVal := f.val (code n (c.r.fsrc (modeT c.mx) a t) k)
    let gives (g : Nat → Word) (t k : Nat) (v : FpVal) : Prop := code n (g t) k = f.round 0 0 v
    let row (g : Nat → Word) (t k : Nat) (ninf : FpVal) (below : Bool) (nzero pzero pinf : FpVal) : Prop :=
      (x t k = .nan → code n (g t) k = f.canon) ∧ (x t k = .inf true → gives g t k ninf) ∧ (x t k = .inf false → gives g t k pinf) ∧
      (∀ q, x t k = .fin true 0 q → gives g t k nzero) ∧ (∀ q, x t k = .fin false 0 q → gives g t k pzero) ∧
      (∀ m q, below = true → x t k = .fin true m q → m ≠ 0 → code n (g t) k = f.canon)
    (∀ e ∈ ([(.exp2 d a, .exp2, .fin false 0 0, false, one, one, .inf false), (.log2 d a, .log2, .nan, true, .inf true, .inf true, .inf false),
        (.rcp d a, .rcp, .fin true 0 0, false, .inf true, .inf false, .fin false 0 0), (.rsq d a, .rsq, .nan, true, .inf true, .inf false, .fin false 0 0),
        (.sin d a, .sin, .nan, false, .fin true 0 0, .fin false 0 0, .nan), (.cos d a, .cos, .nan, false, one, one, .nan),
        (.tanh d a, .tanh, .fin true 1 0, false, .fin true 0 0, .fin false 0 0, one),
        (.sigm d a, .sigm, .fin false 0 0, false, .fin false 1 (-1), .fin false 1 (-1), one)] :
        List (Instr × SFn × FpVal × Bool × FpVal × FpVal × FpVal)),
      Ready c e.1 true d [a] →
      ∃ g : Nat → Word, exec e.1 s = .next (c.putDraw (c.write d g) 5) ∧
        ∀ t k, t < 32 → k < cnt →
          row g t k e.2.2.1 e.2.2.2.1 e.2.2.2.2.1 e.2.2.2.2.2.1 e.2.2.2.2.2.2 ∧
          (∀ (j : Nat) (q : Int), e.2.1 = .log2 → x t k = .fin false (2 ^ j) q → gives g t k (.fin (decide (q + (j : Int) < 0)) (q + (j : Int)).natAbs 0)) ∧
          (∀ m q, e.2.1 = .log2 → x t k = .fin false m q → m * 2 ^ (q + 1000).toNat = 2 ^ 1000 → code n (g t) k = 0) ∧
          (∀ neg m q, ∀ j : Int, e.2.1 = .exp2 → x t k = .fin neg m q → f.emin ≤ j → j < f.emin + f.infBits / 2 ^ f.fb + f.fb - 1 →
            (if neg then -1 else 1) * ((m * 2 ^ (q + 1000).toNat : Nat) : Int) = j * (2 ^ 1000 : Nat) → gives g t k (.fin false 1 j)) ∧
          (∀ neg m q, x t k = .fin neg m q → m ≠ 0 → ¬(neg = true ∧ e.2.2.2.1 = true) →
            let y := sfuValue e.2.1 neg m q
            let ulp : Int := fxShift fxOne (max f.emin (floorLog2 y.natAbs (-(fxP : Int)) - f.fb))
            let err : Int := if (e.2.1 = .sin ∨ e.2.1 = .cos) ∧ f = f32 ∧ fxOf false m q > 65536 * fxOne then fxShift fxOne (-21)
              else if f = f32 ∧ e.2.1 ≠ .rcp then 2 * ulp else ulp
            gives g t k (.fin (decide (y < 0)) y.natAbs (-(fxP : Int)))
            ∨ (∃ j : Nat, e.2.1 = .log2 ∧ m = 2 ^ j ∧ gives g t k (.fin (decide (q + j < 0)) (q + j).natAbs 0))
            ∨ (∃ j : Int, e.2.1 = .exp2 ∧ (if neg then -1 else 1) * ((m * 2 ^ (q + 1000).toNat : Nat) : Int) = j * (2 ^ 1000 : Nat) ∧
              gives g t k (.fin false 1 j))
            ∨ sfuOk f y err (code n (g t) k) = true
            ∨ e.2.1 = .exp2 ∧ y < fxShift fxOne f.emin ∧ code n (g t) k ≤ 1))
    ∧ (modeRM c.mx ≤ 5 → Ready c (.sqrt d a) true d [a] →
      ∃ g : Nat → Word, exec (.sqrt d a) s = .next (c.putDraw (c.write d g) (modeRM c.mx)) ∧
        ∀ t k, t < 32 → k < cnt →
          row g t k .nan true (.fin true 0 0) (.fin false 0 0) (.inf false) ∧
          ∀ m q, x t k = .fin false m q → m ≠ 0 → ∃ r : Nat, let sq := m * 2 ^ (1024 + q).toNat
            r * r ≤ sq ∧ sq < (r + 1) * (r + 1) ∧
            code n (g t) k = f.round (modeRM c.mx) (c.draw t k) (.fin false (2 * r + if r * r = sq then 0 else 1) (-513)))

/-! ### Cross-lane instructions -/

/-- R375: a shuffle gives each thread the A of its source thread, and its own A where the source does not exist or is not active; a source
supplies its value whatever its guard. -/
def Obligations.Shuffles : Prop :=
  ∀ (s : State) (c : Ctx) (d a b : Operand), Issues s c → clsOf d = .vary → clsOf a = .vary →
    ∀ e ∈ ([(.shflIdx d a b, true, fun n _ => some (n % 32)), (.shflUp d a b, false, fun n t => if n ≤ t then some (t - n) else none),
        (.shflDn d a b, false, fun n t => if t + n ≤ 31 then some (t + n) else none), (.shflXor d a b, false, fun n t => some (t ^^^ (n % 32)))] :
        List (Instr × Bool × (Nat → Nat → Option Nat))),
      (clsOf b = .uni ∨ e.2.1 = true ∧ clsOf b = .vary) → Ready c e.1 false d [a, b] →
      ∃ f : Nat → Word, exec e.1 s = .next (c.put (c.write d f)) ∧
        ∀ t, t < 32 →
          (∀ u, e.2.2 (c.r.src b t).toNat t = some u → c.act.getLsbD u = true → f t = c.r.src a u) ∧
          ((∀ u, e.2.2 (c.r.src b t).toNat t = some u → c.act.getLsbD u = false) → f t = c.r.src a t)

/-- R384: with full live membership a vote gathers pA over the active threads whose guard is true; a false k guard leaves D, and without
that membership a vote raises MBF. -/
def Obligations.Votes : Prop :=
  ∀ (s : State) (c : Ctx) (k : Fin 4) (m : Fin 32) (p : Fin 8), Issues s c → c.w.tp = none → guardReserved c.mx = false →
    let any : Bool := (List.range 32).any (fun t => c.hit.getLsbD t && (c.r.pred p.val).getLsbD t)
    let all : Bool := (List.range 32).all (fun t => !c.hit.getLsbD t || (c.r.pred p.val).getLsbD t)
    (c.w.st.fullMember c.sl = true →
      (guardIsK c.mx = true ∧ c.kOn = false →
        ∀ i ∈ [Instr.voteAny (.k k) (.p p), Instr.voteAll (.k k) (.p p), Instr.voteBal (.s m) (.p p)], exec i s = .next (c.put c.w)) ∧
      (¬(guardIsK c.mx = true ∧ c.kOn = false) →
        exec (.voteAny (.k k) (.p p)) s = .next (c.put (c.w.putK k.val any)) ∧
        exec (.voteAll (.k k) (.p p)) s = .next (c.put (c.w.putK k.val all)) ∧
        (c.Full [.s m] → ∃ x : Word, exec (.voteBal (.s m) (.p p)) s = .next (c.put (c.w.putS m.val x)) ∧
          ∀ t, t < 32 → x.getLsbD t = (c.hit.getLsbD t && (c.r.pred p.val).getLsbD t))))
    ∧ (c.w.st.fullMember c.sl = false →
      ∀ i ∈ [Instr.voteAny (.k k) (.p p), Instr.voteAll (.k k) (.p p), Instr.voteBal (.s m) (.p p)],
        exec i s = .next (c.trapped .mbf 0))

/-- R364, R101, R81: an integer reduction. Without saturation `red.add` is the sum of the contributing elements modulo 2^n; `red.min` and
`red.max` are their smallest and largest, signed or unsigned by the type; with no contributor the result is 0.
R371, R372, R102: without saturation an integer `scan` by `add` gives each contributing thread the sum of the contributing elements up
to and with its own, modulo 2^n, and `scanx` the sum of those before it; the other threads keep D.
R364, R371, R372, R101, R102, R81, R85: every reduction and scan, by `add`, `min` and `max`, saturating or not, of integers and of
floating-point numbers: `red.op` gives the root of the tree of R101 over the contributing threads' elements, 0 when there is none, `scan` what
the five steps of R102 give a thread's own lane, and `scanx` what they give the lane before it, 0 in lane 0. A floating-point sum is rounded by
MODE.RM at every node, with a draw of its own under stochastic rounding. A false k guard changes nothing, a scan without a contributing thread
neither, and without full live membership each raises MBF. -/
def Obligations.ReductionsAndScans : Prop :=
  (∀ (s : State) (c : Ctx) (m : Fin 32) (v : Fin 64) (n : Nat) (signed : Bool), Issues s c → IntType (modeT c.mx) n signed →
    let cs := threadsOf c.hit
    let el (t k : Nat) : Int := elem n signed (c.r.src (.v v) t) k
    (Gathers c (.redAdd (.s m) (.v v)) [.s m, .v v] → modeSAT c.mx = false →
      ∃ x : Word, exec (.redAdd (.s m) (.v v)) s = .next (c.put (c.w.putS m.val x)) ∧
        ∀ k, k < 32 / n → (elem n signed x k - (cs.map (fun t => el t k)).sum) % (2 ^ n : Nat) = 0)
    ∧ (Gathers c (.redMin (.s m) (.v v)) [.s m, .v v] →
      ∃ x : Word, exec (.redMin (.s m) (.v v)) s = .next (c.put (c.w.putS m.val x)) ∧
        ∀ k, k < 32 / n → (cs = [] → elem n signed x k = 0) ∧
          (cs ≠ [] → (∃ t ∈ cs, elem n signed x k = el t k) ∧ ∀ t ∈ cs, elem n signed x k ≤ el t k))
    ∧ (Gathers c (.redMax (.s m) (.v v)) [.s m, .v v] →
      ∃ x : Word, exec (.redMax (.s m) (.v v)) s = .next (c.put (c.w.putS m.val x)) ∧
        ∀ k, k < 32 / n → (cs = [] → elem n signed x k = 0) ∧
          (cs ≠ [] → (∃ t ∈ cs, elem n signed x k = el t k) ∧ ∀ t ∈ cs, el t k ≤ elem n signed x k)))
    ∧ (∀ (s : State) (c : Ctx) (d v : Fin 64) (n : Nat) (signed : Bool), Issues s c → IntType (modeT c.mx) n signed → modeSAT c.mx = false →
    let sum (t k : Nat) : Int := (((threadsOf c.hit).filter (fun u => decide (u < t))).map (fun u => elem n signed (c.r.src (.v v) u) k)).sum
    (Gathers c (.scan (.v d) (.v v) (.imm 0)) [.v d, .v v, .imm 0] → c.hit ≠ 0 →
      ∃ f : Nat → Word, exec (.scan (.v d) (.v v) (.imm 0)) s = .next (c.put (c.write (.v d) f)) ∧
        ∀ t k, t < 32 → c.hit.getLsbD t = true → k < 32 / n → (elem n signed (f t) k - sum (t + 1) k) % (2 ^ n : Nat) = 0)
    ∧ (Gathers c (.scanx (.v d) (.v v) (.imm 0)) [.v d, .v v, .imm 0] → c.hit ≠ 0 →
      ∃ f : Nat → Word, exec (.scanx (.v d) (.v v) (.imm 0)) s = .next (c.put (c.write (.v d) f)) ∧
        ∀ t k, t < 32 → c.hit.getLsbD t = true → k < 32 / n → (elem n signed (f t) k - sum t k) % (2 ^ n : Nat) = 0))
    ∧ (∀ (s : State) (c : Ctx) (m : Fin 32) (d v : Fin 64) (op : Nat), Issues s c → op < 3 →
    let imm : Operand := .imm (BitVec.ofNat 7 op)
    let red : Instr := if op = 0 then .redAdd (.s m) (.v v) else if op = 1 then .redMin (.s m) (.v v) else .redMax (.s m) (.v v)
    let scans (excl : Bool) : Instr := if excl then .scanx (.v d) (.v v) imm else .scan (.v d) (.v v) imm
    let may (i : Instr) (ops : List Operand) : Prop := c.Allowed i false ops ∧ guardReserved c.mx = false ∧ c.Allocated ops
    let lane (n k t : Nat) : Option Nat := if c.hit.getLsbD t then some (code n (c.r.src (.v v) t) k) else none
    let rm := modeRM c.mx
    let typed : Prop := (∃ n signed, IntType (modeT c.mx) n signed) ∨ (∃ y, floatType (modeT c.mx) = some y) ∧ (op = 0 → rm ≤ 5)
    let redIs (n cnt mode : Nat) (f : Nat → Nat → Nat → Nat → Nat → Nat) : Prop := Gathers c red [.s m, .v v] →
      ∃ x : Word, exec red s = .next (c.putDraw (c.w.putS m.val x) mode) ∧ ∀ k, k < cnt → code n x k = (treeNode (f k) (lane n k) 5 0).getD 0
    let scanIs (excl : Bool) (n cnt mode : Nat) (f : Nat → Nat → Nat → Nat → Nat → Nat) : Prop :=
      Gathers c (scans excl) [.v d, .v v, imm] → c.hit ≠ 0 →
        ∃ g : Nat → Word, exec (scans excl) s = .next (c.putDraw (c.write (.v d) g) mode) ∧
          ∀ t k, t < 32 → c.hit.getLsbD t = true → k < cnt → code n (g t) k =
            if excl then (if t = 0 then 0 else (scanLane (f k) (lane n k) 5 (t - 1)).getD 0) else (scanLane (f k) (lane n k) 5 t).getD 0
    (∀ n signed, IntType (modeT c.mx) n signed → ∃ f : Nat → Nat → Nat,
      (∀ x y, x < 2 ^ n → y < 2 ^ n → Combines op n signed (modeSAT c.mx) x y (f x y)) ∧ redIs n (32 / n) 0 (fun _ _ _ => f) ∧
      ∀ excl, scanIs excl n (32 / n) 0 (fun _ _ _ => f))
    ∧ (∀ (fm : Fmt) n cnt, floatType (modeT c.mx) = some (fm, n, cnt) → (op = 0 → rm ≤ 5) →
      let mode := if op = 0 then rm else 0
      let comb (g : BitVec 16) (a b : Nat) : Nat :=
        let x := fm.val a
        let y := fm.val b
        if op = 0 then fm.round rm g (x.add rm y)
        else fm.round 0 0 (if x.isNan then y else if y.isNan then x else if op = 1 then (if y.below x then y else x) else if x.below y then y else x)
      (∃ g : Nat → Nat → Nat → BitVec 16, redIs n cnt mode (fun k lv i => comb (g k lv i))) ∧
      ∀ excl, ∃ g : Nat → Nat → Nat → BitVec 16, scanIs excl n cnt mode (fun k lv i => comb (g k lv i)))
    ∧ (typed → may red [.s m, .v v] → c.w.st.fullMember c.sl = true → guardIsK c.mx = true → c.kOn = false → exec red s = .next (c.put c.w))
    ∧ (typed → ∀ excl, may (scans excl) [.v d, .v v, imm] → c.w.st.fullMember c.sl = true → c.hit = 0 → exec (scans excl) s = .next (c.put c.w))
    ∧ (typed → c.w.st.fullMember c.sl = false →
      (may red [.s m, .v v] → exec red s = .next (c.trapped .mbf 0)) ∧
      (∀ excl, may (scans excl) [.v d, .v v, imm] → exec (scans excl) s = .next (c.trapped .mbf 0))))

/-- R337, R338: `match` gives each contributing thread the set of the contributing threads that hold its key, and every other active thread 0. Keys
are the same where they have the same bits under an integer type; under a floating-point type where, element by element, they have the same bits,
are both zeros of either sign, or are both NaN.
R359, R386: `rdlane` copies the A of thread B mod 32, live or not, into sD; `wrlane` writes A into that thread's vD when it is live and
its guard is true, and raises MBF when it is in no slice of the issuing gang. -/
def Obligations.MatchAndOneLane : Prop :=
  (∀ (s : State) (c : Ctx) (d v : Fin 64), Issues s c → modeT c.mx ≤ 12 →
    let alike (val : Nat → FpVal) (a b : Nat) : Prop :=
      a = b ∨ (∃ g h q r, val a = .fin g 0 q ∧ val b = .fin h 0 r) ∨ (val a = .nan ∧ val b = .nan)
    let same (x y : Word) : Prop :=
      ((∃ n sg, IntType (modeT c.mx) n sg) → x = y) ∧
      (∀ f n cnt, floatType (modeT c.mx) = some (f, n, cnt) → ∀ k, k < cnt → alike f.val (code n x k) (code n y k)) ∧
      (modeT c.mx = 11 → alike valE4m3 (code 8 x 0) (code 8 y 0)) ∧ (modeT c.mx = 12 → alike e5m2.val (code 8 x 0) (code 8 y 0))
    c.Allowed (.matchKey (.v d) (.v v)) false [.v d, .v v] → guardReserved c.mx = false → c.Allocated [.v d, .v v] → c.Full [.v d, .v v] →
    c.act ≠ 0 →
    ∃ f : Nat → Word, exec (.matchKey (.v d) (.v v)) s = .next (c.put (c.w.putV d.val c.act f)) ∧
      ∀ t, t < 32 → c.act.getLsbD t = true →
        (c.hit.getLsbD t = false → f t = 0) ∧
        (c.hit.getLsbD t = true → ∀ u, u < 32 →
          ((f t).getLsbD u = true ↔ c.hit.getLsbD u = true ∧ same (c.r.src (.v v) u) (c.r.src (.v v) t))))
    ∧ (∀ (s : State) (c : Ctx) (v : Fin 64) (m : Fin 32) (a b : Operand), Issues s c → clsOf b = .uni →
    (Ready c (.rdlane (.s m) (.v v) b) false (.s m) [.v v, b] →
      exec (.rdlane (.s m) (.v v) b) s = .next (c.put (if c.kOn then c.w.putS m.val (c.r.src (.v v) ((c.r.uni b).toNat % 32)) else c.w)))
    ∧ (clsOf a = .uni → c.Allowed (.wrlane (.v v) a b) false [.v v, a, b] → guardReserved c.mx = false → v.val < c.w.valloc →
      c.Full [.v v, a, b] → let l := (c.r.uni b).toNat % 32
      (l / 4 ∈ c.w.st.gangOf c.sl →
        exec (.wrlane (.v v) a b) s = .next (c.put (if c.w.st.live.getLsbD l && (guardMask c.r c.mx).getLsbD l then
          c.w.putV v.val (1#32 <<< l) (fun _ => c.r.uni a) else c.w)))
      ∧ (l / 4 ∉ c.w.st.gangOf c.sl →
        exec (.wrlane (.v v) a b) s = .next (c.trapped .mbf 0))))

/-! ### Control flow -/

/-- R294, R296, R302, R303, R353, R51, R54: `nop` moves on; `br`, `bru`, `call` and `callr` move every slice of the issuing gang, at
whatever mask; `call` and `callr` push a join entry; a `callr` whose offset is not a multiple of 4 raises ALF, and a stack of eight entries
SOV. -/
def Obligations.Jumps : Prop :=
  ∀ (s : State) (c : Ctx) (off : BitVec 19) (n : Fin 8) (neg : Bool) (a : Operand), Issues s c →
    let pc := (c.w.st.slice c.sl).pc
    let tgt : DWord := pc + 4 * off.signExtend 64
    let at_ : DWord := c.w.st.tx + (c.r.uni a).zeroExtend 64
    let room : Prop := ∀ i ∈ c.w.st.gangOf c.sl, (c.w.st.slice i).stack.length < 8
    exec .nop s = .next (c.put c.w)
    ∧ (∃ w', exec (.br off) s = .next (s.setWave c.u w') ∧ Redirected c w' (fun x => { x with pc := tgt, wait := none }))
    ∧ (n.val < 4 → ∃ w', exec (.bru n neg off) s = .next (s.setWave c.u w') ∧
        Redirected c w' (fun x => { x with pc := if c.r.kpred n.val != neg then tgt else pc + 4, wait := none }))
    ∧ (room → ∃ w', exec (.call off) s = .next (s.setWave c.u w') ∧
        Redirected c w' (fun x => { x with stack := ⟨x.pc + 4, x.mask, true⟩ :: x.stack, pc := tgt, wait := none }))
    ∧ (¬ room → exec (.call off) s = .next (c.trapped .sov 0))
    ∧ (clsOf a = .uni → c.Allowed (.callr a) true [a] → c.Full [a] →
        ((c.r.uni a).toNat % 4 ≠ 0 → exec (.callr a) s = .next (c.trapped .alf at_)) ∧
        ((c.r.uni a).toNat % 4 = 0 → room → ∃ w', exec (.callr a) s = .next (s.setWave c.u w') ∧
          Redirected c w' (fun x => { x with stack := ⟨x.pc + 4, x.mask, true⟩ :: x.stack, pc := at_, wait := none })) ∧
        ((c.r.uni a).toNat % 4 = 0 → ¬ room → exec (.callr a) s = .next (c.trapped .sov 0)))

/-- R34, R36, R297: `brv` pushes one path entry in every member. A member with threads takes the branch when one of its active threads
finds the condition true, keeps those and leaves the others in its entry; else it goes to PC + 4 with an empty entry. A member without threads
pushes an empty entry and takes the branch. Members with threads that take different directions part the gang; otherwise it stays whole, and
when all of them go to PC + 4, a member without threads goes there with them, which is the model's choice: log entry 14 (DEDUCED). -/
def Obligations.DivergentBranch : Prop :=
  ∀ (s : State) (c : Ctx) (cd : Cond) (off : BitVec 19), Issues s c → c.Allowed (.brv cd off) false [] →
    let g := c.w.st.gangOf c.sl
    let cond := condOf cd c.r
    let tk (i : Nat) : BitVec 4 := (c.w.st.slice i).mask &&& c.w.st.liveBits i &&& sliceBits cond i
    ((∃ i ∈ g, (c.w.st.slice i).stack.length ≥ 8) → exec (.brv cd off) s = .next (c.trapped .sov 0))
    ∧ ((∀ i ∈ g, (c.w.st.slice i).stack.length < 8) →
      ∃ w', exec (.brv cd off) s = .next (s.setWave c.u w') ∧ w' = { c.w with st := { c.w.st with slices := w'.st.slices } } ∧
        (∀ i, i < 8 → i ∉ g → w'.st.slice i = c.w.st.slice i) ∧
        (∀ i ∈ g, (c.w.st.slice i).mask ≠ 0 → tk i ≠ 0 →
          (w'.st.slice i).mask = tk i ∧ (w'.st.slice i).pc = branchTarget (c.w.st.slice i).pc off ∧
          (w'.st.slice i).stack = ⟨(c.w.st.slice i).pc + 4, (c.w.st.slice i).mask &&& c.w.st.liveBits i &&& ~~~(tk i), false⟩ :: (c.w.st.slice i).stack) ∧
        (∀ i ∈ g, (c.w.st.slice i).mask ≠ 0 → tk i = 0 →
          (w'.st.slice i).mask = (c.w.st.slice i).mask ∧ (w'.st.slice i).pc = (c.w.st.slice i).pc + 4 ∧
          (w'.st.slice i).stack = ⟨(c.w.st.slice i).pc + 4, 0, false⟩ :: (c.w.st.slice i).stack) ∧
        (∀ i ∈ g, (c.w.st.slice i).mask = 0 →
          let allNot : Prop := (∃ j ∈ g, (c.w.st.slice j).mask ≠ 0) ∧ ∀ j ∈ g, (c.w.st.slice j).mask ≠ 0 → tk j = 0
          (w'.st.slice i).mask = 0 ∧ (w'.st.slice i).stack = ⟨(c.w.st.slice i).pc + 4, 0, false⟩ :: (c.w.st.slice i).stack ∧
          (allNot → (w'.st.slice i).pc = (c.w.st.slice i).pc + 4) ∧ (¬ allNot → (w'.st.slice i).pc = branchTarget (c.w.st.slice i).pc off)) ∧
        ((∃ i ∈ g, (c.w.st.slice i).mask ≠ 0 ∧ tk i ≠ 0) → (∃ i ∈ g, (c.w.st.slice i).mask ≠ 0 ∧ tk i = 0) →
          ∀ i ∈ g, (w'.st.slice i).gang = i) ∧
        ((∀ i ∈ g, (c.w.st.slice i).mask ≠ 0 → tk i ≠ 0) ∨ (∀ i ∈ g, (c.w.st.slice i).mask ≠ 0 → tk i = 0) →
          ∀ i ∈ g, (w'.st.slice i).gang = (c.w.st.slice i).gang))

/-- R36, R308: `cnv`. When some member's top is a path entry with threads, every member turns its top into a join entry of the joined mask
and runs the entry's threads; else every member pops, a join entry restoring its mask and PC and a path entry going to PC + 4; with every
stack empty the gang goes to PC + 4. Each member converts or pops its own top entry: where the tops of a gang differ in kind, which R35 lets a
`regang` bring about and the manual leaves open, this is the model's choice: log entry 17 (DESIGN CHOICE). -/
def Obligations.Convergence : Prop :=
  ∀ (s : State) (c : Ctx), Issues s c → c.Allowed .cnv false [] →
    let g := c.w.st.gangOf c.sl
    ((∀ i ∈ g, (c.w.st.slice i).stack = []) → ∃ w', exec .cnv s = .next (s.setWave c.u w') ∧
      Redirected c w' (fun x => { x with pc := x.pc + 4, wait := none }))
    ∧ ((∀ i ∈ g, (c.w.st.slice i).stack ≠ []) → (∃ i ∈ g, ∃ pc m r, (c.w.st.slice i).stack = ⟨pc, m, false⟩ :: r ∧ m ≠ 0) →
      ∃ w', exec .cnv s = .next (s.setWave c.u w') ∧ Redirected c w' (fun x =>
        { x with stack := ⟨x.pc + 4, x.mask ||| (x.stack.headD ⟨0, 0, false⟩).mask, true⟩ :: x.stack.tail,
                 mask := (x.stack.headD ⟨0, 0, false⟩).mask, pc := (x.stack.headD ⟨0, 0, false⟩).pc, wait := none }))
    ∧ ((∀ i ∈ g, (c.w.st.slice i).stack ≠ []) → (∀ i ∈ g, ∀ pc m r, (c.w.st.slice i).stack = ⟨pc, m, false⟩ :: r → m = 0) →
      ∃ w', exec .cnv s = .next (s.setWave c.u w') ∧ Redirected c w' (fun x =>
        if (x.stack.headD ⟨0, 0, false⟩).join then
          { x with stack := x.stack.tail, mask := (x.stack.headD ⟨0, 0, false⟩).mask, pc := (x.stack.headD ⟨0, 0, false⟩).pc, wait := none }
        else { x with stack := x.stack.tail, pc := x.pc + 4, wait := none }))

/-- R367, R37: `ret` pops a join entry in every member, and raises SOV, with no effect, when some member has none on top; when every mask
is then empty the `cnv` step repeats until some member has threads or every stack is empty.
R37: the repeated `cnv` step leaves some member with threads or every stack empty, whatever stacks of at most 8 entries the members
hold. -/
def Obligations.ReturnsUnwind : Prop :=
  (∀ (s : State) (c : Ctx), Issues s c →
    let g := c.w.st.gangOf c.sl
    ((∃ i ∈ g, ∀ pc m r, (c.w.st.slice i).stack ≠ ⟨pc, m, true⟩ :: r) → exec .ret s = .next (c.trapped .sov 0))
    ∧ ((∀ i ∈ g, ∃ pc m r, (c.w.st.slice i).stack = ⟨pc, m, true⟩ :: r) →
      ∃ w', Redirected c w' (fun x => { x with stack := x.stack.tail, mask := (x.stack.headD ⟨0, 0, false⟩).mask,
                                               pc := (x.stack.headD ⟨0, 0, false⟩).pc, wait := none }) ∧
        ((∃ i ∈ g, (w'.st.slice i).mask ≠ 0) → exec .ret s = .next (s.setWave c.u w')) ∧
        ((∀ i ∈ g, (w'.st.slice i).mask = 0) → exec .ret s = .next (s.setWave c.u { w' with st := w'.st.unwind g unwindFuel }))))
    ∧ (∀ (w : WaveCore) (g : List Nat), (∀ i ∈ g, i < 8 ∧ (w.slice i).stack.length ≤ 8) →
    (∃ i ∈ g, ((w.unwind g unwindFuel).slice i).mask ≠ 0) ∨ ∀ i ∈ g, ((w.unwind g unwindFuel).slice i).stack = [])

/-- R29, R37, R316: an `exit` outside handlers and routine calls takes the active threads of the issuing gang out of the live set; no other
thread leaves, and the wave is then ending exactly when no thread lives. While no slice waits at a `regang`, it clears those threads from every
member's mask and from every entry of its stack; the members move past it when one of them has threads left or every stack is empty, and the
`cnv` step repeats otherwise; the other slices stay as they are.
R35, R366: `regang` of a mask whose live slices the issuing gang already holds completes at once with one gang of its lowest slice; a
gang that is not inside the mask raises MBF.
R35, R232, R366: `regang` beyond that. While some live slice of its mask is not waiting, the issuing slices wait at it. When all of them wait,
and none outside the mask, they are checked in the order of R35: different masks, PCs or stack depths raise MBF and different MODE values MMF, in
the lowest of them, and each leaves its wait; else they form one gang and go to PC + 4. -/
def Obligations.ExitAndRegang : Prop :=
  (∀ (s : State) (c : Ctx), Issues s c → c.w.tp = none → c.w.st.inHandler = false → c.core.inCall c.u = false →
    ∃ t w', exec .exit s = .next t ∧ t.wave? c.u = some w' ∧ w'.st.live = c.w.st.live &&& ~~~c.act ∧
      (c.w.ending = false → (w'.ending = true ↔ c.w.st.live &&& ~~~c.act = 0)) ∧
      ((∀ i, i < 8 → (c.w.st.slice i).regangMask = none) →
        let g := c.w.st.gangOf c.sl
        let left (i : Nat) (m : BitVec 4) : BitVec 4 := m &&& ~~~(sliceBits c.act i)
        let cut (i : Nat) : List StackEnt := (c.w.st.slice i).stack.map (fun e => { e with mask := left i e.mask })
        let stay : Prop := (∃ i ∈ g, left i (c.w.st.slice i).mask ≠ 0) ∨ ∀ i ∈ g, (c.w.st.slice i).stack = []
        (∀ i, i < 8 → i ∉ g → w'.st.slice i = c.w.st.slice i) ∧
        (stay → ∀ i ∈ g, (w'.st.slice i).mask = left i (c.w.st.slice i).mask ∧ (w'.st.slice i).stack = cut i ∧
          ((c.w.st.slice i).mac = none → (w'.st.slice i).pc = (c.w.st.slice i).pc + 4)) ∧
        (¬ stay → ∃ x : WaveCore, (∀ i ∈ g, x.slice i = { c.w.st.slice i with mask := 0, stack := cut i }) ∧
          ∀ i ∈ g, w'.st.slice i = (x.unwind g unwindFuel).slice i)))
    ∧ (∀ (s : State) (c : Ctx) (m : BitVec 8), Issues s c → c.w.tp = none → c.w.st.trap = none → (∀ i, i < 8 → (c.w.st.slice i).regangMask = none) →
    c.sl ∈ c.w.st.gangOf c.sl →
    let g := c.w.st.gangOf c.sl
    ((∃ i ∈ g, m.getLsbD i = false) → exec (.regang m) s = .next (c.trapped .mbf 0))
    ∧ (c.w.st.named m = g → (∀ i ∈ g, (c.w.st.slice i).pc = (c.w.st.slice c.sl).pc ∧
          (c.w.st.slice i).stack.length = (c.w.st.slice c.sl).stack.length ∧
          (c.w.st.slice i).modex = c.mx ∧ (c.w.st.slice i).modem = c.mm) →
        ∃ w', exec (.regang m) s = .next (s.setWave c.u w') ∧ Redirected c w' (fun x => { x with gang := g.headD 0, pc := x.pc + 4, wait := none })))
    ∧ (∀ (s : State) (c : Ctx) (m : BitVec 8), Issues s c → c.w.tp = none → c.w.st.trap = none → c.sl ∈ c.w.st.gangOf c.sl →
    (∀ i ∈ c.w.st.gangOf c.sl, m.getLsbD i = true) →
    let g := c.w.st.gangOf c.sl
    let l := c.w.st.named m
    let mk (i : Nat) : Option (BitVec 8) := if i ∈ g then some m else (c.w.st.slice i).regangMask
    ((∃ i ∈ l, mk i = none) → (∀ i, i < 8 → i ∉ g → (c.w.st.slice i).regangMask = none) →
      ∃ w', exec (.regang m) s = .next (s.setWave c.u w') ∧ Redirected c w' (fun x => { x with wait := some (.regang m) }))
    ∧ ((∀ i ∈ l, ∃ k, mk i = some k ∧ c.w.st.named k = l) → (∀ i, i < 8 → i ∉ l → mk i = none) →
      let differ (f : Nat → Nat → Prop) : Prop := ∃ i ∈ l, ∃ j ∈ l, f i j
      let mbf : Prop := differ (fun i j => mk i ≠ mk j) ∨ differ (fun i j => (c.w.st.slice i).pc ≠ (c.w.st.slice j).pc) ∨
        differ (fun i j => (c.w.st.slice i).stack.length ≠ (c.w.st.slice j).stack.length)
      let mmf : Prop := differ (fun i j => (c.w.st.slice i).modex ≠ (c.w.st.slice j).modex ∨ (c.w.st.slice i).modem ≠ (c.w.st.slice j).modem)
      let lo := l.headD 0
      let free : WaveCore := c.w.st.updSlices l (fun _ y => { y with wait := none })
      let trap (x : Cause) : State := (s.setWave c.u { c.w with st := free }).takeTrap c.u lo
        { cause := x, mask := free.active lo, fa := 0, s2 := false, asy := false, unr := false }
      (mbf → exec (.regang m) s = .next (trap .mbf)) ∧ (¬ mbf → mmf → exec (.regang m) s = .next (trap .mmf)) ∧
      (¬ mbf → ¬ mmf → ∃ w', exec (.regang m) s = .next (s.setWave c.u w') ∧ w' = { c.w with st := { c.w.st with slices := w'.st.slices } } ∧
        (∀ i ∈ l, w'.st.slice i = { c.w.st.slice i with gang := lo, pc := (c.w.st.slice i).pc + 4, wait := none }) ∧
        ∀ i, i < 8 → i ∉ l → w'.st.slice i = c.w.st.slice i)))

/-- R66, R67, R347: `modex` and `modem` replace the fields of MODE that their enable masks select, in every slice of the issuing gang,
under whatever guard and active set.
R339, R376: `mcall` puts every slice of the issuing gang at operation 0 of the macro with the two specifiers, its PC unchanged; `sleep`
moves past itself and holds the gang for n core cycles, which `SLEEP_EXPIRY` counts off. -/
def Obligations.ModesMacrosAndSleep : Prop :=
  (∀ (s : State) (c : Ctx) (en g : BitVec 5) (ty : BitVec 4) (rm : BitVec 3) (sat : BitVec 1) (fe : BitVec 2)
    (en' : BitVec 4) (sc ord au : BitVec 3) (aot : BitVec 1), Issues s c →
    (∃ w, exec (.modex en g ty rm sat fe) s = .next (c.put w) ∧ ∃ f : Word → Word, Redirected c w (fun x => { x with modex := f x.modex }) ∧
      ∀ x, (f x).extractLsb' 10 5 = (if en.getLsbD 4 then g else x.extractLsb' 10 5) ∧
        (f x).extractLsb' 6 4 = (if en.getLsbD 3 then ty else x.extractLsb' 6 4) ∧
        (f x).extractLsb' 3 3 = (if en.getLsbD 2 then rm else x.extractLsb' 3 3) ∧
        (f x).extractLsb' 2 1 = (if en.getLsbD 1 then sat else x.extractLsb' 2 1) ∧
        (f x).extractLsb' 0 2 = (if en.getLsbD 0 then fe else x.extractLsb' 0 2) ∧ (f x).extractLsb' 15 17 = x.extractLsb' 15 17)
    ∧ (∃ w, exec (.modem en' sc ord au aot) s = .next (c.put w) ∧ ∃ f : Word → Word, Redirected c w (fun x => { x with modem := f x.modem }) ∧
      ∀ x, (f x).extractLsb' 7 3 = (if en'.getLsbD 3 then sc else x.extractLsb' 7 3) ∧
        (f x).extractLsb' 4 3 = (if en'.getLsbD 2 then ord else x.extractLsb' 4 3) ∧
        (f x).extractLsb' 1 3 = (if en'.getLsbD 1 then au else x.extractLsb' 1 3) ∧
        (f x).extractLsb' 0 1 = (if en'.getLsbD 0 then aot else x.extractLsb' 0 1) ∧ (f x).extractLsb' 10 22 = x.extractLsb' 10 22))
    ∧ (∀ (s : State) (c : Ctx) (m : BitVec 8) (p q : Operand) (n : BitVec 16), Issues s c →
    (c.Allowed (.mcall m p q) false [] → ∃ w', exec (.mcall m p q) s = .next (s.setWave c.u w') ∧
      Redirected c w' (fun x => { x with mac := some { m := m.toNat, p1 := encodeOperand p, p2 := encodeOperand q, i := 0 }, wait := none }))
    ∧ (∃ w, exec (.sleep n) s = .next (c.put w) ∧ Redirected c w (fun x => { x with sleep := n.toNat }))
    ∧ (∀ u w sl, s.wave? u = some w → sl < 8 → w.core < 512 →
        (w.tp = none → (s.col (colOf w.core)).power = .on ∧ (s.col (colOf w.core)).stopped = false) → ∃ t w', exec (.sleepExpiry u sl) s = .next t ∧ t.wave? u = some w' ∧ (w'.st.slice sl).sleep = 0))

/-! ### Traps, system registers and privileged instructions -/

/-- R230, R231, R232: a trap that goes to the wave's own handler. The record names cause, slice, macro place and threads; the trapping gang
is saved and becomes the handler gang: every live thread of it active, MODE at its launch values, its stacks kept, at the handler's
address. Registers, the other slices, every other wave and memory stay. A wave of a core takes it so for a cause of route W with a handler
address; that a Trailhead processor takes every cause so is the model's choice: log entry 10 (DESIGN CHOICE). -/
def Obligations.TrapEntersHandler : Prop :=
  ∀ (s : State) (u sl : Nat) (t : TrapInfo) (w : Wave), s.wave? u = some w → sl ∈ w.st.gangOf sl → w.st.trap = none → w.hidden = none →
    (w.tp ≠ none ∨ (w.tp = none ∧ routeOf t.cause t.s2 = .w ∧ w.st.tvec ≠ 0)) →
    ∃ w', s.takeTrap u sl t = s.setWave u w' ∧
      (w'.st.trcause.extractLsb' 0 8).toNat = causeCode t.cause ∧ w'.st.trcause.extractLsb' 30 2 = 0 ∧ w'.st.trcause.getLsbD 29 = t.s2 ∧
      w'.st.trcause.getLsbD 28 = t.asy ∧ w'.st.trcause.getLsbD 27 = false ∧ w'.st.trcause.getLsbD 26 = (w.st.slice sl).mac.isSome ∧
      (∀ m, (w.st.slice sl).mac = some m → m.i < 32 → (w'.st.trcause.extractLsb' 21 5).toNat = m.i) ∧
      ((w.st.slice sl).mac = none → w'.st.trcause.extractLsb' 21 5 = 0) ∧
      (w'.st.trcause.extractLsb' 18 3).toNat = (w.st.gangOf sl).headD sl ∧ w'.st.trcause.getLsbD 17 = t.unr ∧
      w'.st.trmask = t.mask ∧ pair w'.st.trfahi w'.st.trfalo = t.fa ∧
      w'.st.trpc = (((w.st.slice sl).pc - w.st.tx).truncate 32 + if t.cause = .swt then 4 else 0) ∧
      w'.st.inHandler = true ∧ w'.st.regs = w.st.regs ∧ w'.st.live = w.st.live ∧
      (∀ i, i < 8 → i ∉ w.st.gangOf sl → w'.st.slice i = w.st.slice i) ∧
      (∀ i ∈ w.st.gangOf sl, let x := w.st.slice i; let y := w'.st.slice i
        y.pc = w.st.tvec ∧ y.mask = w.st.liveBits i ∧ y.stack = x.stack ∧ y.modex = modexInit ∧ y.modem = modemInit ∧
        ∃ tr, w'.st.trap = some tr ∧ ∃ sv ∈ tr.saved, sv.sl = i ∧ sv.pc = x.pc ∧ sv.mask = x.mask ∧ sv.depth = x.stack.length ∧
          sv.modex = x.modex ∧ sv.modem = x.modem ∧ sv.mac = x.mac ∧ sv.past = false)

/-- R232, R235, R259: a trap that does not go to a handler of the wave parks it, and system software is told: none of its gangs issues
until the trap is resolved. A trap inside a handler parks it with NEST set, and the gang saved at the earlier trap is kept. Where the
manual leaves it open, this is the model's choice: log entry 13 (DESIGN CHOICE). -/
def Obligations.TrapParksTheWave : Prop :=
  ∀ (s : State) (u sl : Nat) (t : TrapInfo) (w : Wave), s.wave? u = some w → w.tp = none → w.hidden = none →
    ((w.st.trap = none ∧ (routeOf t.cause t.s2 ≠ .w ∨ w.st.tvec = 0)) ∨ w.st.inHandler = true) →
    ∃ w' r, s.takeTrap u sl t = (s.setWave u w').postEvent (if w.st.inHandler = false ∧ routeOf t.cause t.s2 = .h then 32 else s.partOfWave w) r ∧
      w'.st.inHandler = false ∧ w'.st.trcause.getLsbD 27 = w.st.inHandler ∧ (w'.st.trcause.extractLsb' 0 8).toNat = causeCode t.cause ∧
      w'.st.regs = w.st.regs ∧ (∀ i, i < 8 → (w'.st.slice i).pc = (w.st.slice i).pc ∧ (w'.st.slice i).mask = (w.st.slice i).mask ∧
        (w'.st.slice i).stack = (w.st.slice i).stack) ∧
      (∀ t', s.canIssue w' t' = false) ∧
      (∀ old, w.st.trap = some old → ∃ new, w'.st.trap = some new ∧ new.saved = old.saved ∧ new.handler = old.handler)

/-- R234, R315: `eret` of the whole handler gang at its entry depths. ACT 0 resumes every saved slice at TRPC, ACT 1 past it when the cause
was synchronous, with its saved mask and MODE, outside the privileged view; a slice that trapped inside an `mcall` resumes at operation MOP, or
past it. ACT 2 kills the wave. Outside a handler it raises PRV, and issued by a part of the gang or at another depth MBF. -/
def Obligations.ReturnFromHandler : Prop :=
  ∀ (s : State) (c : Ctx), Issues s c →
    (c.w.st.inHandler = false → exec .eret s = .next (c.trapped .prv 0))
    ∧ (c.w.st.inHandler = true → (c.w.st.gangOf c.sl ≠ c.w.st.scopeSlices ∨ c.w.st.atEntryDepth = false) →
        exec .eret s = .next (c.trapped .mbf 0))
    ∧ (∀ tr, c.w.st.trap = some tr → c.w.st.inHandler = true → c.w.st.gangOf c.sl = c.w.st.scopeSlices → c.w.st.atEntryDepth = true →
        c.core.run = none → (c.w.st.trcause.extractLsb' 30 2 = 0 ∨ c.w.st.trcause.extractLsb' 30 2 = 1) →
        let skip : Bool := decide (c.w.st.trcause.extractLsb' 30 2 = 1) && !c.w.st.trcause.getLsbD 28
        let at_ : DWord := c.w.st.tx + c.w.st.trpc.zeroExtend 64
        ∃ w', exec .eret s = .next (s.setWave c.u w') ∧ w'.st.trap = none ∧ w'.st.regs = c.w.st.regs ∧
          (∀ i, i < 8 → i ∉ tr.saved.map (·.sl) → w'.st.slice i = c.w.st.slice i) ∧
          (∀ i, i < 8 → ∀ y, tr.saved.find? (fun y => y.sl == i) = some y → y.past = false →
            (w'.st.slice i).mask = y.mask &&& c.w.st.liveBits i ∧ (w'.st.slice i).modex = y.modex ∧ (w'.st.slice i).modem = y.modem ∧
            (w'.st.slice i).gang = y.gang ∧ (w'.st.slice i).wait = y.wait ∧
            (c.w.st.trcause.getLsbD 26 = false → (w'.st.slice i).pc = at_ + (if skip then 4 else 0) ∧ (w'.st.slice i).mac = none) ∧
            (c.w.st.trcause.getLsbD 26 = true → ∀ m, y.mac = some m →
              let n := (c.w.st.trcause.extractLsb' 21 5).toNat + (if skip then 1 else 0)
              (n < 32 → (w'.st.slice i).pc = at_ ∧ (w'.st.slice i).mac = some { m with i := n }) ∧
              (n = 32 → (w'.st.slice i).pc = at_ + 4 ∧ (w'.st.slice i).mac = none))))
    ∧ (∀ tr, c.w.st.trap = some tr → c.w.st.inHandler = true → c.w.st.gangOf c.sl = c.w.st.scopeSlices → c.w.st.atEntryDepth = true →
        c.w.st.trcause.extractLsb' 30 2 = 2 → exec .eret s = .next (s.killWave c.u))

/-- R383, R231: `trap` raises SWT with its immediate as fault address and the active set as the threads meeting it.
R68, R53, R71, R122, R232, R390: a word that decodes to no instruction raises UDI before any effect. A fetch that fails raises its own trap;
one that meets poison is an asynchronous cause: it is held for the wave, and the gang fetches again when it has been resolved; that last clause is
the model's choice: log entry 26 (DEDUCED). -/
def Obligations.TrapsAndUnrunnableWords : Prop :=
  (∀ (s : State) (c : Ctx) (x : BitVec 24), Issues s c → exec (.trap x) s = .next (c.trapped .swt (x.zeroExtend 64)))
    ∧ (∀ (s : State) (c : Ctx) (x : Word), Issues s c →
    exec (.unassignedOpcode x) s = .next (c.trapped .udi 0)
    ∧ (∀ t, s.fetch c.w c.sl = .fault t → t.asy = false → exec .fetchFault s = .next (s.takeTrap c.u c.sl t))
    ∧ (∀ t, s.fetch c.w c.sl = .fault t → t.asy = true → ∃ q w', exec .fetchFault s = .next q ∧ q.wave? c.u = some w' ∧
        (t.cause, t.fa, false) ∈ w'.held ∧ w'.st.regs = c.r ∧ q.mem = s.mem ∧
        ∀ i, i < 8 → (w'.st.slice i).pc = (c.w.st.slice i).pc ∧ (w'.st.slice i).mask = (c.w.st.slice i).mask)
    ∧ ((c.w.st.slice c.sl).pc.toNat % 4 ≠ 0 → exec .fetchFault s = .next (c.trapped .alf (c.w.st.slice c.sl).pc)))

/-- R69, R257, R71: outside a handler the privileged instructions of a wave raise PRV, with no other effect.
R78, R341, R328, R329, R382: the privileged instructions in a handler. `mcs.wr` writes one operation word of the core's control store,
or raises MCS for a word that it refuses, a place outside the store, or a macro that a wave is inside; `iinv` empties the core's
instruction cache; `tlbinv` removes the entries of stage 1 from the range caches of its set; `hv` tells the hypervisor and blocks the
handler gang. Where the manual leaves it open, this is the model's choice: log entries 13 (DESIGN CHOICE), 53 (DEDUCED). -/
def Obligations.PrivilegedInstructions : Prop :=
  (∀ (s : State) (c : Ctx) (a b : Operand) (x : BitVec 24), Issues s c → c.w.tp = none → c.w.st.inHandler = false → guardReserved c.mx = false →
    ∀ i ∈ [Instr.eret, .hv x, .mcsWr a b, .iinv, .tlbinv a], i.wf = true → exec i s = .next (c.trapped .prv 0))
    ∧ (∀ (s : State) (c : Ctx) (a b : Operand) (x : BitVec 24), Issues s c → c.w.tp = none → c.w.st.inHandler = true → guardReserved c.mx = false →
    guardIsP c.mx = false → c.kOn = true →
    (clsOf a = .uni → clsOf b = .uni → (Instr.mcsWr a b).wf = true → c.Full [a, b] →
      let p := c.r.uni a
      let v := c.r.uni b
      let op := v.toNat / 2 ^ 24
      let bad : Prop := p.toNat ≥ 2048 ∨ (1 ≤ op ∧ op ≤ 0x0D) ∨ (0xF0 ≤ op ∧ op ≤ 0xF4) ∨ s.insideMac c.w.core (p.toNat / 32) = true
      (¬ bad → ∃ t, exec (.mcsWr a b) s = .next t ∧ (t.core c.w.core).macWord (p.toNat / 32) (p.toNat % 32) = v ∧
        ∀ m i, m < 64 → i < 32 → (m, i) ≠ (p.toNat / 32, p.toNat % 32) → (t.core c.w.core).macWord m i = (s.core c.w.core).macWord m i) ∧
      (bad → exec (.mcsWr a b) s = .next (c.trapped .mcs 0)))
    ∧ ((∀ y ∈ c.w.inflight, y.threads &&& c.act = 0 ∨ y.writes = false ∨ y.sent.isSome = true) →
      (∃ t, exec .iinv s = .next t ∧ (t.core c.w.core).icache = [] ∧ t.mem = s.mem ∧ ∀ k, k ≠ c.w.core → t.core k = s.core k) ∧
      (clsOf a = .uni → (Instr.tlbinv a).wf = true → c.Full [a] → (c.r.uni a = 0 ∨ c.r.uni a = 1) →
        s.noWalks [c.w.core] (if c.r.uni a = 1 then [clusterOf c.w.core] else []) = true →
        ∃ t, exec (.tlbinv a) s = .next t ∧ (∀ e ∈ (t.core c.w.core).rc, e.stage ≠ 1) ∧
          (c.r.uni a = 1 → ∀ e ∈ (t.cluster (clusterOf c.w.core)).rc, e.stage ≠ 1) ∧ t.mem = s.mem))
    ∧ (c.w.st.gangOf c.sl = c.w.st.scopeSlices →
      ∃ r, exec (.hv x) s = .next ((s.block c.u c.sl .hyper).postEvent 32 r) ∧ r.length = 32))

/-- R360, R361, R6, R42: `rdsr` writes the register of its number to sD under the k guard. The registers with a field of view U or Ur are
read in both views, the others raise PRV in the unprivileged view, and a number without a register raises UDI.
R360 to R362, R221, R230: what `wrsr` writes in a handler, which is the privileged view: the fields of each register that a handler may
write. A write of THRCFG, BALCFG, COLSTAT or CKPTCFG is irrevocable. Unprivileged, it writes MODEX, MODEM and PWRCTL alone; any other
register raises PRV. Where the manual leaves it open, this is the model's choice: log entry 10 (DESIGN CHOICE). -/
def Obligations.SystemRegisters : Prop :=
  (∀ (s : State) (c : Ctx) (m : Fin 32) (n : BitVec 16), Issues s c → c.w.tp = none → guardReserved c.mx = false →
    let k := s.core c.w.core
    let cl := s.cluster (clusterOf c.w.core)
    let st := c.w.st
    let table : List (BitVec 16 × Bool × Word) :=
      [(0x01, true, s.coreid c.w st.inHandler), (0x02, true, c.mx), (0x03, true, c.mm), (0x04, true, k.cycles.truncate 32),
       (0x05, true, (k.cycles >>> 32).truncate 32), (0x06, true, s.mism c.w.core), (0x07, true, st.pwrctl), (0x08, false, cl.thrcfg),
       (0x09, false, cl.balcfg), (0x0A, true, s.colstat c.w.core), (0x0B, true, st.tveclo), (0x0C, true, st.tvechi), (0x0D, false, st.trcause),
       (0x0E, false, st.trpc), (0x0F, false, st.trmask), (0x10, false, st.trfalo), (0x11, false, st.trfahi),
       (0x12, false, k.interval.zeroExtend 32), (0x13, false, st.hscr0), (0x14, false, st.hscr1), (0x15, true, st.txlo), (0x16, true, st.txhi)]
    (∀ e ∈ table, e.1 = n → (e.2.1 = true ∨ st.inHandler = true) → guardIsP c.mx = false → c.act = c.live →
      (c.kOn = true → c.Full [.s m]) → exec (.rdsr (.s m) n) s = .next (c.put (if c.kOn then c.w.putS m.val e.2.2 else c.w)))
    ∧ (∀ e ∈ table, e.1 = n → e.2.1 = false → st.inHandler = false → exec (.rdsr (.s m) n) s = .next (c.trapped .prv 0))
    ∧ ((∀ e ∈ table, e.1 ≠ n) → exec (.rdsr (.s m) n) s = .next (c.trapped .udi 0)))
    ∧ (∀ (s : State) (c : Ctx) (m : Fin 32) (n : BitVec 16), Issues s c → c.w.tp = none → guardReserved c.mx = false →
    let v := c.r.s.getD m.val 0
    let core := c.w.core
    let sets (f : WaveCore → WaveCore) : Wave := { c.w with st := f c.w.st }
    let g := c.w.st.gangOf c.sl
    let own : List (BitVec 16 × Wave) :=
      [(0x02, sets (fun x => x.updSlices g (fun _ y => { y with modex := v &&& 0x7FFF }))),
       (0x03, sets (fun x => x.updSlices g (fun _ y => { y with modem := v &&& 0x3FF }))), (0x07, sets (fun x => { x with pwrctl := v &&& 1 })),
       (0x0B, sets (fun x => { x with tveclo := v })), (0x0C, sets (fun x => { x with tvechi := v })),
       (0x0D, sets (fun x => { x with trcause := v &&& 0xFFFE00FF })), (0x0E, sets (fun x => { x with trpc := v })),
       (0x0F, sets (fun x => { x with trmask := v })), (0x10, sets (fun x => { x with trfalo := v })), (0x11, sets (fun x => { x with trfahi := v })),
       (0x13, sets (fun x => { x with hscr0 := v })), (0x14, sets (fun x => { x with hscr1 := v }))]
    let held : List (BitVec 16 × (State → State)) :=
      [(0x08, fun t => t.updCluster (clusterOf core) (fun k => k.putThr v)), (0x09, fun t => t.updCluster (clusterOf core) (fun k => { k with balcfg := v &&& 0x1FF })),
       (0x0A, fun t => t.updCore core (fun k => if v >>> 24 = 0 then { k with tevt := 0 } else k)),
       (0x12, fun t => t.updCore core (fun k => { k with interval := v.truncate 8 }))]
    let ready : Prop := guardIsP c.mx = false ∧ c.kOn = true ∧ c.Full [.s m]
    (∀ e ∈ own, e.1 = n → (c.w.st.inHandler = true ∨ n = 0x02 ∨ n = 0x03 ∨ n = 0x07) → ready → (n = 0x02 ∨ n = 0x03 ∨ c.act = c.live) →
      exec (.wrsr (.s m) n) s = .next (c.put e.2))
    ∧ (∀ e ∈ held, e.1 = n → c.w.st.inHandler = true → ready → c.act = c.live →
        exec (.wrsr (.s m) n) s = .next ((e.2 (c.put c.w)).irrevocable c.u))
    ∧ (n ∈ [0x01, 0x04, 0x05, 0x06, 0x15, 0x16] → c.w.st.inHandler = true → ready → c.act = c.live →
        exec (.wrsr (.s m) n) s = .next (c.put c.w))
    ∧ (n.toNat ∈ (List.range 0x17).drop 1 → n ∉ [0x02, 0x03, 0x07] → c.w.st.inHandler = false →
        exec (.wrsr (.s m) n) s = .next (c.trapped .prv 0)))

/-- R71, R42, R64, R41: the shared refusals of a register instruction, shown by `mov` into a uniform register: a reserved guard raises UDI,
a p guard on a uniform destination OPC, and an active set that is not the whole live set UWP, even when the k guard is false.
R44: a read of an empty register under its policy of MODE.FE: with the policy bit 0 the instruction waits, with 1 it raises FET; field
A has bit 0. Where the manual leaves it open, this is the model's choice: log entry 12 (DEDUCED). -/
def Obligations.SharedRefusals : Prop :=
  (∀ (s : State) (c : Ctx) (m : Fin 32) (a : Operand), Issues s c → c.Allowed (.mov (.s m) a) true [.s m, a] → clsOf a = .uni →
    (guardReserved c.mx = true → exec (.mov (.s m) a) s = .next (c.trapped .udi 0))
    ∧ (guardReserved c.mx = false → guardIsP c.mx = true → exec (.mov (.s m) a) s = .next (c.trapped .opc 0))
    ∧ (guardReserved c.mx = false → guardIsP c.mx = false → c.act ≠ c.live → exec (.mov (.s m) a) s = .next (c.trapped .uwp 0)))
    ∧ (∀ (s : State) (c : Ctx) (d a b : Fin 64), Issues s c → c.Allowed (.and (.v d) (.v a) (.v b)) false [.v d, .v a, .v b] →
    guardReserved c.mx = false → c.Allocated [.v d, .v a, .v b] → c.hit ≠ 0 →
    let ea := c.r.vEmpty.getLsbD a.val
    let eb := c.r.vEmpty.getLsbD b.val
    ((ea = true ∧ c.mx.getLsbD 0 = true) ∨ (eb = true ∧ c.mx.getLsbD 1 = true) →
      exec (.and (.v d) (.v a) (.v b)) s = .next (c.trapped .fet 0))
    ∧ ((ea = true ∨ eb = true) → (ea = true → c.mx.getLsbD 0 = false) → (eb = true → c.mx.getLsbD 1 = false) →
      exec (.and (.v d) (.v a) (.v b)) s = .next (s.block c.u c.sl .stall)))

/-! ### Memory -/

/-- R44, R55, R113, R330, R331, R333, R355: a load whose threads' addresses pass the checks of R112 goes into flight: one piece a thread,
its destination registers empty until it returns. With no thread, or under a false k guard, and for a prefetch, nothing is written but the
PC moves on. A load that fails a check goes nowhere: it raises, for the gang that issued it, the first of SPF, ALF, TRF and PMF that a thread meets,
with those threads and the address of the lowest, or AFO for its offset. `lda` under ORD none asks for the read permission alone: log entry 60 (DESIGN
CHOICE). Where the manual leaves it open, this is the model's choice: log entries 12 (DEDUCED), 18 (DESIGN CHOICE), 66 (DEDUCED). -/
def Obligations.LoadsGoInFlight : Prop :=
  ∀ (s : State) (c : Ctx) (d o : Operand) (b : Fin 8) (sz : BitVec 3) (sx nt : Bool) (loc : Nat → XRes), Issues s c → guardReserved c.mx = false →
    let k := sizeRegs sz
    let ds := regSpan d k
    (clsOf d = .vary → (clsOf o = .vary ∨ clsOf o = .uni ∨ clsOf o = .aff) → c.Allowed (.ld d o b sz sx nt) false [d, o] → c.Allocated (o :: ds) →
      (c.hit = 0 → exec (.ld d o b sz sx nt) s = .next (c.put c.w)) ∧
      (c.hit ≠ 0 → c.NoOverflow o → c.Full (o :: ds) → c.Reaches .load needRead b (sizeBytes sz) (threadsOf c.hit) (c.ea b o) loc →
        ∃ t, exec (.ld d o b sz sx nt) s = .next t ∧ Sent c t (ds.filterMap dstOf) (fun a =>
          a.op = .load sx nt ∧ a.dst = dstOf d ∧ a.nreg = k ∧ a.threads = c.hit ∧ a.acq = false ∧ a.rel = false ∧ a.sc = false ∧
          a.pieces = piecesAt (threadsOf c.hit) (c.ea b o) loc (sizeBytes sz) (fun _ => 0) (fun _ => 0))) ∧
      (c.hit ≠ 0 → c.Overflows o → exec (.ld d o b sz sx nt) s = .next (c.trapped .afo 0)) ∧
      (∀ x t s2 mask, c.hit ≠ 0 → c.NoOverflow o → c.Full [o] →
        c.Raises .load needRead b (sizeBytes sz) (threadsOf c.hit) (c.ea b o) x t s2 mask →
        exec (.ld d o b sz sx nt) s = .next (c.refused x mask (c.ea b o t) s2)))
    ∧ (isS d = true → clsOf o = .uni → c.Allowed (.ldu d o b sz sx nt) true [d, o] → guardIsP c.mx = false → c.act = c.live →
      (c.kOn = false → exec (.ldu d o b sz sx nt) s = .next (c.put c.w)) ∧
      (c.kOn = true → c.Full (o :: ds) → c.Reaches .load needRead b (sizeBytes sz) [0] (c.ea b o) loc →
        ∃ t, exec (.ldu d o b sz sx nt) s = .next t ∧ Sent c t (ds.filterMap dstOf) (fun a =>
          a.op = .load sx nt ∧ a.dst = dstOf d ∧ a.nreg = k ∧ a.threads = c.act ∧
          a.pieces = piecesAt [0] (c.ea b o) loc (sizeBytes sz) (fun _ => 0) (fun _ => 0))) ∧
      (∀ x s2 mask, c.kOn = true → c.Full [o] → c.Raises .load needRead b (sizeBytes sz) [0] (c.ea b o) x 0 s2 mask →
        exec (.ldu d o b sz sx nt) s = .next (c.refused x c.act (c.ea b o 0) s2)))
    ∧ (c.Allowed (.lda d o b) true [d, o] → c.Allocated [d, o] → modemReserved c.mm = false → c.NoOverflow o → c.Full [d, o] →
        let need := if modeORD c.mm = 0 then needRead else needAtomic
        ((clsOf d = .vary ∧ (clsOf o = .vary ∨ clsOf o = .uni ∨ clsOf o = .aff) ∧ c.hit ≠ 0 ∧
            c.Reaches .atomic need b 4 (threadsOf c.hit) (c.ea b o) loc) ∨
          (isS d = true ∧ clsOf o = .uni ∧ guardIsP c.mx = false ∧ c.act = c.live ∧ c.kOn = true ∧ c.Reaches .atomic need b 4 [0] (c.ea b o) loc)) →
        ∃ t, exec (.lda d o b) s = .next t ∧ Sent c t ([d].filterMap dstOf) (fun a =>
          a.op = (if modeORD c.mm = 0 then .load false false
            else .atomic .read 0 (if modeORD c.mm = 1 ∨ modeORD c.mm = 3 then modeAU c.mm else 0)) ∧
          a.dst = dstOf d ∧ a.threads = (if clsOf d = .vary then c.hit else c.act) ∧
          a.acq = decide (modeORD c.mm = 2 ∨ modeORD c.mm = 4 ∨ modeORD c.mm = 5) ∧ a.rel = false ∧ a.sc = decide (modeORD c.mm = 5) ∧
          a.pieces.map (fun p => (p.t, p.loc, p.n)) =
            (if clsOf d = .vary then threadsOf c.hit else [0]).map (fun t => (t, (loc t).loc, 4))))
    ∧ (c.Allowed (.lda d o b) true [d, o] → c.Allocated [d, o] → modemReserved c.mm = false →
        let need := if modeORD c.mm = 0 then needRead else needAtomic
        (clsOf d = .vary → (clsOf o = .vary ∨ clsOf o = .uni ∨ clsOf o = .aff) → c.hit ≠ 0 →
          (c.Overflows o → exec (.lda d o b) s = .next (c.trapped .afo 0)) ∧
          (∀ x t s2 mask, c.NoOverflow o → c.Full [o] → c.Raises .atomic need b 4 (threadsOf c.hit) (c.ea b o) x t s2 mask →
            exec (.lda d o b) s = .next (c.refused x mask (c.ea b o t) s2))) ∧
        (∀ x s2 mask, isS d = true → clsOf o = .uni → guardIsP c.mx = false → c.act = c.live → c.kOn = true → c.Full [o] →
          c.Raises .atomic need b 4 [0] (c.ea b o) x 0 s2 mask → exec (.lda d o b) s = .next (c.refused x c.act (c.ea b o 0) s2)))
    ∧ ((clsOf o = .vary ∨ clsOf o = .uni ∨ clsOf o = .aff) → c.Allowed (.pf o b sz nt) false [o] → c.Allocated [o] → c.Full [o] →
        ∃ t, exec (.pf o b sz nt) s = .next t ∧ t.waves = (c.put c.w).waves ∧ t.mem = s.mem ∧ t.poison = s.poison)

/-- R113, R378, R380, R381, R241: a store whose threads' addresses pass the checks of R112 goes into flight with the low bytes of its data
registers; it empties no register. A store that fails a check goes nowhere: it raises, for the gang that issued it, the first of SPF, ALF, TRF and PMF
that a thread meets, with those threads and the address of the lowest, or AFO for its offset. `sta` under ORD none asks for the write permission alone:
log entry 60 (DESIGN CHOICE). Where the manual leaves it open, this is the model's choice: log entries 18 (DESIGN CHOICE), 66 (DEDUCED). -/
def Obligations.StoresGoInFlight : Prop :=
  ∀ (s : State) (c : Ctx) (d o : Operand) (b : Fin 8) (sz : BitVec 3) (nt : Bool) (loc : Nat → XRes), Issues s c → guardReserved c.mx = false →
    let ds := regSpan d (sizeRegs sz)
    let low (n : Nat) (t : Nat) : Nat := c.r.wide d (sizeRegs sz) t % 2 ^ (8 * n)
    (clsOf d = .vary → (clsOf o = .vary ∨ clsOf o = .uni ∨ clsOf o = .aff) → c.Allowed (.st d o b sz nt) false [d, o] → c.Allocated (o :: ds) →
      (c.hit = 0 → exec (.st d o b sz nt) s = .next (c.put c.w)) ∧
      (c.hit ≠ 0 → c.NoOverflow o → c.Full (o :: ds) → c.Reaches .store needWrite b (sizeBytes sz) (threadsOf c.hit) (c.ea b o) loc →
        ∃ t, exec (.st d o b sz nt) s = .next t ∧ Sent c t [] (fun a => a.op = .store nt ∧ a.threads = c.hit ∧
          a.pieces = piecesAt (threadsOf c.hit) (c.ea b o) loc (sizeBytes sz) (low (sizeBytes sz)) (fun _ => 0))) ∧
      (c.hit ≠ 0 → c.Overflows o → exec (.st d o b sz nt) s = .next (c.trapped .afo 0)) ∧
      (∀ x t s2 mask, c.hit ≠ 0 → c.NoOverflow o → c.Full (o :: ds) →
        c.Raises .store needWrite b (sizeBytes sz) (threadsOf c.hit) (c.ea b o) x t s2 mask →
        exec (.st d o b sz nt) s = .next (c.refused x mask (c.ea b o t) s2)))
    ∧ (isS d = true → clsOf o = .uni → c.Allowed (.stu d o b sz false nt) true [d, o] → guardIsP c.mx = false →
      (c.kOn = false → exec (.stu d o b sz false nt) s = .next (c.put c.w)) ∧
      (c.kOn = true → c.Full (o :: ds) → c.Reaches .store needWrite b (sizeBytes sz) [0] (c.ea b o) loc →
        ∃ t, exec (.stu d o b sz false nt) s = .next t ∧ Sent c t [] (fun a => a.op = .store nt ∧ a.threads = c.act ∧
          a.pieces = piecesAt [0] (c.ea b o) loc (sizeBytes sz) (low (sizeBytes sz)) (fun _ => 0))) ∧
      (∀ x s2 mask, c.kOn = true → c.Full (o :: ds) → c.Raises .store needWrite b (sizeBytes sz) [0] (c.ea b o) x 0 s2 mask →
        exec (.stu d o b sz false nt) s = .next (c.refused x c.act (c.ea b o 0) s2)))
    ∧ (c.Allowed (.sta d o b) true [d, o, d] → c.Allocated [d, o, d] → modemReserved c.mm = false →
        ((clsOf d = .vary ∧ (clsOf o = .vary ∨ clsOf o = .uni ∨ clsOf o = .aff) ∧ c.hit = 0) ∨
          (clsOf d = .uni ∧ clsOf o = .uni ∧ guardIsP c.mx = false ∧ c.kOn = false)) → exec (.sta d o b) s = .next ((c.put c.w).irrevocable c.u))
    ∧ (c.Allowed (.sta d o b) true [d, o, d] → c.Allocated [d, o, d] → modemReserved c.mm = false → c.NoOverflow o → c.Full [d, o] →
        let need := if modeORD c.mm = 0 then needWrite else needAtomic
        ((clsOf d = .vary ∧ (clsOf o = .vary ∨ clsOf o = .uni ∨ clsOf o = .aff) ∧ c.hit ≠ 0 ∧
            c.Reaches .atomic need b 4 (threadsOf c.hit) (c.ea b o) loc) ∨
          (clsOf d = .uni ∧ clsOf o = .uni ∧ guardIsP c.mx = false ∧ c.kOn = true ∧ c.Reaches .atomic need b 4 [0] (c.ea b o) loc)) →
        ∃ t, exec (.sta d o b) s = .next t ∧ Sent c t [] (fun a =>
          a.op = (if modeORD c.mm = 0 then .store false
            else .atomic .write 0 (if modeORD c.mm = 1 ∨ modeORD c.mm = 2 then modeAU c.mm else 0)) ∧
          a.threads = (if clsOf d = .vary then c.hit else c.act) ∧
          a.rel = decide (modeORD c.mm = 3 ∨ modeORD c.mm = 4 ∨ modeORD c.mm = 5) ∧ a.acq = false ∧ a.sc = decide (modeORD c.mm = 5) ∧
          a.pieces.map (fun p => (p.t, p.loc, p.n, p.data)) =
            (if clsOf d = .vary then threadsOf c.hit else [0]).map (fun t => (t, (loc t).loc, 4, (c.r.src d t).toNat))))
    ∧ (c.Allowed (.sta d o b) true [d, o, d] → c.Allocated [d, o, d] → modemReserved c.mm = false →
        let need := if modeORD c.mm = 0 then needWrite else needAtomic
        (clsOf d = .vary → (clsOf o = .vary ∨ clsOf o = .uni ∨ clsOf o = .aff) → c.hit ≠ 0 →
          (c.Overflows o → exec (.sta d o b) s = .next (c.trapped .afo 0)) ∧
          (∀ x t s2 mask, c.NoOverflow o → c.Full [d, o] → c.Raises .atomic need b 4 (threadsOf c.hit) (c.ea b o) x t s2 mask →
            exec (.sta d o b) s = .next (c.refused x mask (c.ea b o t) s2))) ∧
        (∀ x s2 mask, clsOf d = .uni → clsOf o = .uni → guardIsP c.mx = false → c.kOn = true → c.Full [d, o] →
          c.Raises .atomic need b 4 [0] (c.ea b o) x 0 s2 mask → exec (.sta d o b) s = .next (c.refused x c.act (c.ea b o 0) s2)))

/-- R128, R275, R276, R277, R278, R241: each `atom.*`, in its varying and its uniform form, goes into flight with its data, its order, its
scope and its use, and empties its destination register; it is irrevocable, so that the wave is pinned, whether or not a thread contributes. `atom.add`, `min` and `max` need an integer type, `atom.fadd` f32 or bf16x2. One
that fails a check goes nowhere: it raises, for the gang that issued it, the first of SPF, ALF, TRF and PMF that a thread meets, with those threads
and the address of the lowest, or AFO for its offset. Where the manual leaves it open, this is the model's choice: log entries 18 (DESIGN CHOICE),
66 (DEDUCED). -/
def Obligations.AtomicsGoInFlight : Prop :=
  ∀ (s : State) (c : Ctx) (d o : Operand) (b : Fin 8) (r : Fin 32) (loc : Nat → XRes), Issues s c → guardReserved c.mx = false →
    modemReserved c.mm = false →
    let ty := modeT c.mx
    let int : Prop := ∃ n sg, IntType ty n sg
    let x1 := dataReg d r
    let x2 := dataReg d (Fin.ofNat 32 (r.val + 1))
    ∀ e ∈ ([(.atomAdd d o b r, .add, int, [x1]), (.atomMin d o b r, .min, int, [x1]), (.atomMax d o b r, .max, int, [x1]),
        (.atomAnd d o b r, .and, True, [x1]), (.atomOr d o b r, .or, True, [x1]), (.atomXor d o b r, .xor, True, [x1]),
        (.atomXchg d o b r, .xchg, True, [x1]), (.atomCas d o b r, .cas, True, [x1, x2]), (.atomFadd d o b r, .fadd, ty = 2 ∨ ty = 6, [x1]),
        (.atomInc d o b r, .inc, True, [x1])] : List (Instr × AtomOp × Prop × List Operand)),
      e.2.2.1 → c.Allowed e.1 true (d :: o :: e.2.2.2) → c.Allocated (d :: o :: e.2.2.2) →
      (((clsOf d = .vary ∧ (clsOf o = .vary ∨ clsOf o = .uni ∨ clsOf o = .aff) ∧ c.hit = 0) ∨
        (isS d = true ∧ clsOf o = .uni ∧ guardIsP c.mx = false ∧ c.act = c.live ∧ c.kOn = false)) → exec e.1 s = .next ((c.put c.w).irrevocable c.u))
      ∧ (c.NoOverflow o → c.Full (d :: o :: e.2.2.2) → ((clsOf d = .vary ∧ (clsOf o = .vary ∨ clsOf o = .uni ∨ clsOf o = .aff) ∧ c.hit ≠ 0 ∧
            c.Reaches .atomic needAtomic b 4 (threadsOf c.hit) (c.ea b o) loc) ∨
        (isS d = true ∧ clsOf o = .uni ∧ guardIsP c.mx = false ∧ c.act = c.live ∧ c.kOn = true ∧ c.Reaches .atomic needAtomic b 4 [0] (c.ea b o) loc)) →
      ∃ t, exec e.1 s = .next t ∧ (c.core.runWave c.u = false → (t.wave? c.u).map (·.pinned) = some true) ∧ Sent c t ([d].filterMap dstOf) (fun a =>
        a.op = .atomic e.2.1 ty (if modeORD c.mm ≤ 1 then modeAU c.mm else 0) ∧ a.dst = dstOf d ∧ a.scope = modeSC c.mm ∧
        a.acq = decide (modeORD c.mm = 2 ∨ modeORD c.mm = 4 ∨ modeORD c.mm = 5) ∧
        a.rel = decide (modeORD c.mm = 3 ∨ modeORD c.mm = 4 ∨ modeORD c.mm = 5) ∧ a.sc = decide (modeORD c.mm = 5) ∧
        a.threads = (if clsOf d = .vary then c.hit else c.act) ∧
        a.pieces = piecesAt (if clsOf d = .vary then threadsOf c.hit else [0]) (c.ea b o) loc 4 (fun t => (c.r.src x1 t).toNat)
          (fun t => if e.2.1 = .cas then (c.r.src x2 t).toNat else 0)))
      ∧ (clsOf d = .vary → (clsOf o = .vary ∨ clsOf o = .uni ∨ clsOf o = .aff) → c.hit ≠ 0 →
          (c.Overflows o → exec e.1 s = .next (c.trapped .afo 0)) ∧
          (∀ x t s2 mask, c.NoOverflow o → c.Full (o :: e.2.2.2) → c.Raises .atomic needAtomic b 4 (threadsOf c.hit) (c.ea b o) x t s2 mask →
            exec e.1 s = .next (c.refused x mask (c.ea b o t) s2)))
      ∧ (∀ x s2 mask, isS d = true → clsOf o = .uni → guardIsP c.mx = false → c.act = c.live → c.kOn = true → c.Full (o :: e.2.2.2) →
          c.Raises .atomic needAtomic b 4 [0] (c.ea b o) x 0 s2 mask → exec e.1 s = .next (c.refused x c.act (c.ea b o 0) s2))

/-- R44, R113, R115, R120, R137, R166, R168, R263, R275 to R278: accesses in flight are performed. A sector of a load that may be performed
leaves the access, and the last one fills its registers; a lone piece lands in its thread's lane, or in its s register, sign- or zero-extended,
from the core data cache where that holds it, else from memory. An access of an atomic lands the old value and stores the new one, as R276 to R278
give it. A store writes its pieces and no other byte; one with pieces for a peer is first on its way there. A walk that ends fills the range
caches. Where the manual leaves it open, this is the model's choice: log entries 4 (DESIGN CHOICE), 21 (DESIGN CHOICE), 22 (DEDUCED), 61
(DEDUCED). A peer that does not answer gives TRF, as stage 2, for the threads whose location is at its endpoint: log entry 51 (DEDUCED). -/
def Obligations.AccessesArePerformed : Prop :=
  ∀ (s : State) (u id k : Nat) (w : Wave) (a : Access), s.wave? u = some w → w.inflight.find? (fun y => decide (y.id = id)) = some a →
    let gone (w' : Wave) : Prop := ∀ y ∈ w'.inflight, y.id ≠ id
    let full (w' : Wave) : Prop := ∀ d, a.dst = some d → ∀ x, w'.st.regs.empty x = (w.st.regs.empty x && !(d.span a.nreg).contains x)
    let lands (w' : Wave) (p : Piece) (n : Nat) (word : Nat → Word) : Prop :=
      (∀ m : Fin 64, a.dst = some (.v n) → p.t < 32 → ∀ i : Fin 32, w'.st.regs.v[m][i] =
        if i.val = p.t ∧ n + p.word ≤ m.val ∧ m.val < n + p.word + (p.n + 3) / 4 then word (m.val - (n + p.word)) else w.st.regs.v[m][i]) ∧
      (∀ m : Fin 32, a.dst = some (.s n) → w'.st.regs.s[m] =
        if n + p.word ≤ m.val ∧ m.val < n + p.word + (p.n + 3) / 4 then word (m.val - (n + p.word)) else w.st.regs.s[m])
    (∀ sx nt, let ps := sectorPieces a.pieces k
      let rest := a.pieces.filter (fun p => !ps.contains p)
      a.op = .load sx nt → s.mayPerform u w a ps = true → ∃ t w', exec (.sectorReturn u id k) s = .next t ∧ t.wave? u = some w' ∧ t.mem = s.mem ∧
        (rest = [] → gone w' ∧ full w') ∧
        (rest ≠ [] → (∃ y ∈ w'.inflight, y.id = id ∧ y.pieces = rest) ∧ ∀ x, w'.st.regs.empty x = w.st.regs.empty x) ∧
        ∀ p n, ps = [p] → p.n ∈ [1, 2, 4, 8] → s.poisonAt p.n p.loc = none → ∃ (x : Nat) (word : Nat → Word),
          lands w' p n word ∧
          (∀ j i, i < 32 → (word j).getLsbD i = if 32 * j + i < 8 * p.n then x.testBit (32 * j + i) else sx && x.testBit (8 * p.n - 1)) ∧
          (p.got = none → s.racing (s.readerOf u w a p) p.loc p.n = false →
            (∀ y, p.cache = true → Map.find? (s.core w.core).dcache (p.loc / 32) = some y →
              x = leNat ((List.range p.n).map (fun i => y.extractLsb' (8 * ((p.loc + i) % 32)) 8))) ∧
            ((p.cache = false ∨ Map.find? (s.core w.core).dcache (p.loc / 32) = none) → p.loc + p.n ≤ hbmBytes → x = leNat (s.mem.bytes p.loc p.n))))
    ∧ (∀ op ty use p, a.op = .atomic op ty use → op ≠ .write → use ≠ 4 → a.pieces[k]? = some p → s.mayPerform u w a [p] = true →
        s.poisonAt p.n p.loc = none → isAperture p.loc = false → p.n = 4 → p.word = 0 → p.got = none → p.data < 2 ^ 32 → p.data2 < 2 ^ 32 →
        s.racing (s.readerOf u w a p) p.loc p.n = false →
        let old := leNat (s.mem.bytes p.loc 4)
        let x := BitVec.ofNat 32 old
        let y := BitVec.ofNat 32 p.data
        ∃ t w' z, exec (.sectorReturn u id k) s = .next t ∧ t.wave? u = some w' ∧ (∀ n, lands w' p n (fun _ => x)) ∧
          (a.pieces.length = 1 → gone w' ∧ full w') ∧
          t.mem = (if op = .read ∨ op = .cas ∧ old ≠ p.data then s.mem else s.mem.writeBytes p.loc (natLe 4 z)) ∧
          (op = .xchg → z = p.data) ∧ (op = .cas → z = p.data2) ∧ (op = .inc → z = if old ≥ p.data then 0 else old + 1) ∧
          (op = .and → z = (x &&& y).toNat) ∧ (op = .or → z = (x ||| y).toNat) ∧ (op = .xor → z = (x ^^^ y).toNat) ∧
          (∀ n sg, IntType ty n sg → ∀ j, j < 32 / n →
            let o := elem n sg x j
            let v := elem n sg y j
            let r := elem n sg (BitVec.ofNat 32 z) j
            (op = .add → (r - (o + v)) % (2 ^ n : Nat) = 0) ∧ (op = .min → r = min o v) ∧ (op = .max → r = max o v)) ∧
          (op = .fadd → ty = 2 → z = f32.round 0 0 ((f32.val old).add 0 (f32.val p.data))) ∧
          (op = .fadd → ty = 6 → z = bf16.round 0 0 ((bf16.val (old % 65536)).add 0 (bf16.val (p.data % 65536)))
            + 65536 * bf16.round 0 0 ((bf16.val (old / 65536)).add 0 (bf16.val (p.data / 65536)))))
    ∧ ((∃ nt, a.op = .store nt) ∨ (∃ ty use, a.op = .atomic .write ty use) → s.mayPerform u w a a.pieces = true →
        (∀ p ∈ a.pieces, isAperture p.loc = false) →
        ((a.isStore = false ∨ a.sent.isSome = true ∨ ∀ p ∈ a.pieces, isPeer p.loc = false) → ∃ t w', exec (.storePerformed u id) s = .next t ∧
          t.wave? u = some w' ∧ gone w' ∧ t.mem = a.pieces.foldl (fun m p => m.writeBytes p.loc (natLe p.n p.data)) s.mem ∧
          ∀ x, (∀ p ∈ a.pieces, ¬ (p.loc ≤ x ∧ x < p.loc + p.n)) → t.mem.read x = s.mem.read x) ∧
        (a.isStore = true → a.sent = none → (∃ p ∈ a.pieces, isPeer p.loc = true) → ∃ t w', exec (.storePerformed u id) s = .next t ∧
          t.wave? u = some w' ∧ (∃ y ∈ w'.inflight, y.id = id ∧ y.sent = some s.sends ∧ y.pieces = a.pieces.filter (fun p => isPeer p.loc)) ∧
          t.mem = (a.pieces.filter (fun p => !isPeer p.loc)).foldl (fun m p => m.writeBytes p.loc (natLe p.n p.data)) s.mem))
    ∧ (∀ cl i wk, ((s.cluster cl).walks.take 32)[i]? = some wk → ∃ t, exec (.rangeWalkComplete cl i) s = .next t ∧
        (t.cluster cl).walks = (s.cluster cl).walks.eraseIdx i ∧ ∀ c ∈ wk.cores, (t.core c).rc.head? = some wk.ent)
    ∧ (∀ p, (a.pieces.find? (fun p => s.deafAt p.loc)).or (a.pieces.find? (fun p => isPeer p.loc)) = some p → w.hidden = none → (∀ tr, w.st.trap = some tr → tr.running = true) →
        ∃ t w', exec (.unreachable u id) s = .next t ∧ t.events = .unreachable p.loc :: s.events ∧ t.wave? u = some w' ∧ gone w' ∧
          (w.st.finished a.lead = false → (w'.st.trcause.extractLsb' 0 8).toNat = 0x10 ∧ w'.st.trcause.getLsbD 29 = true ∧
            (a.uni = true → w'.st.trmask = a.threads) ∧
            (a.uni = false → ∀ j, j < 32 → (w'.st.trmask.getLsbD j = true ↔
              ∃ y ∈ a.pieces, y.t = j ∧ isPeer y.loc = true ∧ y.loc / 2 ^ 42 = p.loc / 2 ^ 42))))

/-! ### Batches, handles, the baton and the matrix engine -/

/-- R142, R147, R150 to R152, R167, R290, R312, R385: `cq.post`, a release, waits for the earlier accesses of its threads but non-ordering atomics, and not below
`.fab` for a store on its way to a peer, and while the ports carry no request to a queue at a peer (log entry 58, DESIGN CHOICE); it claims a slot, writes the packet and counts it in the open batch, or writes 0 to kD; `bat.close` writes OPEN to sD and opens the next batch; `wait.bat` passes a complete batch and waits for another. Where the manual
leaves it open, this is the model's choice: log entries 20 (DESIGN CHOICE), 32 (DESIGN CHOICE). -/
def Obligations.PostsAndBatches : Prop :=
  ∀ (s : State) (c : Ctx) (kd : Fin 4) (q : Operand) (f n : Fin 32), Issues s c → guardReserved c.mx = false → guardIsP c.mx = false →
    c.kOn = true →
    let st := c.w.st
    let post : Instr := .cqPost kd q f
    let num := (c.r.uni q).toNat
    let sc := max (modeSC c.mm) 2
    let drained : Prop := ∀ a ∈ c.w.inflight, a.threads &&& c.act = 0 ∨ a.nonOrdering = true ∨ (a.sent.isSome = true ∧ sc ≠ 4)
    (clsOf q = .uni → c.Allowed post false [q] → modemReserved c.mm = false → c.act = c.live → c.Full (q :: regSpan (.s f) 16) →
      (Map.find? s.copyQs num = none → exec post s = .next (c.trapped .pmf 0)) ∧
      (∀ x, Map.find? s.copyQs num = some x → num < 4096 → x.owner = s.partOfWave c.w →
        (x.st ≠ .run ∨ st.openCnt ≥ 65535 → ∃ t w', exec post s = .next t ∧ t.wave? c.u = some w' ∧ (kd ≠ 3 → w'.st.regs.kpred kd.val = false) ∧ w'.posted = c.w.posted ∧
          w'.st.openCnt = st.openCnt ∧ t.mem = s.mem ∧ Moved c w') ∧
        (x.st = .run → st.openCnt < 65535 → ¬ drained → exec post s = .next (s.block c.u c.sl .stall)) ∧
        (x.st = .run → st.openCnt < 65535 → drained → s.spansAway [(x.hdr, 128), (x.slot (s.widx x), 64)] = true →
          exec post s = .next (s.block c.u c.sl .stall)) ∧
        (x.st = .run → st.openCnt < 65535 → drained → s.spansAway [(x.hdr, 128), (x.slot (s.widx x), 64)] = false →
          s.portOk (clusterOf c.w.core) x.hdr = true → s.portOk (clusterOf c.w.core) (x.slot (s.widx x)) = true →
          (s.widx x - BitVec.ofNat 32 (s.mem.readN (x.hdr + 64) 4)).toNat ≥ x.size →
          ∃ t w', exec post s = .next t ∧ t.wave? c.u = some w' ∧ (kd ≠ 3 → w'.st.regs.kpred kd.val = false) ∧ w'.posted = c.w.posted ∧
            t.mem = s.mem ∧ Moved c w') ∧
        (x.st = .run → st.openCnt < 65535 → drained → s.spansAway [(x.hdr, 128), (x.slot (s.widx x), 64)] = false →
          s.portOk (clusterOf c.w.core) x.hdr = true → s.portOk (clusterOf c.w.core) (x.slot (s.widx x)) = true →
          isAperture x.hdr = false → isAperture (x.slot (s.widx x)) = false →
          (s.widx x - BitVec.ofNat 32 (s.mem.readN (x.hdr + 64) 4)).toNat < x.size →
          ∃ t w', exec post s = .next t ∧ t.wave? c.u = some w' ∧ w'.st.regs.kpred kd.val = true ∧ w'.st.openCnt = st.openCnt + 1 ∧ Moved c w' ∧
            (w'.posted.map (fun p => (p.q, p.idx, p.reg, p.batch, p.scope))) =
              c.w.posted.map (fun p => (p.q, p.idx, p.reg, p.batch, p.scope)) ++ [(num, s.widx x, x.reg, st.opn, sc)] ∧
            t.mem = (s.mem.writeBytes x.hdr (natLe 4 (s.widx x + 1).toNat)).writeBytes (x.slot (s.widx x)) (c.postBytes f.val sc))))
    ∧ (c.Allowed (.batClose (.s n)) false [.s n] → c.act = c.live → c.Full [.s n] → (st.opn - st.dne).toNat < 32767 →
        ∃ w', exec (.batClose (.s n)) s = .next (c.put w') ∧ w'.st.regs.s[n] = st.opn.zeroExtend 32 ∧ w'.st.opn = st.opn + 1 ∧ w'.st.openCnt = 0 ∧
          w'.posted = c.w.posted ∧ Kept c.r w'.st.regs [.s n] ∧ (c.w.posted = [] → w'.st.dne = st.opn))
    ∧ (clsOf q = .uni → c.Allowed (.waitBat q) false [q] → c.Full [q] →
        let b0 : BitVec 16 := (c.r.uni q).extractLsb' 0 16
        let b := if (b0 - st.opn).toNat < 32768 then st.opn - 1 else b0
        ((st.dne - b).toNat < 32768 → ∃ t w', exec (.waitBat q) s = .next t ∧ t.wave? c.u = some w' ∧ Moved c w' ∧ w'.st.regs = c.r ∧
          t.mem = s.mem ∧ (c.w.core < 512 → ∀ e ∈ c.w.done, (b - BitVec.ofNat 16 e.batch).toNat < 32768 → e.scope ≥ 2 → (t.core c.w.core).dcache = [])) ∧
        (¬ (st.dne - b).toNat < 32768 → exec (.waitBat q) s = .next (s.block c.u c.sl .stall)))

/-- R153, R323 to R327, R159, R300, R301: the buffer table. `hb.fill` takes a free handle, `hb.acq` a full one, each waiting otherwise; `hb.rel`
frees a handle that the wave drains, or one in filling that lost its owner and that no FILL names, or gives it to the oldest `hb.fill` that waits,
and raises HBF for any other; `hb.state` reads an entry; `hb.cfg` configures a free handle and raises HBF for another. Each raises HBF for a
number above 31 and for a handle of another core group, and but for the last two for one without. A false k guard lets each move on with no effect.
`bton.take` and `bton.pass`, which have no guard, hand the baton on in order. Where the manual leaves it open, this is the model's choice: that
`hb.rel` waits at issue for the wave's accesses is log entry 20 (DESIGN CHOICE). -/
def Obligations.HandlesAndBaton : Prop :=
  ∀ (s : State) (c : Ctx) (a b : Operand) (n : Fin 32), Issues s c →
    let h := (c.r.uni a).toNat
    let x := c.core.handle h
    let core := c.w.core
    let guarded : Prop := guardReserved c.mx = false ∧ guardIsP c.mx = false
    let hbf : DWord := (c.r.uni a).zeroExtend 64
    (guarded → c.kOn = false → clsOf a = .uni → clsOf b = .uni →
      (∀ i ∈ [Instr.hbFill a, .hbAcq a, .hbRel a], c.Allowed i false [a] → exec i s = .next (c.put c.w)) ∧
      (c.Allowed (.hbState (.s n) a) false [.s n, a] → c.act = c.live → exec (.hbState (.s n) a) s = .next (c.put c.w)) ∧
      (c.Allowed (.hbCfg a b) false [a, b] → exec (.hbCfg a b) s = .next (c.put c.w)))
    ∧ (guarded → c.kOn = true → clsOf a = .uni → c.Full [a] → h < 32 → x.grp = some c.w.group →
      (c.Allowed (.hbFill a) false [a] →
        (x.st = .free → ∃ t w', exec (.hbFill a) s = .next t ∧ (t.core core).handle h = { x with st := .filling, owner := some c.u } ∧
          t.wave? c.u = some w' ∧ Moved c w') ∧
        (x.st ≠ .free → ∃ t, exec (.hbFill a) s = .next t ∧ (t.core core).handle h = { x with waiters := x.waiters ++ [(c.u, c.sl, true)] } ∧
          t.waves = (s.block c.u c.sl (.handle h)).waves)) ∧
      (c.Allowed (.hbAcq a) false [a] →
        (x.st = .full → ∃ t w', exec (.hbAcq a) s = .next t ∧ (t.core core).handle h = { x with st := .draining, owner := some c.u } ∧
          t.wave? c.u = some w' ∧ Moved c w') ∧
        (x.st ≠ .full → ∃ t, exec (.hbAcq a) s = .next t ∧ (t.core core).handle h = { x with waiters := x.waiters ++ [(c.u, c.sl, false)] } ∧
          t.waves = (s.block c.u c.sl (.handle h)).waves)) ∧
      (c.Allowed (.hbRel a) false [a] →
        let may : Prop := x.st = .draining ∧ x.owner = some c.u ∨ x.st = .filling ∧ x.owner = none ∧ x.fills = 0
        let drained : Prop := ∀ y ∈ c.w.inflight, y.threads = 0 ∨ y.nonOrdering = true ∨ y.sent.isSome = true
        (may → drained → ∃ t evs, exec (.hbRel a) s = .next t ∧ (∀ e ∈ c.passes, e ∈ evs) ∧
          (t.core core).handle h = match popWaiter true x.waiters with
            | (some e, r) => { x with st := .filling, owner := some e.1, waiters := r, evs := evs }
            | (none, _) => { x with st := .free, owner := none, evs := evs }) ∧
        (may → ¬ drained → exec (.hbRel a) s = .next (s.block c.u c.sl .stall)) ∧
        (¬ may → exec (.hbRel a) s = .next (c.trapped .hbf hbf))))
    ∧ (guarded → c.kOn = true → clsOf a = .uni → clsOf b = .uni → c.Full [a] →
        (h ≥ 32 ∨ x.grp ≠ some c.w.group → ∀ i ∈ [Instr.hbFill a, .hbAcq a, .hbRel a], c.Allowed i false [a] → exec i s = .next (c.trapped .hbf hbf)) ∧
        (h ≥ 32 ∨ (∃ g, x.grp = some g ∧ g ≠ c.w.group) →
          (c.Allowed (.hbState (.s n) a) false [.s n, a] → c.act = c.live → exec (.hbState (.s n) a) s = .next (c.trapped .hbf hbf)) ∧
          (c.Allowed (.hbCfg a b) false [a, b] → c.Full [b] → exec (.hbCfg a b) s = .next (c.trapped .hbf hbf))))
    ∧ (guarded → c.kOn = true → clsOf a = .uni → c.Full [a] → h < 32 → (x.grp = some c.w.group ∨ x.grp = none) →
        c.Allowed (.hbState (.s n) a) false [.s n, a] → c.act = c.live → c.Full [.s n] →
        (∀ u y, x.owner = some u → s.wave? u = some y → y.quad < 4 ∧ y.slot < 16) →
        ∃ v, exec (.hbState (.s n) a) s = .next (c.put (c.w.putS n.val v)) ∧ v.getLsbD 31 = x.sp ∧ v.extractLsb' 21 10 = x.off ∧
          v.extractLsb' 11 10 = x.szm1 ∧ v.getLsbD 3 = decide (x.fills ≠ 0) ∧
          (x.owner = none → v.extractLsb' 4 7 = 0) ∧
          (∀ u y, x.owner = some u → s.wave? u = some y →
            v.getLsbD 10 = true ∧ (v.extractLsb' 8 2).toNat = y.quad ∧ (v.extractLsb' 4 4).toNat = y.slot) ∧
          (v.extractLsb' 0 3).toNat = (match x.st with
            | .free => 0
            | .filling => 1
            | .full => 2
            | .draining => 3))
    ∧ (guarded → c.kOn = true → clsOf a = .uni → clsOf b = .uni → c.Full [a, b] → h < 32 → (x.grp = some c.w.group ∨ x.grp = none) →
        c.Allowed (.hbCfg a b) false [a, b] →
        let v := c.r.uni b
        let bytes := 256 * ((v.extractLsb' 11 10).toNat + 1)
        (x.st = .free → v.extractLsb' 0 11 = 0 →
          (∃ g, s.group? c.w.group = some g ∧ inAlloc g (if v.getLsbD 31 then 2 else 1) (256 * (v.extractLsb' 21 10).toNat) bytes = true) →
          ∃ t, exec (.hbCfg a b) s = .next t ∧ (t.core core).handle h =
            { x with sp := v.getLsbD 31, off := v.extractLsb' 21 10, szm1 := v.extractLsb' 11 10, grp := some c.w.group }) ∧
        (x.st ≠ .free ∨ v.extractLsb' 0 11 ≠ 0 → exec (.hbCfg a b) s = .next (c.trapped .hbf hbf)))
    ∧ (c.w.tp = none → (c.w.st.inHandler = true → c.w.st.scopeSlices = c.w.st.unfinished) →
        (c.w.st.fullMember c.sl = false → ∀ i ∈ [Instr.btonTake, .btonPass], exec i s = .next (c.trapped .mbf 0)) ∧
        (c.w.st.fullMember c.sl = true →
          (c.core.baton = some c.u → exec .btonTake s = .next (c.put c.w)) ∧
          (c.core.baton = none → ∃ t, exec .btonTake s = .next t ∧ (t.core core).baton = some c.u ∧ t.waves = (c.put c.w).waves) ∧
          (∀ v, c.core.baton = some v → v ≠ c.u → ∃ t, exec .btonTake s = .next t ∧ (t.core core).batonQ = c.core.batonQ ++ [(c.u, c.sl)] ∧
            (t.core core).baton = some v ∧ t.waves = (s.block c.u c.sl .baton).waves) ∧
          (c.core.baton = some c.u → ∃ t, exec .btonPass s = .next t ∧ (t.core core).baton = c.core.batonQ.head?.map (·.1) ∧
            (t.core core).batonQ = c.core.batonQ.tail) ∧
          (c.core.baton ≠ some c.u → exec .btonPass s = .next (c.trapped .btf 0))))

/-- R155, R160, R162, R163, R169, R342, R344 to R346: the holder of the baton queues work for the matrix engine: an `mma` with a draining A
handle, a tile and a bank of its core group, behind a load of its bank when the image will hold another; `mzero`, `mnorm`, which empties sD, and
`mwsel`. Without the baton each raises BTF, and a full queue lets each wait. `mwait` and `fence` of kind engines wait for the wave's operations,
and its threads are ordered after those from then on; `mfence` waits for the wave's stores to A and its registers; after `mfence`, and the fence from
`.core` on, what happens before it, and what that fence acquires of packets and of the engine, is ordered before the wave's later words, whose operands are undefined by any other write to A. Where the manual
leaves it open, this is the model's choice: log entries 20 (DESIGN CHOICE: the fence waits at issue), 23 (DEDUCED), 24 (DEDUCED). -/
def Obligations.EngineInstructions : Prop :=
  ∀ (s : State) (c : Ctx) (ch h : Fin 32) (bank : Fin 4) (v : Fin 64) (sel rows : Fin 4) (acc : Bool) (a : Operand) (n : Fin 32) (sc : Fin 8),
    Issues s c → (c.w.st.inHandler = true → c.w.st.scopeSlices = c.w.st.unfinished) →
    let k := c.core
    let st := c.w.st
    let grp := c.w.group
    let queued (t : State) (ops : List (EngKind × List Word)) : Prop := t.mem = s.mem ∧
      ((t.core c.w.core).eng.map (fun o => (o.kind, o.scale))) = k.eng.map (fun o => (o.kind, o.scale)) ++ ops ∧
      ∀ o ∈ (t.core c.w.core).eng.drop k.eng.length, o.wave = c.u ∧ o.grp = grp ∧ o.started = false
    let ordered (w' : Wave) (acquired : Nat → Prop) : Prop := w'.st.mfenceAt = c.w.nextAcc ∧
      ∀ e, e ∈ w'.st.mfenceSeen ↔ e ∈ c.passes ∨ acquired e
    let learns (w' : Wave) : Prop := ∀ x ∈ k.unsync, x.2.1 = c.u → ∀ th, c.act.getLsbD th = true →
      ∃ y ∈ w'.st.seen, y.ev = x.2.2 ∧ y.since ≤ w'.nextAcc ∧ y.ts.getLsbD th = true
    (∀ e ∈ [(Instr.mmaBi8 ch h bank v sel rows acc, 0), (.mmaBi4 ch h bank v sel rows acc, 1), (.mmaI8w ch h bank v sel rows acc, 2)],
      c.Allowed e.1 false [.v v] → c.Allocated [.v v] → c.w.st.ganged c.sl = true → c.live = BitVec.allOnes 32 → c.act = BitVec.allOnes 32 →
      c.Full [.v v] →
      let x := k.handle h.val
      let len := rowsOf rows.val * (if e.2 = 1 then 128 else 256)
      let ready : Prop := k.baton = some c.u ∧ x.st = .draining ∧ x.owner = some c.u ∧ x.grp = some grp ∧ x.sp = true ∧
        len ≤ 256 * (x.szm1.toNat + 1) ∧ s.bankOk grp bank.val = true ∧ s.tileOk grp ch.val = true
      (k.baton ≠ some c.u → exec e.1 s = .next (c.trapped .btf 0)) ∧
      (ready → k.engCount ≥ 8 → exec e.1 s = .next (s.block c.u c.sl .stall)) ∧
      (ready → k.engCount < 8 → ∃ t w', exec e.1 s = .next t ∧ t.wave? c.u = some w' ∧ Moved c w' ∧ w'.st.regs = c.r ∧
          queued t ((if k.bankAhead = some bank.val then [] else [(.load bank.val false, [])]) ++
            [(.word e.2 ch.val h.val bank.val sel.val (rowsOf rows.val) acc v.val, (List.range 32).map (fun t => c.r.src (.v v) t))]) ∧
          ∀ o ∈ (t.core c.w.core).eng.drop k.eng.length, o.kind.isLoad = false → o.aLoc = locA c.w.core + 256 * x.off.toNat ∧ o.aLen = len ∧
            (o.taint = false ↔ ∀ e ∈ s.evs, isA e.loc = true → overlap (locA c.w.core + 256 * x.off.toNat) len e.loc e.n = true →
              (e.src = some c.u ∧ e.acc < st.mfenceAt) ∨ e.id ∈ st.mfenceSeen)))
    ∧ (clsOf a = .uni → c.w.st.fullMember c.sl = true → c.Full [a] →
        let i := (c.r.uni a).toNat
        (k.baton ≠ some c.u →
          (c.Allowed (.mzero a) false [a] → exec (.mzero a) s = .next (c.trapped .btf 0)) ∧
          (c.Allowed (.mnorm (.s n) a) false [.s n, a] → exec (.mnorm (.s n) a) s = .next (c.trapped .btf 0)) ∧
          (c.Allowed (.mwsel a) false [a] → exec (.mwsel a) s = .next (c.trapped .btf 0))) ∧
        (k.baton = some c.u → k.engCount < 8 →
          (c.Allowed (.mzero a) false [a] → i < 32 → s.tileOk grp i = true →
            ∃ t, exec (.mzero a) s = .next t ∧ t.waves = (c.put c.w).waves ∧ queued t [(.zero i, [])]) ∧
          (c.Allowed (.mnorm (.s n) a) false [.s n, a] → i < 32 → s.tileOk grp i = true → c.Full [.s n] →
            ∃ t w', exec (.mnorm (.s n) a) s = .next t ∧ t.wave? c.u = some w' ∧ Moved c w' ∧
              w'.st.regs.sEmpty = c.r.sEmpty ||| (1#32 <<< n.val) ∧ w'.st.regs.s = c.r.s ∧ queued t [(.norm i n.val, [])]) ∧
          (c.Allowed (.mwsel a) false [a] → s.bankOk grp (i % 4) = true →
            ∃ t, exec (.mwsel a) s = .next t ∧ t.waves = (c.put c.w).waves ∧ queued t [(.load (i % 4) true, [])])) ∧
        (k.baton = some c.u → k.engCount ≥ 8 →
          (c.Allowed (.mzero a) false [a] → i < 32 → s.tileOk grp i = true → exec (.mzero a) s = .next (s.block c.u c.sl .stall)) ∧
          (c.Allowed (.mnorm (.s n) a) false [.s n, a] → i < 32 → s.tileOk grp i = true → c.Full [.s n] →
            exec (.mnorm (.s n) a) s = .next (s.block c.u c.sl .stall)) ∧
          (c.Allowed (.mwsel a) false [a] → s.bankOk grp (i % 4) = true → exec (.mwsel a) s = .next (s.block c.u c.sl .stall))))
    ∧ (c.w.tp = none →
        ((∃ o ∈ k.eng, o.wave = c.u) → exec .mwait s = .next (s.block c.u c.sl .stall)) ∧
        ((∀ o ∈ k.eng, o.wave ≠ c.u) → ∃ t w', exec .mwait s = .next t ∧ t.wave? c.u = some w' ∧ Moved c w' ∧ w'.st.regs = c.r ∧
          t.mem = s.mem ∧ learns w') ∧
        (((∃ y ∈ c.w.inflight, y.storesA = true) ∨ c.r.allFull = false) → exec .mfence s = .next (s.block c.u c.sl .stall)) ∧
        ((∀ y ∈ c.w.inflight, y.storesA = false) → c.r.allFull = true → ∃ w', exec .mfence s = .next (c.put w') ∧ ordered w' (fun _ => False) ∧
          w' = { c.w with st := { st with mfenceAt := w'.st.mfenceAt, mfenceSeen := w'.st.mfenceSeen } }) ∧
        ((Instr.fenceEngines sc).wf = true → (∀ o ∈ k.eng, o.wave ≠ c.u) → c.w.posted = [] →
          (∀ y ∈ c.w.inflight, y.threads = 0 ∨ y.nonOrdering = true ∨ (y.sent.isSome = true ∧ sc.val ≠ 4)) → ∃ t w', exec (.fenceEngines sc) s = .next t ∧
          t.wave? c.u = some w' ∧ Moved c w' ∧ w'.st.regs = c.r ∧ (sc.val ≥ 1 → learns w' ∧ ordered w' (fun e => (∃ x ∈ k.unsync, x.2.1 = c.u ∧ x.2.2 = e) ∨
            ∃ d ∈ c.w.done, inclusive (c.w.place c.u) sc.val d.who (max d.scope 2) = true ∧ e ∈ d.evs)) ∧ t.mem = s.mem ∧
          (c.w.core < 512 → sc.val ≥ 2 → (t.core c.w.core).dcache = [])) ∧
        ((Instr.fenceEngines sc).wf = true → ((∃ o ∈ k.eng, o.wave = c.u) ∨ c.w.posted ≠ [] ∨
          ∃ y ∈ c.w.inflight, y.threads ≠ 0 ∧ y.nonOrdering = false ∧ (y.sent = none ∨ sc.val = 4)) → exec (.fenceEngines sc) s = .next (s.block c.u c.sl .stall)))

/-- R97, R98, R99: the accumulation of one block, which the engine applies. Contributions at the tile's own exponent that overflow no mantissa add
exactly and leave E. In general the tile is halved, rounding half to even, as often as some contribution would reach 2^47 and no oftener, E
rising with it, and every mantissa grows by its contribution aligned to E; an empty tile takes the least of the natural exponents, and a block in
which no element has one leaves it empty. -/
def Obligations.BlocksAddExactly : Prop :=
  (∀ (cs : List Contrib) (ms : List Int) (e : Int),
    (∀ x ∈ cs, x.n = some e ∧ x.at_ < ms.length ∧ (ms.getD x.at_ 0).natAbs + x.b.natAbs < 2 ^ 47) →
    (accBlock cs (ms, some e)).2 = some e ∧ (accBlock cs (ms, some e)).1.length = ms.length ∧
      ∀ i, i < ms.length → (accBlock cs (ms, some e)).1.getD i 0 = ms.getD i 0 + ((cs.filter (fun x => x.at_ == i)).map (·.b)).sum)
  ∧ (∀ (cs : List Contrib) (ms : List Int) (e : Int), -32768 ≤ e → (∀ m ∈ ms, m.natAbs < 2 ^ 47) → (cs.map (·.at_)).Nodup →
    (∀ x ∈ cs, x.at_ < ms.length ∧ x.b.natAbs < 2 ^ 32 ∧ (x.n = none → x.b = 0) ∧ ∀ n, x.n = some n → -266 ≤ n ∧ n ≤ 256) →
    let meets (k : Nat) (x : Contrib) : Prop := Reaches47 (halved (ms.getD x.at_ 0) k) x.b (x.n.getD (e + k)) (e + k)
    ∃ k : Nat, (∀ x ∈ cs, ¬ meets k x) ∧ (∀ j, j < k → ∃ x ∈ cs, meets j x) ∧
      (accBlock cs (ms, some e)).2 = some (e + k) ∧ (accBlock cs (ms, some e)).1.length = ms.length ∧
      ∀ i, i < ms.length →
        ((∀ x ∈ cs, x.at_ ≠ i) → (accBlock cs (ms, some e)).1.getD i 0 = halved (ms.getD i 0) k) ∧
        (∀ x ∈ cs, x.at_ = i → ∃ r, Aligned x.b (x.n.getD (e + k) - (e + k)) r ∧
          (accBlock cs (ms, some e)).1.getD i 0 = halved (ms.getD i 0) k + r))
  ∧ (∀ (cs : List Contrib) (ms : List Int), ((∀ x ∈ cs, x.n = none) → accBlock cs (ms, none) = (ms, none)) ∧
      ∀ e, (∃ x ∈ cs, x.n = some e) → (∀ x ∈ cs, ∀ n, x.n = some n → e ≤ n) → accBlock cs (ms, none) = accBlock cs (ms, some e))

/-- R155, R157, R160 to R162, R164, R98 to R100: the engine's queue goes on. A bank load starts when no word ahead of it has still to compute, and
puts cells and scale row into the image; the words of a loaded bank start, one a half; a word that completes applies its four blocks to its tile,
or to a zeroed one, then the loop that ends a word, sets Q for a scale of 0xFF, tags the tile and leaves the queue; `mzero` zeroes 8,192 slots and
empties E; `mnorm` ends with the largest mantissas below 2^46 and, doubling, not below 2^45 in vain, and writes E and Q to sD and fills it. While the
clocks of its column stand still (R220) nothing of this happens. Where the manual leaves it open, this is the model's choice: log entry 24
(DEDUCED). -/
def Obligations.EngineCompletes : Prop :=
  ∀ (s : State) (core : Nat) (o : EngOp) (r : List EngOp),
    let k := s.core core
    let tile (t : State) (c : Nat) : List Int := t.tile core c
    let clocks : Prop := (s.col (core / 4)).stopped = false
    (¬ clocks → ∀ i ∈ [Instr.bankLoadStart core, .bankLoadComplete core, .mmaWordComplete core, .mzeroComplete core, .mnormComplete core],
      exec i s = .next s)
    ∧ (∀ half, ¬ clocks → exec (.mmaWordStart core half) s = .next s)
    ∧ (∀ ws b sel, clocks → k.eng = ws ++ o :: r → (∀ x ∈ ws, x.kind.isLoad = false ∧ (x.kind.half? = none ∨ (x.started = true ∧ x.computed = true))) →
      o.kind = .load b sel → o.started = false →
      ∃ t, exec (.bankLoadStart core) s = .next t ∧ (t.core core).eng = ws ++ { o with started := true } :: r ∧ t.mem = s.mem)
    ∧ (clocks → k.eng = o :: r →
      (∀ b sel, o.kind = .load b sel → b < 4 → o.started = true → k.imgTaint = [] → ∃ t, exec (.bankLoadComplete core) s = .next t ∧
        (t.core core).eng = r ∧ (t.core core).image = some b ∧
        (∀ i, i < 65536 → t.mem.read (locImg core + i) = s.mem.read (locW core + 65536 * b + i)) ∧
        (∀ i, i < 2048 → t.mem.read (locImg core + 65536 + i) = s.mem.read (locW core + 0x40000 + 2048 * b + i)) ∧
        ∀ l, (l < locImg core ∨ locImg core + 67584 ≤ l) → t.mem.read l = s.mem.read l)
      ∧ (∀ kind c h b sel rows acc v, o.kind = .word kind c h b sel rows acc v →
        (k.image = some b → o.started = false → (∀ x ∈ k.eng, x.started = true → x.computed = false → ∀ y, x.kind.half? = some y → y.1 ≠ sel) →
          ∃ t, exec (.mmaWordStart core sel) s = .next t ∧ (t.core core).eng = { o with started := true } :: r) ∧
        (o.started = true → rows ≤ 32 → ∃ t, exec (.mmaWordComplete core) s = .next t ∧ (t.core core).eng = r ∧
          (∀ i, i < 32 → Map.find? (t.core core).tags (4 * c + i) = some c) ∧
          (∀ l, (l < locC core + 6144 * c ∨ locC core + 6144 * c + 49152 ≤ l) → t.mem.read l = s.mem.read l) ∧
          (sel < 2 → o.aLen = rows * (if kind = 1 then 128 else 256) → o.scale.length = 32 → o.taint = false → s.poison = [] →
            (∀ w, s.wave? o.wave = some w → ∀ x ∈ w.watch, x.id = o.id → x.hit = false) → (∀ e, Map.find? k.ce c = some e → -32768 ≤ e) →
            let a (i : Nat) : Nat := (s.mem.read (o.aLoc + i)).toNat
            let img (i : Nat) : Nat := (s.mem.read (locImg core + i)).toNat
            let ea (g i : Nat) : Nat := (o.scale.getD i 0).toNat / 256 ^ g % 256
            ∃ cs : Nat → List Contrib, (∀ g, g < 4 → IsBlock kind rows (4 * sel + g) a img (ea g) (cs g)) ∧
              let start := if acc then (tile s c, Map.find? k.ce c) else (List.replicate 8192 0, none)
              let q := (List.range 4).foldl (fun t g => accBlock (cs g) t) start
              (q.2 = none → tile t c = q.1 ∧ Map.find? (t.core core).ce c = none) ∧
              (∀ e, q.2 = some e → ∃ e', FinalLoop q.1 e (tile t c) e' ∧ Map.find? (t.core core).ce c = some e') ∧
              ((t.core core).cq.contains c = true ↔ (∃ g x, g < 4 ∧ x ∈ cs g ∧ x.n = none) ∨ acc = true ∧ k.cq.contains c = true))))
      ∧ (∀ c, o.kind = .zero c → ∃ t, exec (.mzeroComplete core) s = .next t ∧ (t.core core).eng = r ∧ Map.find? (t.core core).ce c = none ∧
          (t.core core).cq.contains c = false ∧ (∀ i, i < 32 → Map.find? (t.core core).tags (4 * c + i) = some c) ∧
          (∀ i, i < 49152 → t.mem.read (locC core + 6144 * c + i) = 0) ∧
          ∀ l, (l < locC core + 6144 * c ∨ locC core + 6144 * c + 49152 ≤ l) → t.mem.read l = s.mem.read l)
      ∧ (∀ c (n : Fin 32) w, o.kind = .norm c n.val → s.wave? o.wave = some w → ∃ t w', exec (.mnormComplete core) s = .next t ∧
          (t.core core).eng = r ∧ t.wave? o.wave = some w' ∧ w'.st.regs.sEmpty.getLsbD n.val = false ∧
          w'.st.regs.s[n].extractLsb' 0 16 = BitVec.ofInt 16 ((Map.find? (t.core core).ce c).getD (-32768)) ∧
          w'.st.regs.s[n].getLsbD 16 = k.cq.contains c ∧ w'.st.regs.s[n].extractLsb' 17 15 = 0 ∧
          (Map.find? k.ce c = none → tile t c = tile s c ∧ Map.find? (t.core core).ce c = none) ∧
          (∀ e, Map.find? k.ce c = some e → ∃ (m : List Int) (e1 : Int) (j : Nat), FinalLoop (tile s c) e m e1 ∧
            tile t c = m.map (fun (x : Int) => x * (2 ^ j : Nat)) ∧
            let doubles (i : Nat) : Prop := (∃ x ∈ m, x ≠ 0) ∧ (∀ x ∈ m, x.natAbs * 2 ^ i < 2 ^ 45) ∧ e1 - i > -32767
            (∀ i, i < j → doubles i) ∧ ¬ doubles j ∧
            ((∀ x ∈ m, x = 0) → Map.find? (t.core core).ce c = none) ∧ ((∃ x ∈ m, x ≠ 0) → Map.find? (t.core core).ce c = some (e1 - j)))))

/-! ### Barriers, fences, regions and balance -/

/-- R42, R232, R283 to R289, R241: the five barrier instructions. `bar.init` takes part of the live waves of the core group; `bar.arrive` counts an
arrival and, as the last, starts the next phase and releases every waiter; `bar.wait` passes when the wave has not arrived in this phase
and waits when it has; `bar.sync` does both; `bar.inval`, which reads no mask, invalidates. A barrier of another core group, or one that is waited
at, raises BRI for `bar.init` and `bar.inval`, and a wrong barrier, or an arrival where the wave has arrived, for the others; a poisoned one raises
MBF, and a mask that disagrees poisons it; `bar.init` without full live membership raises MBF, and so does each in a handler without the whole live
set. A mask register that is empty is waited for. An arrival waits for the earlier accesses of its threads, but not for a store on its way to a
peer; each instruction that completes is irrevocable. Where the manual leaves it open, this is the model's choice: that an arrival waits at issue is
log entry 20 (DESIGN CHOICE). -/
def Obligations.Barriers : Prop :=
  ∀ (s : State) (c : Ctx) (b : Fin 32) (m : Operand), Issues s c → clsOf m = .uni → c.w.tp = none → (Instr.barSync b m).wf = true →
    let x := c.core.bar b.val
    let core := c.w.core
    let u := c.u
    let whole : Prop := c.w.st.inHandler = true → c.w.st.scopeSlices = c.w.st.unfinished
    let mine : Prop := x.val = true ∧ x.own = c.w.group ∧ u ∈ x.part
    let free : Prop := (x.val = true → x.own = c.w.group) ∧ x.waiters = []
    let agrees : Prop := c.r.uni m = x.mask ∧ c.act = x.mask &&& c.live
    let drained : Prop := ∀ a ∈ c.w.inflight, a.threads &&& c.act = 0 ∨ a.nonOrdering = true ∨ a.sent.isSome = true
    let passes (i : Instr) (y : Barrier) : Prop := ∃ t w', exec i s = .next t ∧ t.wave? u = some w' ∧ Moved c w' ∧ (t.core core).bar b.val = y ∧
      (w'.pinned = true ∨ w'.ck = w'.st)
    let arrived : Barrier := x.arrive u c.passes
    let phase : Barrier := { x with cnt := 0, arr := [], waiters := [], evs := [] }
    (arrived.arr = u :: x.arr ∧ arrived.cnt = x.cnt + 1 ∧ ∀ e, e ∈ arrived.evs ↔ e ∈ x.evs ∨ e ∈ c.passes)
    ∧ (whole →
      (c.w.st.fullMember c.sl = true → c.Full [m] →
        (free → passes (.barInit b m) { val := true, own := c.w.group, exp := (s.wavesOf c.w.group).length, cnt := 0, mask := c.r.uni m, psn := false,
                                        arr := [], part := s.wavesOf c.w.group, waiters := [], evs := [] }) ∧
        (¬ free → exec (.barInit b m) s = .next (c.trapped .bri 0)))
      ∧ (c.w.st.fullMember c.sl = false → exec (.barInit b m) s = .next (c.trapped .mbf 0))
      ∧ (free → passes (.barInval b m) { x with val := false })
      ∧ (¬ free → exec (.barInval b m) s = .next (c.trapped .bri 0))
      ∧ (¬ c.Full [m] → (∀ i ∈ [Instr.barArrive b m, .barWait b m, .barSync b m], exec i s = .next (s.block u c.sl .stall)) ∧
          (c.w.st.fullMember c.sl = true → exec (.barInit b m) s = .next (s.block u c.sl .stall)))
      ∧ (c.Full [m] →
        (mine → u ∉ x.arr → x.psn = false → agrees → ¬ drained →
          ∀ i ∈ [Instr.barArrive b m, .barSync b m], exec i s = .next (s.block u c.sl .stall))
        ∧ (mine → u ∉ x.arr → x.psn = false → agrees → drained →
            (x.cnt + 1 ≠ x.exp → passes (.barArrive b m) arrived ∧
              ∃ t, exec (.barSync b m) s = .next t ∧ (t.core core).bar b.val = { arrived with waiters := x.waiters ++ [(u, c.sl)] }) ∧
            (x.cnt + 1 = x.exp → (∀ e ∈ x.waiters, e.1 ≠ u) → passes (.barArrive b m) phase ∧ passes (.barSync b m) phase ∧
              ∀ t, exec (.barArrive b m) s = .next t → ∀ v sl w, x.waiters = [(v, sl)] → s.wave? v = some w → w.st.trap = none →
                ∃ w', t.wave? v = some w' ∧ ∀ i, i < 8 →
                  w'.st.slice i = if i ∈ w.st.gangOf sl then (w.st.slice i).advance else w.st.slice i))
        ∧ (mine → x.psn = false → agrees →
            (u ∉ x.arr → passes (.barWait b m) x) ∧
            (u ∈ x.arr → ∃ t, exec (.barWait b m) s = .next t ∧ (t.core core).bar b.val = { x with waiters := x.waiters ++ [(u, c.sl)] } ∧
              t.waves = (s.block u c.sl (.barrier b.val)).waves))
        ∧ (¬ mine → ∀ i ∈ [Instr.barArrive b m, .barWait b m, .barSync b m], exec i s = .next (c.trapped .bri 0))
        ∧ (mine → u ∈ x.arr → ∀ i ∈ [Instr.barArrive b m, .barSync b m], exec i s = .next (c.trapped .bri 0))
        ∧ (mine → x.psn = true → exec (.barWait b m) s = .next (c.trapped .mbf 0) ∧
            (u ∉ x.arr → ∀ i ∈ [Instr.barArrive b m, .barSync b m], exec i s = .next (c.trapped .mbf 0)))
        ∧ (mine → x.psn = false → ¬ agrees → x.waiters = [] →
            (∃ t, exec (.barWait b m) s = .next t ∧ (t.core core).bar b.val = { x with psn := true }) ∧
            (u ∉ x.arr → ∀ i ∈ [Instr.barArrive b m, .barSync b m],
              ∃ t, exec i s = .next t ∧ (t.core core).bar b.val = { x with psn := true }))))
    ∧ (¬ whole → ∀ i ∈ [Instr.barInit b m, .barArrive b m, .barWait b m, .barSync b m, .barInval b m], exec i s = .next (c.trapped .mbf 0))

/-- R115, R132, R133, R137, R139, R166, R167, R241: a fence waits for the earlier accesses of the issuing threads, one of kind loads for those
that read, which every load and every atomic but a plain write does; a non-ordering atomic (R135), and below `.fab` a store on its way to a peer, is not waited for. An acquire at a
scope wider than `.core` empties the core data cache and one at `.fab` the cluster's read copies; kind stores empties neither. Kinds all and
stores release, which is irrevocable. Where the manual leaves it open, this is the model's choice: log entry 20 (DESIGN CHOICE). -/
def Obligations.Fences : Prop :=
  ∀ (s : State) (c : Ctx) (sc : Fin 8), Issues s c → (Instr.fenceAll sc).wf = true → c.w.core < 512 →
    let waits (a : Access) : Prop := a.threads &&& c.act ≠ 0 ∧ a.nonOrdering = false ∧ (a.sent = none ∨ sc.val = 4)
    let reads (a : Access) : Prop := (∃ sx nt, a.op = .load sx nt) ∨ ∃ op ty use, a.op = .atomic op ty use ∧ op ≠ .write
    let passes (i : Instr) (acquires releases : Bool) : Prop := ∃ t w', exec i s = .next t ∧ t.wave? c.u = some w' ∧ Moved c w' ∧ w'.st.regs = c.r ∧
      t.mem = s.mem ∧ w'.inflight = c.w.inflight ∧
      (t.core c.w.core).dcache = (if acquires && decide (sc.val ≥ 2) then [] else (s.core c.w.core).dcache) ∧
      (t.cluster (clusterOf c.w.core)).peers = (if acquires && decide (sc.val = 4) then [] else (s.cluster (clusterOf c.w.core)).peers) ∧
      (releases = true → w'.pinned = true ∨ w'.ck = w'.st)
    ((∀ a ∈ c.w.inflight, ¬ waits a) → passes (.fenceAll sc) true true ∧ passes (.fenceStores sc) false true)
    ∧ ((∀ a ∈ c.w.inflight, waits a → ¬ reads a) → passes (.fenceLoads sc) true false)
    ∧ ((∃ a ∈ c.w.inflight, waits a) →
        exec (.fenceAll sc) s = .next (s.block c.u c.sl .stall) ∧ exec (.fenceStores sc) s = .next (s.block c.u c.sl .stall))
    ∧ ((∃ a ∈ c.w.inflight, waits a ∧ reads a) → exec (.fenceLoads sc) s = .next (s.block c.u c.sl .stall))

/-- R238 to R241, R305, R368: at a clean point `ckpt` and the opening `rgn.i` take a checkpoint, equal to the wave as it goes on; `rgn.i`
opens a region in it. `rgn.e` closes the region, with a checkpoint when the wave is clean and the pin when it is not. `rgn` takes a
checkpoint only for a pending attempt. A `ckpt` inside a macro, in a routine call, with the baton, or with an open batch that holds a
packet which writes global memory moves on with no effect. A pinned wave that is clean takes its checkpoint and is pinned no longer, and
an attempt is made when its 1,024 cycles have passed. Where the manual leaves it open, this is the model's choice: that a checkpoint
attempt which is not due changes nothing is log entry 54 (DESIGN CHOICE). -/
def Obligations.RegionsAndCheckpoints : Prop :=
  ∀ (s : State) (c : Ctx), Issues s c → c.w.tp = none →
    let passes (i : Instr) (f : Wave → Prop) : Prop := ∃ t w', exec i s = .next t ∧ t.wave? c.u = some w' ∧ Moved c w' ∧ w'.st.regs = c.r ∧
      t.mem = s.mem ∧ f w'
    let taken (w : Wave) : Prop := w.ck = w.st ∧ w.pinned = false ∧ w.attempt = none ∧ w.regLog = [] ∧ w.memLog = [] ∧ w.bufLog = [] ∧ w.tileLog = []
    (c.w.attempt = none → exec .rgn s = .next (c.put c.w))
    ∧ (c.w.attempt.isSome = true → (c.put c.w).clean c.u = true → passes .rgn taken)
    ∧ (c.w.st.fullMember c.sl = true → (c.w.st.slice c.sl).mac = none → c.core.inCall c.u = false → c.core.baton ≠ some c.u → c.w.st.openGlob = false →
        s.clean c.u = true → passes .ckpt taken)
    ∧ (c.w.st.fullMember c.sl = true → (c.w.st.openGlob = true ∨ (c.w.st.slice c.sl).mac.isSome = true ∨ c.core.inCall c.u = true ∨
        c.core.baton = some c.u) → exec .ckpt s = .next (c.put c.w))
    ∧ (c.w.st.fullMember c.sl = true → c.r.allFull = true → c.w.hidden = none → (c.put c.w).clean c.u = true →
        passes .rgnI (fun w => taken w ∧ w.st.region = true))
    ∧ (c.w.st.fullMember c.sl = true → c.w.st.region = false → exec .rgnE s = exec .rgn s)
    ∧ (c.w.st.fullMember c.sl = true → c.r.allFull = true → c.w.st.region = true → c.w.hidden = none →
        ((c.put c.w).clean c.u = true → passes .rgnE (fun w => taken w ∧ w.st.region = false)) ∧
        ((c.put c.w).clean c.u = false → passes .rgnE (fun w => w.st.region = false ∧ w.pinned = true ∧ w.ck = c.w.ck)))
    ∧ (∀ u w, s.wave? u = some w → s.clean u = true → (w.pinned = true ∨ ∃ n, w.attempt = some n ∧ n ≥ 1024) →
        ∃ t w', exec (if w.pinned then .pinnedCheckpoint u else .checkpointAttemptTimeout u) s = .next t ∧ t.wave? u = some w' ∧ taken w' ∧
          w'.st.regs = w.st.regs)
    ∧ (∀ core, (s.core core).attemptDue = true → (s.core core).run = none → ∃ t, exec (.checkpointAttempt core) s = .next t ∧
        (t.core core).attemptDue = false ∧ ∀ u w, s.wave? u = some w → w.tp = none → w.hidden = none → w.core = core →
        t.wave? u = some { w with attempt := some (w.attempt.getD (s.core core).since) })
    ∧ (∀ core, (s.core core).attemptDue = false → exec (.checkpointAttempt core) s = .next s)

/-- R222, R224 to R227, R280 to R282: `bal.burn` requests at most 5.0 A for its cycles, `bal.stop`, whose fields are reserved, ends the
request and no waiting burn, and a request ends with its last cycle, which does not come while the column's clocks stand still (R220). `bal.shunt` is granted on each rail what it asks, at most 4 units, as
far as it fits beside the neighbour's grant; layers 0 and 3 have one rail; with a false k guard it reserves nothing and is irrevocable all the same.
The units of a derated rail are log entry 40 (DEDUCED). -/
def Obligations.BalanceInstructions : Prop :=
  ∀ (s : State) (c : Ctx) (a b : Operand) (n : Fin 32), Issues s c →
    (clsOf a = .uni → clsOf b = .uni → c.Allowed (.balBurn a b) false [a, b] → c.Full [a, b] →
      let left := if c.r.uni a = 0 then 0 else (c.r.uni b).toNat
      exec (.balBurn a b) s = .next (c.put { c.w with st := { c.w.st with burn := min (c.r.uni a).toNat 50, burnLeft := left } }))
    ∧ (c.w.tp = none → let w' : Wave := { c.w with st := { c.w.st with burn := 0, burnLeft := 0 } }
        exec .balStop s = .next (c.put w') ∧ ((c.put w').core c.w.core).waitBurn = (s.core c.w.core).waitBurn)
    ∧ (∀ x : BitVec 24, x ≠ 0 → decodeWord (0xEA#8 ++ x) = .error .reservedField)
    ∧ (∀ u w, s.wave? u = some w → (s.col (w.core / 4)).stopped = true → exec (.burnExpiry u) s = .next s)
    ∧ (∀ u w, s.wave? u = some w → (s.col (w.core / 4)).stopped = false → w.st.burnLeft = 1 →
        exec (.burnExpiry u) s = .next (s.setWave u { w with st := { w.st with burn := 0, burnLeft := 0 } }))
    ∧ (clsOf a = .uni → c.Allowed (.balShunt (.s n) a) false [.s n, a] → guardReserved c.mx = false → guardIsP c.mx = false → c.kOn = false →
        c.w.st.fullMember c.sl = true → (c.w.st.inHandler = true → c.w.st.scopeSlices = c.w.st.unfinished) →
        ∃ t w', exec (.balShunt (.s n) a) s = .next t ∧ t.wave? c.u = some w' ∧ Moved c w' ∧ w'.st.regs = c.r ∧
          (w'.pinned = true ∨ w'.ck = w'.st) ∧ (t.core c.w.core).shuntUp = c.core.shuntUp ∧ (t.core c.w.core).shuntDn = c.core.shuntDn)
    ∧ (clsOf a = .uni → c.Allowed (.balShunt (.s n) a) false [.s n, a] → guardReserved c.mx = false → guardIsP c.mx = false → c.kOn = true →
        c.w.st.fullMember c.sl = true → (c.w.st.inHandler = true → c.w.st.scopeSlices = c.w.st.unfinished) → c.Full [.s n, a] →
        let core := c.w.core
        let x := c.r.uni a
        let ask := if x.toInt < 0 then 0 else if x.toInt > 4 then 4 else x.toInt.toNat
        let up := if core % 4 = 3 then 0 else min ask ((s.rail (core / 4) (core % 4)).units - (s.core (core + 1)).shuntDn)
        let dn := if core % 4 = 0 then 0 else min ask ((s.rail (core / 4) (core % 4 - 1)).units - (s.core (core - 1)).shuntUp)
        ∃ t w', exec (.balShunt (.s n) a) s = .next t ∧ t.wave? c.u = some w' ∧ Moved c w' ∧
          w'.st.regs.s[n] = BitVec.ofNat 32 (up + 2 ^ 8 * dn) ∧ (t.core core).shuntUp = up ∧ (t.core core).shuntDn = dn)

/-! ### Recursion objects and child waves -/

/-- R178, R180, R193, R363: `rec.run`. A wave first waits for its own writes, and then while another live wave of its core group has not reached
one; when its wave is the group's last, the group stands in line while the engine is another's, and starts its run when it is free: the descriptor
gives it, the root's divide is its one routine, and the registers of every wave are its snapshot. The waves take part together: where they do not
name one descriptor and one root each raises MBF, where the descriptor is not aligned ALF, and where the checks refuse it RFF. Where the manual leaves
it open, this is the model's choice: log entry 37 (DEDUCED), and that the first wave's b6 gives the descriptor's address is 67 (DESIGN CHOICE). -/
def Obligations.RunsStart : Prop :=
  ∀ (s : State) (c : Ctx) (a b : Operand), Issues s c → clsOf a = .uni → clsOf b = .uni → c.Allowed (.recRun a b) false [a, b] → c.Full [a, b] →
    c.w.st.ganged c.sl = true → c.live = BitVec.allOnes 32 → c.act = BitVec.allOnes 32 → c.w.st.trap = none → c.w.ending = false → c.w.hidden = none →
    Map.sorted s.waves = true → c.core.inCall c.u = false → (∀ r, c.core.run = some r → r.grp ≠ c.w.group) →
    c.w.group ∉ c.core.runBack →
    let ops := (c.r.uni a, c.r.uni b)
    let grp := c.w.group
    let ws := s.groupWaves grp
    let waits := s.block c.u c.sl (.recRun ops.1 ops.2)
    let w0 := (ws.head?.map (·.2)).getD c.w
    let base := w0.st.regs.b.getD 6 ⟨0, 0⟩
    let addr := base.base + ops.1.signExtend 64
    let written : Prop := ∀ y ∈ c.w.inflight, y.writes = false ∨ y.sent.isSome = true
    let last : Prop := ∀ e ∈ ws, e.1 ≠ c.u → e.2.atRecRun.isSome = true
    let agree : Prop := ∀ e ∈ ws, e.1 ≠ c.u → e.2.atRecRun = some ops
    let traps (x : Cause) (fa : DWord) : Prop := ∃ q : State, q.waves = waits.waves ∧ q.groups = s.groups ∧ q.launches = s.launches ∧
      exec (.recRun a b) s = .next (ws.foldl (fun t e => t.takeTrap e.1 (e.2.st.unfinished.headD 0)
        { cause := x, mask := e.2.st.active (e.2.st.unfinished.headD 0), fa := fa, s2 := false, asy := false, unr := false }) q)
    (¬ written → exec (.recRun a b) s = .next (s.block c.u c.sl .stall))
    ∧ (written → ¬ last → exec (.recRun a b) s = .next waits)
    ∧ (written → last → c.core.run.isSome = true → grp ∉ c.core.runQ → ∃ t, exec (.recRun a b) s = .next t ∧
        t.waves = waits.waves ∧ (t.core c.w.core).runQ = c.core.runQ ++ [grp] ∧ (t.core c.w.core).run = c.core.run)
    ∧ (written → last → c.core.run = none → c.core.runQ = [] →
        (¬ agree → traps .mbf 0) ∧
        (agree → (base.tag = 0 ∨ base.tag = 1) →
          (addr.toNat % 64 ≠ 0 → traps .alf addr) ∧
          (∀ g, addr.toNat % 64 = 0 → base.tag = 1 → s.group? grp = some g → inAlloc g 1 addr.toNat 64 = true →
            let x := s.mem.readN (locS w0.core + addr.toNat) 64
            (descOk x ops.2.toNat ws.length (g.sOff + g.sLen) = false → traps .rff addr) ∧
            (descOk x ops.2.toNat ws.length (g.sOff + g.sLen) = true → ∃ t r, exec (.recRun a b) s = .next t ∧ t.waves = waits.waves ∧ t.mem = s.mem ∧
              (t.core c.w.core).run = some r ∧ (t.core c.w.core).runQ = [] ∧ r.grp = grp ∧ r.div = BitVec.ofNat 32 x ∧
              r.bas = BitVec.ofNat 32 (x / 2 ^ 32) ∧
              r.com = BitVec.ofNat 32 (x / 2 ^ 64) ∧ r.fan = x / 2 ^ 96 % 8 + 1 ∧ r.fb = 16 * (x / 2 ^ 99 % 64 + 1) ∧ r.dmax = x / 2 ^ 105 % 128 ∧
              r.lsw = x / 2 ^ 112 % 4096 ∧ r.abase = BitVec.ofNat 64 (x / 2 ^ 128) ∧ r.asize = x / 2 ^ 192 % 2 ^ 32 ∧ r.phase = .div ∧ r.level = 0 ∧
              r.levelEnd = ops.2.toNat + r.fb ∧ r.ended = 0 ∧
              r.snaps.map (fun y => (y.w, y.s, y.a, y.b, y.k)) = ws.map (fun e =>
                (e.1, e.2.st.regs.s, e.2.st.regs.a, e.2.st.regs.b, e.2.st.regs.k)) ∧
              r.threads = [(0, ⟨[{ rout := .divide, frame := { off := ops.2.toNat, depth := 0, kid := 0, cnt := 0, stride := 0 } }], 0⟩)]))))

/-- R181, R187, R190, R191: a routine call. The engine puts the wave into the routine: the frames' offsets and depths in v0 and v1 of the
threads called, in v2 to v4 the children's place, count and stride for a combine and 0 for any other routine, these threads alone active, empty stacks, the snapshot in every uniform register and the arena in b7, at the routine's
address. Where the manual leaves it open, this is the model's choice: log entry 37 (DEDUCED). -/
def Obligations.RoutineCalls : Prop :=
  ∀ (s : State) (core u i : Nat) (w : Wave) (r : RunSt) (cl : RCall) (sn : RSnap), (s.core core).run = some r → s.wave? u = some w → r.place u = some i →
    s.mayCall r u w = true → r.nextCall i = some cl → r.snaps[i]? = some sn →
    ∃ t w' r', exec (.routineCall core u) s = .next t ∧ t.wave? u = some w' ∧ (t.core core).run = some r' ∧ Map.find? r'.calls u = some cl ∧ t.mem = s.mem ∧
      w'.st.regs.s = sn.s ∧ w'.st.regs.a = sn.a ∧ w'.st.regs.k = sn.k ∧ w'.st.regs.p = w.st.regs.p ∧
      (w'.st.regs.b.getD 7 ⟨0, 0⟩) = ⟨r.abase, if r.asp then 1 else 0⟩ ∧ (∀ n : Fin 7, w'.st.regs.b.getD n.val ⟨0, 0⟩ = sn.b.getD n.val ⟨0, 0⟩) ∧
      (∀ j : Fin 32, ∀ f, Map.find? cl.frames j.val = some f →
        w'.st.regs.v[0][j] = BitVec.ofNat 32 f.off ∧ w'.st.regs.v[1][j] = BitVec.ofNat 32 f.depth ∧
        (cl.rout = .combine → w'.st.regs.v[2][j] = BitVec.ofNat 32 f.kid ∧ w'.st.regs.v[3][j] = BitVec.ofNat 32 f.cnt ∧
          w'.st.regs.v[4][j] = BitVec.ofNat 32 f.stride) ∧
        (cl.rout ≠ .combine → w'.st.regs.v[2][j] = 0 ∧ w'.st.regs.v[3][j] = 0 ∧ w'.st.regs.v[4][j] = 0)) ∧
      (∀ n : Fin 64, 5 ≤ n.val → w'.st.regs.v[n] = w.st.regs.v[n]) ∧
      (∀ sl, sl < 8 → (w'.st.slice sl).pc = w.st.tx + ((match cl.rout with
            | .divide => r.div
            | .base => r.bas
            | .combine => r.com) : Word).zeroExtend 64 ∧
        (w'.st.slice sl).stack = [] ∧ (w'.st.slice sl).modex = sn.modex ∧ (w'.st.slice sl).modem = sn.modem ∧ (w'.st.slice sl).wait = none ∧
        ∀ j, j < 4 → (w'.st.slice sl).mask.getLsbD j = (Map.find? cl.frames (4 * sl + j)).isSome)

/-- R182, R183, R184, R186, R189, R363: inside a routine. `rec.child` in a divide routine reserves the next child of each active thread's
frame and writes its arena offset; outside a divide, and for a thread that has no frame in the call, it raises RFF. `rec.ret` takes its
threads out of the call, which goes on while some thread has not returned and ends with the last: a release, but not irrevocable, so that the wave is neither pinned nor
checkpointed (log entry 65, DESIGN CHOICE, sets R363 over R173 and R241 here); in a divide it needs the count of children; outside a routine it
raises RFF. `rec.wait` reads the group's latest status word once no run of the group goes on or waits behind another's after a rollback, and its threads are ordered after what the run's
routines released. Where the manual leaves it open, this is the model's choice: that `rec.ret` waits at issue is log entry 20 (DESIGN CHOICE), and
that no thread's slice of the arena bounds a slot is 67 (DESIGN CHOICE). -/
def Obligations.RoutinesRun : Prop :=
  ∀ (s : State) (c : Ctx) (n : Fin 64) (a : Operand) (m : Fin 32), Issues s c →
    (c.Allowed (.recChild (.v n)) false [.v n] → c.Allocated [.v n] → c.Full [.v n] →
      (c.core.divideCall c.u = none → ∃ fa, exec (.recChild (.v n)) s = .next (c.trapped .rff fa)) ∧
      (∀ r cl i, c.core.run = some r → Map.find? r.calls c.u = some cl → r.place c.u = some i → cl.rout = .divide →
        let slot (t : Nat) (f : Frame) : Nat :=
          if r.phase = .depth then r.bb + ((((Map.find? r.threads (32 * i + t)).getD ⟨[], 0⟩).top) * r.lsw + (32 * i + t)) * r.fb
          else r.levelEnd + ((32 * i + t) * r.fan + f.cnt) * r.fb
        (∀ t, c.act.getLsbD t = true → ∃ f, Map.find? cl.frames t = some f ∧ f.cnt < r.fan ∧ f.depth ≠ r.dmax ∧ slot t f + r.fb ≤ r.asize) →
        ∃ q w' r' cl', exec (.recChild (.v n)) s = .next q ∧ q.wave? c.u = some w' ∧ Moved c w' ∧ q.mem = s.mem ∧ (q.core c.w.core).run = some r' ∧
          Map.find? r'.calls c.u = some cl' ∧ ∀ (t : Fin 32) f, c.act.getLsbD t.val = true → Map.find? cl.frames t.val = some f →
            w'.st.regs.v[n][t] = BitVec.ofNat 32 (slot t.val f) ∧ ∃ f', Map.find? cl'.frames t.val = some f' ∧ f'.cnt = f.cnt + 1 ∧ f'.off = f.off ∧
              f'.depth = f.depth ∧ (f.cnt = 0 → f'.kid = slot t.val f)) ∧
      (∀ r cl i t0, c.core.run = some r → Map.find? r.calls c.u = some cl → r.place c.u = some i → cl.rout = .divide →
        c.act.getLsbD t0 = true → Map.find? cl.frames t0 = none → (∀ t, t < t0 → c.act.getLsbD t = false) →
        ∃ m fa, m.getLsbD t0 = true ∧
          exec (.recChild (.v n)) s = .next (s.takeTrap c.u c.sl { cause := .rff, mask := m, fa := fa, s2 := false, asy := false, unr := false })))
    ∧ ((clsOf a = .vary ∨ clsOf a = .uni) → c.Allowed (.recRet a) false [a] → c.Allocated [a] →
        (c.core.inCall c.u = false → exec (.recRet a) s = .next (c.trapped .rff 0)) ∧
        (∀ r cl, c.core.run = some r → Map.find? r.calls c.u = some cl → c.r.allFull = true →
          (∀ x ∈ c.w.inflight, x.threads &&& c.act = 0 ∨ x.nonOrdering = true ∨ x.sent.isSome = true) →
          (cl.rout = .divide → ∀ t f, c.act.getLsbD t = true → Map.find? cl.frames t = some f → (c.r.src a t).toNat = f.cnt) →
          (∀ i, i < 8 → (c.w.st.slice i).regangMask = none) →
          let left : Prop := ∃ e ∈ cl.frames, (cl.returned ||| c.act).getLsbD e.1 = false
          let others : Prop := (r.place c.u).isSome = true ∧ ∃ v y, v ≠ c.u ∧ Map.find? r.calls v = some y
          left ∨ others →
          ∃ q w' r', exec (.recRet a) s = .next q ∧ q.wave? c.u = some w' ∧ w'.pinned = c.w.pinned ∧ w'.ck = c.w.ck ∧ w'.st.regs = c.r ∧
            w'.st.live = c.w.st.live ∧ q.mem = s.mem ∧ (q.core c.w.core).run = some r' ∧
            (left → Map.find? r'.calls c.u = some { cl with returned := cl.returned ||| c.act }) ∧
            (¬ left → Map.find? r'.calls c.u = none ∧ ∀ i ∈ w'.st.unfinished, (w'.st.slice i).wait = some .returned)))
    ∧ (c.Allowed (.recWait (.s m)) false [.s m] → guardReserved c.mx = false → guardIsP c.mx = false → c.kOn = true → c.act = c.live → c.Full [.s m] →
        ((∀ r, c.core.run = some r → r.grp ≠ c.w.group) → c.w.group ∉ c.core.runBack →
          let x := c.w.putS m.val ((Map.find? c.core.status c.w.group).getD 0)
          ∃ w', exec (.recWait (.s m)) s = .next (c.put w') ∧ w' = { x with st := { x.st with seen := w'.st.seen } } ∧
            ∀ evs, Map.find? c.core.runEvs c.w.group = some evs → ∀ ev ∈ evs, ∀ t, c.act.getLsbD t = true →
              ∃ y ∈ w'.st.seen, y.ev = ev ∧ y.since ≤ w'.nextAcc ∧ y.ts.getLsbD t = true) ∧
        ((c.w.group ∈ c.core.runBack ∨ ∃ r, c.core.run = some r ∧ r.grp = c.w.group) → exec (.recWait (.s m)) s = .next (s.block c.u c.sl .stall)))

/-- R47, R48, R61, R206, R213, R304, R316, R377: `spawn` starts a child in a free slot with its parent's depth plus 1, its entry and its
stack value, and writes kD, without waiting; the child holds back until the accesses before the `spawn` have been performed; a misaligned
entry raises ALF and a fifth level SPN. `cjoin` waits for the children and writes how many were killed. A wave whose slices have all
finished ends, and its parent holds it no more. Where the manual leaves it open, this is the model's choice: log entry 20 (DESIGN
CHOICE). -/
def Obligations.ChildWaves : Prop :=
  ∀ (s : State) (c : Ctx) (kd : Fin 4) (a b : Operand) (m : Fin 32), Issues s c → c.u < s.nextWave → guardReserved c.mx = false →
    guardIsP c.mx = false → c.kOn = true → c.act = c.live →
    let st := c.w.st
    let i : Instr := .spawn (.k (kd)) a b
    let e := c.r.uni a
    (clsOf a = .uni → clsOf b = .uni → c.Allowed i false [.k (kd), a, b] → c.Full [a, b] →
      (e.toNat % 4 ≠ 0 → exec i s = .next (c.trapped .alf (st.tx + e.zeroExtend 64))) ∧
      (e.toNat % 4 = 0 → st.depth ≥ 4 → exec i s = .next (c.trapped .spn 0)) ∧
      (e.toNat % 4 = 0 → st.depth < 4 →
        (s.roomFor c.w.core c.w.valloc = none → ∃ t w', exec i s = .next t ∧ t.wave? c.u = some w' ∧ Moved c w' ∧ (kd ≠ 3 → w'.st.regs.kpred kd.val = false) ∧
          t.nextWave = s.nextWave ∧ w'.st.children = st.children) ∧
        (∀ q slot, s.roomFor c.w.core c.w.valloc = some (q, slot) → ∃ t w' ch, exec i s = .next t ∧ t.wave? c.u = some w' ∧ Moved c w' ∧
          w'.st.regs.kpred kd.val = true ∧ w'.st.children = st.children ++ [s.nextWave] ∧ t.nextWave = s.nextWave + 1 ∧ t.wave? s.nextWave = some ch ∧
          ch.core = c.w.core ∧ ch.quad = q ∧ ch.slot = slot ∧ ch.group = c.w.group ∧ ch.parent = some c.u ∧ ch.valloc = c.w.valloc ∧
          ch.st.depth = st.depth + 1 ∧ ch.st.live = BitVec.allOnes 32 ∧ ch.st.tx = st.tx ∧ ch.st.tvec = st.tvec ∧ ch.st.regs.b = c.r.b ∧
          ch.after = some (c.u, c.w.nextAcc, c.act) ∧
          (∀ r : Fin 32, ch.st.regs.s[r] = if r.val = 0 ∨ r.val = 2 ∨ r.val = 3 then c.r.s[r] else if r.val = 1 then 0xFFFF
            else if r.val = 4 then c.r.uni b else if r.val = 5 then BitVec.ofNat 32 (st.depth + 1) else 0) ∧
          (∀ (r : Fin 64) (j : Fin 32), ch.st.regs.v[r][j] = 0) ∧
          ∀ sl, sl < 8 → ch.st.slice sl = Slice.init (st.tx + e.zeroExtend 64))))
    ∧ (c.Allowed (.cjoin (.s m)) false [.s m] → c.Full [.s m] →
        (st.children = [] → ∃ w', exec (.cjoin (.s m)) s = .next (c.put w') ∧
          w'.st.regs.s[m] = BitVec.ofNat 32 (2 * st.killed + if st.killed = 0 then 0 else 1) ∧ w'.st.killed = 0) ∧
        (st.children ≠ [] → exec (.cjoin (.s m)) s = .next (s.block c.u c.sl .stall)))
    ∧ (∀ u w, s.wave? u = some w → w.hidden = none → w.ending = true → w.inflight = [] → ∃ t, exec (.waveEnd u) s = .next t ∧ t.wave? u = none ∧
        ∀ p wp, w.parent = some p → p ≠ u → s.wave? p = some wp → ∃ wp', t.wave? p = some wp' ∧ u ∉ wp'.st.children)

/-! ### Queues, packets, graphs and service operations -/

/-- R143, R145, R146, R149, R150, R153, R170, R174, R254, R324: a copy queue. A write index that is wrong stops the queue in ERROR. A
packet that fails its check stops its queue, which keeps its read index, and has no effect; one that passes is taken, and acts: COPY and
FILL move their bytes, row by row; REDUCE-COPY adds each element, rounded to nearest even; SIGNAL stores, or adds, its value once no
earlier packet of its queue is left; VOID completes at once. While the fabric's ports carry no request, a packet for a peer stays, and so does one
whose destination a store on its way to a peer meets, and one whose translation is undefined. One for an endpoint that does not acknowledge stops its
queue and is quarantined.
Completion takes the packet from its queue, from its wave's batch and from its graph's run; of a FILL it makes the handle full, or gives
it to its oldest waiter, or frees the handle of a core group that has ended. Where the manual leaves it open, this is the model's choice:
log entries 29 (DESIGN CHOICE), 54 (DESIGN CHOICE), 58 (DESIGN CHOICE), 61 (DEDUCED), 62 (DESIGN CHOICE). -/
def Obligations.CopyPackets : Prop :=
  ∀ (s : State) (q : Nat) (x : Queue), Map.find? s.copyQs q = some x →
    let queue (t : State) (f : Queue → Prop) : Prop := ∃ y, Map.find? t.copyQs q = some y ∧ f y
    let record (t : State) (bs : List Byte) : Prop := isAperture x.err = false →
      t.mem = if s.portOk (q / 64) x.err then s.mem.writeBytes x.err bs else s.mem
    let ahead := (s.widx x - x.ridx).toNat
    let errAway : Prop := s.spansAway [(x.err, 32)] = true
    (x.st ≠ .error → s.portOk (q / 64) x.hdr = true → s.reach x.hdr = true → ¬errAway → x.size < ahead → ∃ t, exec (.headerLineChange q) s = .next t ∧
      queue t (fun y => y.st = .error ∧ y.ridx = x.ridx ∧ y.jobs = x.jobs) ∧
      record t (errRecord (if ahead ≥ 2 ^ 31 then 2 else 1) 2 x.ridx (s.widx x) 0))
    ∧ (∀ b, s.portOk (q / 64) x.hdr = true → s.portOk (q / 64) (x.slot x.ridx) = true → s.head? x = some b → s.mayTake (packetOf b) = true →
        let p := packetOf b
        let checked := s.checkPacket (s.headSpace x) (q / 64) b
        (∀ e ∈ [(1, Instr.copy q), (2, .fill q), (3, .reduceCopy q)], p.kind = e.1 →
          (∀ fa, checked = .error (0, fa) → exec e.2 s = .next s) ∧
          (∀ code fa, checked = .error (code, fa) → errAway → exec e.2 s = .next s) ∧
          (∀ code fa, checked = .error (code, fa) → code ≠ 0 → ¬errAway → ∃ t, exec e.2 s = .next t ∧
            queue t (fun y => y.st = (if code ≤ 2 then .error else .stop) ∧ y.ridx = x.ridx ∧ y.jobs = x.jobs) ∧
            record t (errRecord code 1 x.ridx (s.widx x) fa)) ∧
          (∀ plan, checked = .ok plan → s.spansAway plan.pieces = true ∨ s.spansWait (plan.flatMap (·.1)) = true → exec e.2 s = .next s) ∧
          (∀ plan, checked = .ok plan → s.spansAway plan.pieces = false → s.spansWait (plan.flatMap (·.1)) = false →
            (∃ y ∈ plan.pieces, s.deafAt y.1 = true) → ∃ t, exec e.2 s = .next t ∧
            .unreachable (if ∃ r ∈ plan, ∃ y ∈ r.1, s.deafAt y.1 = true then p.to_ else p.from_) ∈ t.events ∧
            queue t (fun y => y.st = .stop ∧ y.ridx = x.ridx ∧ y.jobs = x.jobs ∧ y.quarantine = x.quarantine ++ [x.ridx]))) ∧
        ∀ plan, checked = .ok plan → s.spansAway plan.pieces = false → (∀ y ∈ plan.pieces, s.deafAt y.1 = false) →
          s.spansWait (plan.flatMap (·.1)) = false →
          let src := plan.flatMap (·.2)
          let dst := plan.flatMap (·.1)
          let took (t : State) (fill : Option (Nat × Nat)) (acted : Bool) : Prop := queue t (fun y => y.ridx = x.ridx + 1 ∧ y.st = .run ∧
            y.jobs.map (fun j => (j.idx, j.bytes, j.fill, j.acted)) =
              x.jobs.map (fun j => (j.idx, j.bytes, j.fill, j.acted)) ++ [(x.ridx, b, fill, acted)])
          let s1 (fill : Option (Nat × Nat)) (loc : Nat) : State := (s.engineAcquire (q / 64) p.scope).takeCq q x b fill true loc []
          (p.kind = 1 → ∃ t, exec (.copy q) s = .next t ∧ took t none true ∧ (Apart (s1 none 0) src dst → BytesMove (s1 none 0) t src dst)) ∧
          (p.kind = 2 → let at_ := some (p.tcore, p.handle)
            ∃ t, exec (.fill q) s = .next t ∧ took t at_ true ∧ (Apart (s1 at_ 0) src dst → BytesMove (s1 at_ 0) t src dst) ∧
              ((t.core p.tcore).handle p.handle).fills = ((s.core p.tcore).handle p.handle).fills + 1 ∧
              ((t.core p.tcore).handle p.handle).st = ((s.core p.tcore).handle p.handle).st) ∧
          (p.kind = 3 → let f := if p.rtype = 0 then f32 else bf16
            let n := if p.rtype = 0 then 4 else 2
            ∃ t, exec (.reduceCopy q) s = .next t ∧ took t none true ∧ (Apart (s1 none 0) src dst →
              (∀ i l, (spanLocs dst)[n * i]? = some l → ∀ j, j < n → (spanLocs dst)[n * i + j]? = some (l + j)) → (spanLocs dst).length % n = 0 →
              ElementsCombine (s1 none 0) t n (fun old y => f.round 0 0 ((f.val old).add 0 (f.val y))) src dst)) ∧
          (p.kind = 4 → let loc := (dst.headD (0, 0)).1
            (x.jobs = [] → ∃ t, exec (.copySignal q) s = .next t ∧ took t none true ∧ (loc + 8 ≤ hbmBytes →
              t.mem = (s1 none loc).mem.writeBytes loc
                (natLe p.elem ((if p.dim % 2 = 1 then leNat ((s1 none loc).mem.bytes loc p.elem) else 0) + p.from_)))) ∧
            (∀ j r, x.jobs = j :: r → j.acted = true → ∃ t, exec (.copySignal q) s = .next t ∧ took t none false)) ∧
          (p.kind = 0 → ∃ t, exec (.copyVoid q) s = .next t ∧ queue t (fun y => y.ridx = x.ridx + 1 ∧ y.jobs = x.jobs)))
    ∧ (∀ j r, x.jobs = j :: r → j.acted = false → j.loc + 8 ≤ hbmBytes → ∃ t, exec (.copySignal q) s = .next t ∧
        queue t (fun y => y.ridx = x.ridx ∧ y.jobs.head? = some { j with acted := true }) ∧
        let p := packetOf j.bytes
        t.mem = s.mem.writeBytes j.loc (natLe p.elem ((if p.dim % 2 = 1 then leNat (s.mem.bytes j.loc p.elem) else 0) + p.from_)))
    ∧ (∀ idx j, x.job? idx = some j → j.acted = true →
        let tells (t : State) : Prop := ∀ u w p, s.wave? u = some w →
          w.posted.find? (fun p => decide (p.q = q) && decide (p.idx = idx) && decide (p.reg = x.reg)) = some p →
            ∃ w', t.wave? u = some w' ∧ w'.posted = w.posted.erase p ∧ w'.st.regs = w.st.regs
        let node (t : State) : Prop := ∀ part gid n g, j.node = some (part, gid, n) → Map.find? s.graphs (graphKey part gid) = some g →
          Map.find? t.graphs (graphKey part gid) = some { g with run := g.run.map (fun r => { r with done := n :: r.done }) }
        (j.fill = none → ∃ t, exec (.packetComplete q idx) s = .next t ∧ queue t (fun y => y.jobs = x.jobs.erase j) ∧ t.mem = s.mem ∧ tells t ∧ node t) ∧
        (∀ core h, j.fill = some (core, h) → ∃ t, exec (.fillComplete q idx) s = .next t ∧ queue t (fun y => y.jobs = x.jobs.erase j) ∧
          t.mem = s.mem ∧ node t ∧
          let z := (s.core core).handle h
          let y := { z with fills := z.fills - 1, evs := if j.evs = [] then z.evs else j.evs }
          (t.core core).handle h = if y.grp = none then (if y.fills = 0 then { y with st := .free, owner := none } else y)
            else match y.waiters.find? (fun e => e.2.2 = false) with
              | some e => { y with st := .draining, owner := some e.1, waiters := y.waiters.erase e }
              | none => { y with st := .full, owner := none }))

/-- R142, R143, R194 to R201, R203: a work queue, while no take-over goes on. The kick's bit is cleared and the header read, and a write
index that is wrong stops the queue in ERROR. A LAUNCH that passes its checks makes a launch of no placed core group and stands until it
completes; one of no core group completes at once. A SIGNAL stores its value when nothing of its queue is left before it; a VOID goes; a
GLOAD loads its graph, and waits while that graph has a run. A forwarded packet that the filter table permits joins its destination's
stream, and is served from there. A packet that fails stops its queue, and one whose translation is undefined stays. A header and an error record at a
peer wait for the ports. A completion or signal for a
peer's memory is held until its endpoint answers. Where the manual leaves it open, this is the model's choice: log entries 29 (DESIGN CHOICE), 46
(DEDUCED), 54 (DESIGN CHOICE), 58 (DESIGN CHOICE), 62 (DESIGN CHOICE), and that a packet forwarded to a queue that is none is lost is 69 (DESIGN
CHOICE). -/
def Obligations.WorkPackets : Prop :=
  ∀ (s : State) (q : Nat) (x : Queue), s.takeover = false → Map.find? s.workQs q = some x →
    let queue (t : State) (f : Queue → Prop) : Prop := ∃ y, Map.find? t.workQs q = some y ∧ f y
    let ahead := (s.widx x - x.ridx).toNat
    let stores (s1 t : State) (l : Nat) (v : BitVec 64) : Prop :=
      if isPeer l then t.mem = s1.mem ∧ t.heldStores = s.heldStores ++ [(l, v)] else isAperture l = false → t.mem = s1.mem.writeBytes l (natLe 8 v.toNat)
    let errAway : Prop := s.spansAway [(x.err, 32)] = true
    (q ∈ s.kicks → s.reach x.hdr = false → exec (.workQueueRead q) s = .next s)
    ∧ (q ∈ s.kicks → s.reach x.hdr = true → ahead ≤ x.size → ahead < 2 ^ 31 → ∃ t, exec (.workQueueRead q) s = .next t ∧ q ∉ t.kicks ∧ t.mem = s.mem ∧
      queue t (fun y => y = { x with seen := s.widx x }))
    ∧ (q ∈ s.kicks → s.reach x.hdr = true → ¬errAway → x.size < ahead → x.st ≠ .error → ∃ t, exec (.workQueueRead q) s = .next t ∧
      queue t (fun y => y.st = .error ∧ y.ridx = x.ridx ∧ y.jobs = x.jobs))
    ∧ (∀ joined b, x.fwd = none → s.nextPacket x = some (joined, b) → s.mayStart x b = true →
        let s1 := s.takeWq q x joined
        let stops (i : Instr) : Prop := (errAway → exec i s = .next s) ∧
          (¬errAway → ∃ t, exec i s = .next t ∧ queue t (fun y => y.st = .stop ∧ y.ridx = x.ridx ∧ y.jobs = x.jobs ∧ y.joined = x.joined))
        let goes (i : Instr) (f : State → Queue → Prop) : Prop := ∃ t, exec i s = .next t ∧ queue t (fun y => f t y ∧
          if joined then y.ridx = x.ridx ∧ y.joined = x.joined.drop 1 else y.ridx = x.ridx + 1 ∧ y.joined = x.joined)
        (∀ e ∈ [(1, Instr.launch q), (0, .workVoid q), (3, .gload q), (2, .workSignal q)], workKind b = e.1 → workMalformed b = true →
          (e.1 = 2 → x.jobs = []) → stops e.2) ∧
        (workMalformed b = false →
          (workKind b = 1 → let l? := s.launchOf x.owner x.space x.tvec b (x.origin q joined)
            (∀ code fa, l? = .error (code, fa) → code > 2 → stops (.launch q)) ∧
            (∀ fa, l? = .error (0, fa) → exec (.launch q) s = .next s) ∧
            (∀ l, l? = .ok l → groupsOf b ≠ 0 → goes (.launch q) (fun t y => Map.find? t.launches s.nextLaunch = some l ∧
              t.nextLaunch = s.nextLaunch + 1 ∧ l.placed = 0 ∧ l.running = 0 ∧ l.part = x.owner ∧ l.space = x.space ∧ l.bytes = b ∧
              y.jobs.map (fun j => (j.idx, j.launch)) = x.jobs.map (fun j => (j.idx, j.launch)) ++ [(x.ridx, some s.nextLaunch)])) ∧
            (∀ l, l? = .ok l → groupsOf b = 0 → goes (.launch q) (fun t _ => Map.find? t.launches s.nextLaunch = none ∧
              ∀ loc, l.cloc = some loc → stores s1 t loc (BitVec.ofNat 64 (pkField b 48 8))))) ∧
          (workKind b = 2 → ∀ l n r, s.checkAddr x.owner x.space needWrite (pkField b 40 8) 8 = .ok ((l, n) :: r) →
            pkField b 40 8 % 8 = 0 →
            (x.jobs = [] → goes (.workSignal q) (fun t _ => stores s1 t l (BitVec.ofNat 64 (pkField b 48 8)))) ∧
            (∀ j k, x.jobs = j :: k → j.launch.isSome = true → goes (.workSignal q) (fun t y => t.mem = s1.mem ∧
              y.jobs.map (fun j => (j.idx, j.loc, j.launch)) = x.jobs.map (fun j => (j.idx, j.loc, j.launch)) ++ [(x.ridx, l, none)]))) ∧
          (workKind b = 0 → goes (.workVoid q) (fun _ y => y.jobs = x.jobs)) ∧
          (workKind b = 3 → let key := graphKey x.owner (pkField b 24 2)
            (∀ g, Map.find? s.graphs key = some g → (g.run.isSome = true ∨ g.pending ≠ []) → exec (.gload q) s = .next s) ∧
            ((∀ g, Map.find? s.graphs key = some g → g.run = none ∧ g.pending = []) →
              (∀ code fa, s.graphImage x b = .error (code, fa) → code > 2 → stops (.gload q)) ∧
              (∀ img, s.graphImage x b = .ok img → goes (.gload q) (fun t _ => ∃ g, Map.find? t.graphs key = some g ∧
                g.image = img ∧ g.space = x.space ∧ g.run = none ∧ g.pending = []))))))
    ∧ (∀ j r, x.fwd = none → x.jobs = j :: r → j.launch = none → ∃ t, exec (.workSignal q) s = .next t ∧
        queue t (fun y => y.jobs = r ∧ y.ridx = x.ridx) ∧ stores s t j.loc (BitVec.ofNat 64 (pkField j.bytes 48 8)))
    ∧ (∀ b d y, x.fwd = some d → d ≠ q → x.joined = [] → s.nextPacket x = some (false, b) → Map.find? s.workQs d = some y →
        (s.filterOk x.owner false d (workKind b) = true → ∃ t y', exec (.forwardingQueuePacket q) s = .next t ∧
          Map.find? t.workQs d = some y' ∧ y'.joined = y.joined ++ [(q, x.ridx, b)] ∧ queue t (fun z => z.ridx = x.ridx + 1)) ∧
        (s.filterOk x.owner false d (workKind b) = false → ¬errAway → ∃ t, exec (.forwardingQueuePacket q) s = .next t ∧
          queue t (fun z => z.st = .stop ∧ z.ridx = x.ridx)))
    ∧ (∀ b d, x.fwd = some d → x.joined = [] → s.nextPacket x = some (false, b) → s.filterOk x.owner false d (workKind b) = true →
        Map.find? s.workQs d = none → ∃ t, exec (.forwardingQueuePacket q) s = .next t ∧ queue t (fun z => z = { x with ridx := x.ridx + 1 }) ∧
          Map.find? t.workQs d = none)

/-- R49, R197, R202, R206 to R208, R213: placement. In its partition's turn the one waiting launch gets its next core group on the core
that is chosen: its waves stand at TEXT, and every register of theirs in the state of R49. A co-resident launch that has waited 16 turns
is reserved for. A launch whose last core group has ended stores its completion value, or holds it for a peer's endpoint, and is gone. Where the
manual leaves it open, this is the model's choice: log entries 47 (DEDUCED), 54 (DESIGN CHOICE), 62 (DESIGN CHOICE). -/
def Obligations.Placement : Prop :=
  ∀ (s : State) (ln : Nat) (l : Launch), s.takeover = false → s.launch? ln = some l →
    (∀ core p, s.launches = [(ln, l)] → l.waits = true → corOf l.bytes = false → s.turn = l.part → 0 < s.decisions → s.chooseCore ln l = some (core, p) →
      ∃ t g l', exec .placementDecision s = .next t ∧ Map.find? t.groups s.nextGroup = some g ∧ t.nextGroup = s.nextGroup + 1 ∧ g.core = core ∧
        g.launch = ln ∧ g.index = l.placed ∧ g.banks = p.banks ∧ t.launch? ln = some l' ∧ l'.placed = l.placed + 1 ∧ l'.running = l.running + 1 ∧
        t.nextWave = s.nextWave + p.waves.length ∧
        ∀ j e, p.waves[j]? = some e → ∃ w, t.wave? (s.nextWave + j) = some w ∧ w.core = core ∧ w.quad = e.1 ∧ w.slot = e.2 ∧ w.group = s.nextGroup ∧
          w.parent = none ∧ w.valloc = (footOf l.bytes).valloc ∧ w.ck = w.st ∧ w.st.live = BitVec.allOnes 32 ∧ w.st.depth = 0 ∧
          (∀ sl, sl < 8 → w.st.slice sl =
            { pc := BitVec.ofNat 64 (pkField l.bytes 8 8), mask := 0xF, stack := [], modex := 7 <<< 11, modem := 1 <<< 7 ||| 1 <<< 4,
              gang := 0, sleep := 0, wait := none, mac := none }) ∧
          (∀ i : Fin 32, w.st.regs.s[i] = if i = 0 then BitVec.ofNat 32 l.placed else if i = 1 then BitVec.ofNat 32 j
            else if i = 2 then BitVec.ofNat 32 (groupsOf l.bytes) else if i = 3 then BitVec.ofNat 32 (footOf l.bytes).waves
            else if 4 ≤ i.val ∧ i.val < 12 then l.params.getD (i.val - 4) 0 else 0) ∧
          (∀ i : Fin 8, w.st.regs.b[i] = if i = 0 then ⟨BitVec.ofNat 64 (pkField l.bytes 16 8), 0⟩ else if i = 1 then ⟨BitVec.ofNat 64 (1024 * p.s), 1⟩
            else if i = 2 then ⟨BitVec.ofNat 64 (1024 * p.a), 2⟩ else if i = 3 then ⟨BitVec.ofNat 64 (4096 * p.c), 3⟩
            else if i = 4 then ⟨BitVec.ofNat 64 (8192 * p.c), 4⟩ else ⟨0, 0⟩) ∧
          (∀ i : Fin 64, ∀ th : Fin 32, w.st.regs.v[i][th] = 0) ∧ (∀ i : Fin 16, w.st.regs.a[i] = ⟨0, 0, false⟩) ∧
          (∀ i : Fin 8, i ≠ 7 → w.st.regs.pred i = 0) ∧ (∀ i : Fin 4, i ≠ 3 → w.st.regs.kpred i = false) ∧
          w.st.regs.vEmpty = 0 ∧ w.st.regs.sEmpty = 0)
    ∧ (l.waits = true → corOf l.bytes = true → s.waited l ≥ 16 → ∃ t, exec (.coresidentReservation ln) s = .next t ∧
        t.launch? ln = some { l with reserved := true } ∧ ∀ m, m ≠ ln → t.launch? m = s.launch? m)
    ∧ (l.waits = false → l.running = 0 → ∃ t, exec (.launchComplete ln) s = .next t ∧ t.launch? ln = none ∧
        (∀ q y, Map.find? t.workQs q = some y → ∀ j ∈ y.jobs, j.launch ≠ some ln) ∧
        (∀ loc, l.cloc = some loc → let v := BitVec.ofNat 64 (pkField l.bytes 48 8)
          if isPeer loc then t.mem = s.mem ∧ t.heldStores = s.heldStores ++ [(loc, v)]
          else isAperture loc = false → t.mem = s.mem.writeBytes loc (natLe 8 v.toNat)) ∧
        (l.cloc = none → t.mem = s.mem))

/-- R203 to R205, R211: graphs and the take-over. A trigger adds a pending run, of at most 8; the oldest starts with its patches in the
graph's parameter block; a node starts once every source of its edges has completed; a run ends when its nodes have, and stores its
completion value, nowhere when the address does not translate by then, and while its translation is undefined, or the ports do not carry it, the run
does not end (log entries 45, DEDUCED, and 58, DESIGN CHOICE). A take-over makes the standby active; at its end the header of every registered queue has been read, and what was held
is released but for what a peer's endpoint still holds up, and for a trigger whose patches cannot be read yet. Where the manual leaves it open, this is the model's choice: log entries 45 (DEDUCED), 54
(DESIGN CHOICE), 62 (DESIGN CHOICE). -/
def Obligations.GraphRuns : Prop :=
  ∀ (s : State) (part gid : Nat) (g : Graph), gid < 65536 → Map.find? s.graphs (graphKey part gid) = some g →
    let key := graphKey part gid
    (∀ x ps, part < 32 → s.takeover = false → x.extractLsb' 48 16 = BitVec.ofNat 16 gid → x.extractLsb' 46 2 = 0 → g.pending.length < 8 →
      s.readPatches part g (64 * (x.extractLsb' 0 46).toNat) = some ps → s.trigAway part x = false →
      ∃ t, exec (.trig part x) s = .next t ∧ t.mem = s.mem ∧ Map.find? t.graphs key = some { g with pending := g.pending ++ [ps] })
    ∧ (∀ ps rest, s.takeover = false → g.run = none → g.pending = ps :: rest →
        let img := ps.foldl patchImage g.image
        let bs := (img.drop (paramOff img)).take (pkField img 4 4)
        let away := s.thAway part g.space needWrite (pkField img 8 8) (pkField img 4 4)
        (away = true → exec (.graphRunStart part gid) s = .next s) ∧
        (away = false → (∀ l, s.thSpans part g.space needWrite (pkField img 8 8) bs.length = .ok l → ∀ e ∈ l, isAperture e.1 = false) → ∃ t g', exec (.graphRunStart part gid) s = .next t ∧ Map.find? t.graphs key = some g' ∧ g'.image = img ∧ g'.pending = rest ∧
          ∃ r, g'.run = some r ∧ r.patches = ps ∧ r.started = [] ∧ r.done = []))
    ∧ (∀ r node, s.takeover = false → g.run = some r → node < nodesOf g.image → node ∉ r.started → (∀ e ∈ edgesOf g.image, e.2 = node → e.1 ∈ r.done) →
        let b := nodeBytes g.image node
        (∀ l, pkField b 4 4 % 4 = 0 → workMalformed b = false → groupsOf l.bytes ≠ 0 →
          s.launchOf part g.space g.tvec b (.node part gid node) = .ok l → ∃ t g', exec (.graphNodeStart part gid node) s = .next t ∧
            Map.find? t.launches s.nextLaunch = some l ∧ Map.find? t.graphs key = some g' ∧ g'.run = some { r with started := node :: r.started }) ∧
        (∀ t0, pkField b 4 4 % 4 ≠ 0 → s.postNode part gid node b = some t0 → exec (.graphNodeStart part gid node) s = .next (t0.markStarted part gid node)))
    ∧ (∀ r, g.run = some r → (∀ n, n < nodesOf g.image → n ∈ r.done) →
        (pkField g.image 16 8 = 0 → ∃ t, exec (.graphRunEnd part gid) s = .next t ∧ Map.find? t.graphs key = some { g with run := none } ∧ t.mem = s.mem) ∧
        (pkField g.image 16 8 ≠ 0 → s.thAway part g.space needWrite (pkField g.image 16 8) 8 = true → exec (.graphRunEnd part gid) s = .next s) ∧
        (pkField g.image 16 8 ≠ 0 → s.thAway part g.space needWrite (pkField g.image 16 8) 8 = false →
          s.thLoc part g.space needWrite (pkField g.image 16 8) 8 = none →
          ∃ t, exec (.graphRunEnd part gid) s = .next t ∧ Map.find? t.graphs key = some { g with run := none } ∧ t.mem = s.mem) ∧
        (∀ loc, pkField g.image 16 8 ≠ 0 → s.takeover = false → s.thAway part g.space needWrite (pkField g.image 16 8) 8 = false → s.thLoc part g.space needWrite (pkField g.image 16 8) 8 = some loc →
          let v := BitVec.ofNat 64 (pkField g.image 24 8)
          ∃ t, exec (.graphRunEnd part gid) s = .next t ∧ (isAperture loc = false → Map.find? t.graphs key = some { g with run := none }) ∧
            if isPeer loc then t.mem = s.mem ∧ t.heldStores = s.heldStores ++ [(loc, v)]
            else isAperture loc = false → t.mem = s.mem.writeBytes loc (natLe 8 v.toNat)))
    ∧ (s.takeover = false → ∃ t, exec .takeOver s = .next t ∧ t.takeover = true ∧ t.active = 1 - s.active ∧ t.mem = s.mem ∧ t.waves = s.waves)
    ∧ (s.takeover = true →
      ∃ t, exec .takeOver s = .next t ∧ t.takeover = false ∧ t.active = s.active ∧
        t.heldStores = s.heldStores.filter (fun e => isPeer e.1) ∧
        ((∀ e ∈ s.workQs, s.reach e.2.hdr = true ∧ (s.widx e.2 - e.2.ridx).toNat ≤ e.2.size ∧ (s.widx e.2 - e.2.ridx).toNat < 2 ^ 31) →
          s.heldStores = [] → t.mem = s.mem ∧ t.launches = s.launches ∧ t.groups = s.groups ∧ t.kicks = s.kicks ∧
            t.heldTrigs = s.heldTrigs.filter (fun e => s.trigAway e.1 e.2) ∧
            (∀ q x, Map.find? s.workQs q = some x → Map.find? t.workQs q = some { x with seen := s.widx x }) ∧
            ∀ q x, Map.find? s.svcQs q = some x → Map.find? t.svcQs q = some { x with seen := s.widx x }))

/-- R140, R141, R149, R235, R236, R245, R258 to R260, R388: the service operations. QREG registers a queue in RUN with a read index of 0;
QSET returns a stopped queue to RUN, with its failed slot kept or skipped; PEEK writes a parked wave's state, in which a register whose
sector is still returning shows a free value; RESOLVE resumes it, at a new TRPC when it gives one, or kills it; KILL kills a launch and
its waves; ZERO, of the hypervisor's queue, zeroes its range when it completes. A packet whose response address, or whose range, has no defined
translation, or is not reached, stays at the head (log entry 58, DESIGN CHOICE). Where the manual leaves it open, this is the model's
choice: log entries 30 (DESIGN CHOICE), 31 (DESIGN CHOICE), 48 (DEDUCED). -/
def Obligations.ServiceOperations : Prop :=
  ∀ (s : State) (q : Nat) (x : Queue) (b : List Byte), s.takeover = false → Map.find? s.svcQs q = some x → s.head? x = some b → pkField b 0 3 = 0 →
    (s.thUndef x.owner x.space needWrite (pkField b 8 8) 8 = true →
      ∀ i ∈ [Instr.qreg q, .qset q, .peek q, .resolve q, .kill q, .zero q], exec i s = .next s) ∧
    (s.thUndef x.owner x.space needWrite (pkField b 8 8) 8 = false →
    let s1 := ((s.journalise (.queue 3 q (x.ridx + 1) x.st)).popSlot 64 x).setSvc q { x with ridx := x.ridx + 1 }
    let num := pkField b 16 2
    (svcOp b = 1 → let r := regOf b
      (s.regAway r = true → exec (.qreg q) s = .next s) ∧
      (r.ok = true → s.regAway r = false → (q = 32 ∨ r.owner = q) → r.kind = 0 → Map.find? s1.copyQs r.num = none → ∀ ring hdr err,
        s1.regRange r r.ring (64 * 2 ^ r.log2) = some ring → s1.regRange r r.hdr 128 = some hdr → s1.regRange r r.err 32 = some err →
        ∃ t y, exec (.qreg q) s = .next t ∧ Map.find? t.copyQs r.num = some y ∧ y.st = .run ∧ y.ridx = 0 ∧ y.owner = r.owner ∧ y.size = 2 ^ r.log2 ∧
          y.ring = ring ∧ y.hdr = hdr ∧ y.err = err ∧ y.jobs = [] ∧ y.reg = s1.regs ∧ t.regs = s1.regs + 1))
    ∧ (svcOp b = 2 → pkField b 18 1 = 0 → pkField b 20 1 ≤ 1 → ∀ y, Map.find? s1.copyQs num = some y → (q = 32 ∨ y.owner = q) →
        (∀ z, Map.find? s.copyQs num = some z → s.spansAway [(z.hdr + 64, 4)] = false) →
        (pkField b 19 1 = 0 → y.st ≠ .run → y.badJoined = false → ∃ t y', exec (.qset q) s = .next t ∧ Map.find? t.copyQs num = some y' ∧
          y'.st = .run ∧ y'.ridx = y.ridx + (if pkField b 20 1 = 1 then 1 else 0)) ∧
        (pkField b 19 1 = 1 → ∃ t y', exec (.qset q) s = .next t ∧ Map.find? t.copyQs num = some y' ∧ y'.st = .stop ∧ y'.ridx = y.ridx) ∧
        (pkField b 19 1 = 2 → y.jobs = [] → y.joined = [] → ∃ t, exec (.qset q) s = .next t ∧ Map.find? t.copyQs num = none))
    ∧ (∀ u w, s1.waveAt q num (pkField b 18 1) (pkField b 19 1) = some (u, w) → ∀ tr, w.st.trap = some tr → tr.running = false →
        (svcOp b = 3 → s.thAway x.owner x.space needWrite (pkField b 24 8) 12288 = true → exec (.peek q) s = .next s) ∧
        (∀ l, svcOp b = 3 → s.thAway x.owner x.space needWrite (pkField b 24 8) 12288 = false →
          s1.thSpans x.owner x.space needWrite (pkField b 24 8) 12288 = .ok l → (∀ y ∈ l, s1.deafAt y.1 = false) → ∃ (r : Regs) (n : Nat),
          exec (.peek q) s = .next (({ s1 with freeCtr := n }.storeSpans 64 l (peekBytes { w with st := { w.st with regs := r } })).respond
            (s.respLoc x b) stDone) ∧
          r = { w.st.regs with s := r.s, v := r.v } ∧ (w.inflight = [] → n = s1.freeCtr) ∧
          (∀ i : Fin 32, (∀ y ∈ w.inflight, ∀ d, y.dst = some d → Dst.s i.val ∉ d.span y.nreg) → r.s[i] = w.st.regs.s[i]) ∧
          (∀ i : Fin 64, (∀ y ∈ w.inflight, ∀ d, y.dst = some d → Dst.v i.val ∉ d.span y.nreg) → r.v[i] = w.st.regs.v[i])) ∧
        (svcOp b = 4 → s.resolveAway q b = false → (tr.route ≠ .h ∨ q = 32) → w.st.trcause.getLsbD 17 = false →
          (pkField b 20 1 = 2 → (s1.core w.core).run = none → ∃ t w', exec (.resolve q) s = .next t ∧ t.wave? u = some w' ∧ w'.killedBy = true ∧ w'.ending = true) ∧
          ((pkField b 20 1 = 0 ∨ pkField b 20 1 = 1) → w.st.trcause.getLsbD 27 = false → (s1.core w.core).run = none →
            ∃ t w', exec (.resolve q) s = .next t ∧ t.wave? u = some w' ∧ w'.st.trap = none ∧ w'.st.regs = w.st.regs ∧
              ∀ i, i < 8 → ∀ y, tr.saved.find? (fun y => y.sl == i) = some y → y.past = false → w.st.trcause.getLsbD 26 = false →
                (w'.st.slice i).pc = w.st.tx + (if pkField b 24 4 = 0 then w.st.trpc else BitVec.ofNat 32 (pkField b 24 4)).zeroExtend 64
                  + (if pkField b 20 1 = 1 ∧ w.st.trcause.getLsbD 28 = false then 4 else 0))))
    ∧ (svcOp b = 5 → ∀ y ln l, Map.find? s1.workQs num = some y → (q = 32 ∨ y.owner = q) →
        List.find? (fun (e : Nat × Launch) => decide (e.2.origin = .queue num (BitVec.ofNat 32 (pkField b 20 4)))) s1.launches = some (ln, l) →
        ∃ t l', exec (.kill q) s = .next t ∧ t.launch? ln = some l' ∧ l'.killed = true ∧ l'.waits = false ∧
          ∀ u w g, s1.wave? u = some w → w.plain = true → s1.group? w.group = some g → g.launch = ln → ∃ w', t.wave? u = some w' ∧ w'.killedBy = true)
    ∧ (svcOp b = 6 → q = 32 → pkField b 16 8 + 65536 * pkField b 24 8 ≤ hbmBytes →
        ∃ t, exec (.zero q) s = .next t ∧ t.zeroing = s1.zeroing ++ [{ base := pkField b 16 8, len := 65536 * pkField b 24 8, resp := s.respLoc x b }])
    ∧ (∀ i z, s.zeroing[i]? = some z → z.resp = none → ∃ t, exec (.zeroComplete i) s = .next t ∧ t.zeroing = s.zeroing.eraseIdx i ∧
        (∀ l, z.base ≤ l → l < z.base + z.len → t.mem.read l = 0) ∧ ∀ l, (l < z.base ∨ z.base + z.len ≤ l) → t.mem.read l = s.mem.read l))

/-! ### Pre-emption, errors, power, layout and service life -/

/-- R45, R209, R246, R247, R267: the quantum's end pre-empts a partition that has another context: its clusters halt, and every wave that
is not pinned stands at its checkpoint, its trap discarded; pinned ones issue on. Once the clusters are quiet, each core's context and
that of its Cistern change places (waves, registers, buffers, image, tables, run, reservations, control store and configuration), and the
clusters go on. During a take-over neither happens (R211). Pinned waves that stay unclean are reported after 65,536 cycles. A gang that is ready and
has starved for 256 cycles, which the model counts in halves, is put first on the agenda: log entry 3 (DESIGN CHOICE). Where the manual leaves it
open, this is the model's choice: log entries 44 (DEDUCED), 54 (DESIGN CHOICE). -/
def Obligations.Preemption : Prop :=
  ∀ (s : State) (p : Nat), let cs := s.clustersOf p
    (s.takeover = false → (Map.find? s.quanta p).getD 0 ≥ 2344 → s.contextDue p = true → cs ≠ [] → (∀ c ∈ cs, (s.cluster c).halted = false) →
      ∃ t, exec (.timeQuantumExpiry p) s = .next t ∧ Map.find? t.preempt p = some (s.partCycles p) ∧ (∀ c ∈ cs, (t.cluster c).halted = true) ∧
        (Map.sorted s.waves = true → (∀ e ∈ s.waves, e.2.ckRun = false) → (∀ k, (s.core k).run = none ∧ (s.core k).eng = [] ∧ (s.core k).baton = none) →
          ∀ u w, s.wave? u = some w → w.plain = true → clusterOf w.core ∈ cs → w.killedBy = false → ∃ w', t.wave? u = some w' ∧
            (w.pinned = true → w'.st = w.st ∧ w'.ck = w.ck ∧ w'.inflight = w.inflight) ∧
            (w.pinned = false → w'.st.regs = w.ck.regs ∧ w'.st.live = w.ck.live ∧ w'.st.trap = w.ck.trap ∧ w'.held = [] ∧
              w'.regLog = [] ∧ w'.memLog = [] ∧ w'.inflight = w.inflight.filter (·.survives) ∧ (∀ sl, t.canIssue w' sl = false) ∧
              ∀ i, i < 8 → (w'.st.slice i).pc = (w.ck.slice i).pc ∧ (w'.st.slice i).mask = (w.ck.slice i).mask ∧
                (w'.st.slice i).modex = (w.ck.slice i).modex ∧ (w'.st.slice i).modem = (w.ck.slice i).modem)))
    ∧ (s.takeover = true ∨ (Map.find? s.quanta p).getD 0 < 2344 → exec (.timeQuantumExpiry p) s = .next s)
    ∧ (s.takeover = true → exec (.cisternSwap p) s = .next s)
    ∧ (s.takeover = false → (Map.find? s.preempt p).isSome = true → s.quiet cs = true → ∃ t, exec (.cisternSwap p) s = .next t ∧ Map.find? t.preempt p = none ∧
        Map.find? t.quanta p = none ∧ (∀ c ∈ cs, (t.cluster c).halted = false) ∧
        (s.BytesOk → (∀ k ∈ cs.flatMap coresOf, (s.core k).eng = []) → (∀ x ∈ s.stored, x.part ≠ p) → (∀ k x, (s.core k).cistern = some x → ∀ e ∈ x.waves, s.wave? e.1 = none) →
          ∀ k ∈ cs.flatMap coresOf,
            let held (x : CoreSt) := (x.tags, x.ce, x.cq, x.image, x.handles, x.bars, x.baton, x.batonQ, x.run, x.runCk, x.runQ, x.status, x.shuntUp, x.shuntDn, x.macs, x.interval)
            let kept (x : Context) := (x.tags, x.ce, x.cq, x.image, x.handles, x.bars, x.baton, x.batonQ, x.run, x.runCk, x.runQ, x.status, x.shuntUp, x.shuntDn, x.macs, x.interval)
            (s.occupied k = true → ∃ y, (t.core k).cistern = some y ∧ y.waves = s.wavesOn k ∧ kept y = held (s.core k) ∧
              (∀ i, i < coreWindow → Mem.read y.bytes i = s.mem.read (locS k + i)) ∧
              (k % 8 = 0 → y.thrcfg = (s.cluster (k / 8)).thrcfg ∧ y.balcfg = (s.cluster (k / 8)).balcfg)) ∧
            (∀ x, (s.core k).cistern = some x → (x.waves.map (·.1)).Nodup →
              (∀ k' x', k' ≠ k → (s.core k').cistern = some x' → ∀ e ∈ x.waves, e.1 ∉ x'.waves.map (·.1)) →
              held (t.core k) = kept x ∧ (∀ e ∈ x.waves, t.wave? e.1 = some { e.2 with core := k }) ∧
              (∀ i, i < coreWindow → t.mem.read (locS k + i) = Mem.read x.bytes i) ∧
              (k % 8 = 0 → (t.cluster (k / 8)).thrcfg = x.thrcfg ∧ (t.cluster (k / 8)).balcfg = x.balcfg)) ∧
            (s.occupied k = true → (s.core k).cistern = none → t.wavesOn k = [] ∧ ∀ i, i < coreWindow → t.mem.read (locS k + i) = 0)))
    ∧ (∀ n, Map.find? s.preempt p = some n → s.partCycles p ≥ n + 65536 → (∃ e ∈ s.wavesIn cs, e.2.pinned = true ∧ s.clean e.1 = false) →
        exec (.pinnedTimeout p) s = .next (s.note (.pinned p)))
    ∧ (∀ n, Map.find? s.preempt p = some n → s.partCycles p < n + 65536 → exec (.pinnedTimeout p) s = .next s)
    ∧ (∀ u w sl, s.wave? u = some w → s.ready w sl = true → (Map.find? w.starved sl).getD 0 ≥ 512 →
        exec (.starvationPriority u sl) s = .next { s with agenda := .issue u sl :: s.agenda })

/-- R17, R244, R245, R265, R266: errors. An uncorrectable error in a register of any file that the wave's undo log holds rolls the wave
back to its checkpoint; in one that it does not hold it parks the wave with UCE and UNR; one in a stored sector poisons it, and one in a
cached sector drops it. A corrected error adds one to its bucket, a leak takes one from each. A closed region of Lantern's is replayed
from its checkpoint by a hidden wave on the other column; at its `rgn.e` the signatures are compared: nothing is said of a match, a
mismatch is reported, and the replay after it charges the core that disagrees. Which registers enter the signature, and how they are laid out, is
log entry 27 (DESIGN CHOICE). Where the manual leaves it open, this is the model's choice: log entries 36 (DESIGN CHOICE), 38 (DEDUCED),
39 (DEDUCED). -/
def Obligations.ErrorHandling : Prop :=
  ∀ (s : State),
    let stored (u : Nat) (site : ErrSite) (x : RegId) : Prop :=
      (∃ n : Fin 64, site = .vreg u n ∧ x = .v n.val) ∨ (∃ n : Fin 32, site = .sreg u n ∧ x = .s n.val) ∨
      (∃ n : Fin 16, site = .areg u n ∧ x = .a n.val) ∨ (∃ n : Fin 7, site = .preg u n ∧ x = .p n.val) ∨
      (∃ n : Fin 3, site = .kreg u n ∧ x = .k n.val) ∨ (∃ n : Fin 8, site = .breg u n ∧ x = .b n.val)
    (∀ u w site x, stored u site x → s.wave? u = some w → w.killedBy = false → w.plain = true →
      (x ∈ w.regLog → w.pinned = false → (s.core w.core).run = none → w.ckRun = false → w.memLog = [] → w.bufLog = [] → w.tileLog = [] →
        (s.core w.core).eng = [] → (s.core w.core).baton ≠ some u →
        ∃ t w', exec (.uceConsumed site) s = .next t ∧ t.wave? u = some w' ∧ w'.st.regs = w.ck.regs ∧ w'.st.live = w.ck.live ∧ t.mem = s.mem ∧
          w'.regLog = [] ∧ t.events = .error site :: s.events) ∧
      (x ∉ w.regLog → w.st.trap = none → w.st.unfinished ≠ [] →
        ∃ t w', exec (.uceConsumed site) s = .next t ∧ t.wave? u = some w' ∧ (w'.st.trcause.extractLsb' 0 8).toNat = 0x40 ∧
          w'.st.trcause.getLsbD 17 = true ∧ w'.st.inHandler = false ∧ w'.st.trap.isSome = true ∧ w'.st.regs = w.st.regs) ∧
      (x ∉ w.regLog → w.st.trap.isSome = true → exec (.uceConsumed site) s =
        .next ((s.updWave u (fun w => { w with held := w.held ++ [(.uce, 0, true)] })).note (.error site))))
    ∧ (∀ k, ∃ t, exec (.uceConsumed (.store k)) s = .next t ∧ (∀ x, x ∈ t.poison ↔ x ∈ s.poison ∨ x = k) ∧ t.mem = s.mem)
    ∧ (∀ core k, ∃ t, exec (.uceConsumed (.dcache core k)) s = .next t ∧ Map.find? (t.core core).dcache k = none ∧ t.mem = s.mem)
    ∧ (∀ core l, ∃ t, exec (.uceConsumed (.icache core l)) s = .next t ∧ Map.find? (t.core core).icache l = none ∧ t.mem = s.mem)
    ∧ (∀ k, exec (.uceConsumed (.cleanL2 k)) s = .next s)
    ∧ (∀ b, ∃ t, exec (.correctedError b) s = .next t ∧ t.bucket b = s.bucket b + 1 ∧ (∀ d, d ≠ b → t.bucket d = s.bucket d) ∧
        (t.events ≠ s.events → t.events = .predictive b :: s.events ∧ s.bucket b + 1 ≥ (s.lbcfg.extractLsb' 0 16).toNat))
    ∧ (s.lbcfg.extractLsb' 16 16 ≠ 0 → (s.buckets.map (·.1)).Nodup → ∃ t, exec .leak s = .next t ∧ ∀ b, t.bucket b = s.bucket b - 1)
    ∧ (s.lbcfg.extractLsb' 16 16 = 0 → exec .leak s = .next s)
    ∧ (∀ cl i err third x, Map.find? (s.cluster cl).lant i = some x →
        (x.closed = false → exec (.auditReplay cl i err third) s = .next s) ∧
        (∀ k q slot, x.closed = true → x.replay = none →
          ((x.second = none ∨ third = none) ∧ s.replayCore x = some (k, q, slot) ∨ x.second.isSome = true ∧ third = some k ∧ clusterOf k = cl ∧
            (s.col (colOf k)).power = .on ∧ (s.col (colOf k)).stopped = false ∧ s.roomFor k x.valloc = some (q, slot)) →
          ∃ t, exec (.auditReplay cl i err third) s = .next t ∧
          (x.second = none → colOf k = otherCol (colOf x.core)) ∧ t.mem = s.mem ∧ (∀ u, u ≠ s.nextWave → t.wave? u = s.wave? u) ∧
          (∃ st : WaveCore, t.wave? s.nextWave = some { Wave.init st k q slot x.group none x.valloc with hidden := some i, pinned := true } ∧
            st = { x.ck with seen := st.seen } ∧ ∀ y ∈ x.ck.seen, y ∈ st.seen) ∧
          Map.find? (t.cluster cl).lant i = some { x with replay := some s.nextWave, resig := err, restores := [] }))
    ∧ (∀ (c : Ctx) i x, Issues s c → c.Allowed .rgnE false [] → c.w.st.fullMember c.sl = true → c.w.st.region = true → c.r.allFull = true →
        c.w.hidden = some i → Map.find? (s.cluster (clusterOf c.w.core)).lant i = some x →
        let cl := clusterOf c.w.core
        let sig := addRecords x.resig ((List.range c.w.valloc).map (regRecord c.r))
        ∃ t, exec .rgnE s = .next t ∧ t.wave? c.u = none ∧
          (x.second = none → sig = x.sig → t.events = s.events ∧ t.mem = s.mem ∧ Map.find? (t.cluster cl).lant i = none) ∧
          (x.second = none → sig ≠ x.sig → t.events = .aud cl :: s.events ∧
            Map.find? (t.cluster cl).lant i = some { x with replay := none, second := some (c.w.core, sig) }) ∧
          (∀ k2 sig2, x.second = some (k2, sig2) → t.mem = s.mem ∧ Map.find? (t.cluster cl).lant i = none ∧
            ∀ d, t.bucket d = s.bucket d +
              (if sig = x.sig ∧ d = .cluster (clusterOf k2) ∨ sig ≠ x.sig ∧ sig = sig2 ∧ d = .cluster (clusterOf x.core) then 1 else 0)))

/-- R214, R218 to R221, R223, R228, R229: rails, columns and operating points. A reading is clamped and kept; where its size is at T1 or above it calls for
the throttle of the heavier core, the lower one above zero and the upper one below, and at T2 or above it disarms the rail. Throttles engage, columns restart, are gated and wake in sixteen granted
steps; the eight phases of a rail fail and are counted, and from the third on its column is retired; want of cooling lowers points and throttles cores;
points change when no change goes on; THRCFG takes an ordered value alone, and a zero in COLSTAT.TEVT clears it. Where the manual leaves
it open, this is the model's choice: log entries 33 (DEDUCED), 35 (DESIGN CHOICE), 36 (DESIGN CHOICE), 40 (DEDUCED), 41 (DEDUCED). -/
def Obligations.PowerHappenings : Prop :=
  ∀ (s : State) (col m : Nat), col < 128 → m < 3 →
    let k := s.col col
    let other := s.col (otherCol col)
    (∀ r, k.power = .on → k.stopped = false → (s.rail col m).above < 3 → ∃ t, exec (.railReading col m r) s = .next t ∧
      (t.rail col m).reading = max (-32767) (min r 32767) ∧ (t.rail col m).above ≤ 3 ∧ t.mem = s.mem ∧
      ((s.rail col m).failed = 0 → (s.core (4 * col + m)).shuntUp = 0 → r > 0 →
        (min r 32767 ≥ (((s.cluster (col / 2)).thrcfg.extractLsb' 16 8).toNat : Int) →
          (t.core (4 * col + m)).thrUp = true ∨ (t.core (4 * col + m)).pendUp = true) ∧
        (min r 32767 ≥ (((s.cluster (col / 2)).thrcfg.extractLsb' 8 8).toNat : Int) → (s.rail col m).armed = true → (t.rail col m).armed = false)) ∧
      ((s.rail col m).failed = 0 → (s.core (4 * col + m + 1)).shuntDn = 0 → r < 0 →
        (min (-r) 32767 ≥ (((s.cluster (col / 2)).thrcfg.extractLsb' 16 8).toNat : Int) →
          (t.core (4 * col + m + 1)).thrDn = true ∨ (t.core (4 * col + m + 1)).pendDn = true) ∧
        (min (-r) 32767 ≥ (((s.cluster (col / 2)).thrcfg.extractLsb' 8 8).toNat : Int) → (s.rail col m).armed = true → (t.rail col m).armed = false)))
    ∧ (∃ t, exec (.throttle col m) s = .next t ∧ (t.core (4 * col + m)).pendUp = false ∧ (t.core (4 * col + m + 1)).pendDn = false ∧
        ((s.core (4 * col + m)).pendUp = true → (t.core (4 * col + m)).thrUp = true) ∧
        ((s.core (4 * col + m + 1)).pendDn = true → (t.core (4 * col + m + 1)).thrDn = true))
    ∧ (k.stopped = true → k.failing = false → exec (.columnRestart col) s = .next (s.setCol col { k with stopped := false }))
    ∧ ((s.rail col m).failed ≤ 1 → ∃ t, exec (.phaseFailure col m) s = .next t ∧ (t.rail col m).failed = (s.rail col m).failed + 1 ∧
        t.events = .phase col m :: s.events)
    ∧ ((s.rail col m).failed ≥ 8 → exec (.phaseFailure col m) s = .next s)
    ∧ ((s.rail col m).failed ≥ 2 → (s.rail col m).failed < 8 → ∃ t, exec (.phaseFailure col m) s = .next t ∧
        (t.rail col m).failed = (s.rail col m).failed + 1)
    ∧ (s.takeover = false → (s.rail col m).failed ≥ 2 → (s.rail col m).failed < 8 → k.power ≠ .retired → s.partOf (col / 2) = none → (s.cluster (col / 2)).halted = true → s.quiet [col / 2] = true →
        ∃ t, exec (.phaseFailure col m) s = .next t ∧ (t.col col).power = .retired ∧ (t.rail col m).failed ≥ 3)
    ∧ (k.power = .on → (∀ c ∈ colCores col, s.occupied c = false) → ∃ t, exec (.columnGate col) s = .next t ∧ (t.col col).power = .gated ∧
        ∀ c ∈ colCores col, (t.core c).mirror = none)
    ∧ (k.power = .waking → k.wakePending = true →
        (other.current + 50 ≤ 1600 → ∃ t, exec (.inrushGrant col) s = .next t ∧ (t.col col) = { k with wakePending := false } ∧
          ∀ c ∈ colCores (otherCol col), (t.core c).thrWake = false ∧ (t.core c).thrCool = (s.core c).thrCool) ∧
        (other.current + 50 > 1600 → exec (.inrushGrant col) s = .next s) ∧
        ∃ t, exec (.wakeStepWait col) s = .next t ∧ t.cols = s.cols ∧ ∀ c ∈ colCores (otherCol col), (t.core c).thrWake = true ∧
          ((s.core c).thrWake = false → (t.core c).tevt = min ((s.core c).tevt + 1) 255 ∧ Event.throttle c ∈ t.events))
    ∧ (k.power = .waking → k.wakePending = false → ∃ t, exec (.wakeStepEnd col) s = .next t ∧
        (k.step + 1 < 16 → t.col col = { k with step := k.step + 1, wakePending := true }) ∧
        (k.step + 1 ≥ 16 → (t.col col).power = .on ∧ (t.col col).step = 0 ∧ ∀ n, n < 3 → ((t.col col).rail n).armed = true))
    ∧ (∀ c x, ∃ t, exec (.islpt c x) s = .next t ∧
        ((s.cluster c).islBusy = false → (t.cluster c).islReq = x.extractLsb' 0 2 ∧ (t.cluster c).islCur = x.extractLsb' 4 2 ∧
          (t.cluster c).islBusy = (x.getLsbD 31 || decide (x.extractLsb' 0 2 ≠ (s.cluster c).islCur))) ∧
        ((s.cluster c).islBusy = true → (t.cluster c).islNext = some x ∧ (t.cluster c).islReq = (s.cluster c).islReq ∧
          (t.cluster c).islCur = (s.cluster c).islCur ∧ (t.cluster c).islBusy = true))
    ∧ (∀ c, (s.cluster c).islBusy = true → ∃ t, exec (.islptChangeDone c) s = .next t ∧ (t.cluster c).islNext = none ∧
        ((s.cluster c).islNext = none → (t.cluster c).islCur = (s.cluster c).islReq ∧ (t.cluster c).islBusy = false) ∧
        ∀ x, (s.cluster c).islNext = some x → (t.cluster c).islReq = x.extractLsb' 0 2 ∧ (t.cluster c).islCur = x.extractLsb' 4 2)
    ∧ (∀ c, ∃ t, exec (.coolingShortfall c 4) s = .next t ∧ ∀ n ∈ coresOf c, (t.core n).thrCool = true ∧ (t.core n).thrWake = (s.core n).thrWake)
    ∧ (∀ c, ∃ t, exec (.coolingShortfall c 5) s = .next t ∧ ∀ n ∈ coresOf c, (t.core n).thrCool = false ∧ (t.core n).thrWake = (s.core n).thrWake)
    ∧ (∀ c (q : BitVec 2), q < (s.cluster c).islCur → (s.cluster c).islBusy = false → ∃ t, exec (.coolingShortfall c q.toNat) s = .next t ∧
        (t.cluster c).islReq = q ∧ (t.cluster c).islBusy = true)
    ∧ (∀ c x, ∃ t, exec (.thrcfgWrite c x) s = .next t ∧
        let t1 := (x.extractLsb' 16 8).toNat
        let t2 := (x.extractLsb' 8 8).toNat
        let hy := (x.extractLsb' 0 8).toNat
        (t.cluster c).thrcfg = if hy < t1 ∧ t1 < t2 ∧ t2 ≤ 200 then x &&& 0x00FFFFFF else (s.cluster c).thrcfg)
    ∧ (∀ n x, ∃ t, exec (.colstatWrite n x) s = .next t ∧ (t.core n).tevt = if x.extractLsb' 24 8 = 0 then 0 else (s.core n).tevt)

/-- R19, R229, R251, R253 to R256, R261 to R264, R267 to R269: layout and service life. A commit applies the staged layout whole or not
at all, and drops what the caches of a moved cluster hold; a restart of Basecamp loads the best image, discards what is staged and
applies a commit whose record stands; while no image of Basecamp's runs, its registers and its acts do nothing (log entry 33, DEDUCED). FABID waits for idle
ports, LBCFG takes what is stored there. A package reset runs, of each pair of images, the highest version that OTP admits, numbers the
clusters that pass, and trains the ports when every pair has one; OTP's version rises to at most the running one. A report is laid out as
R262 has it. An island powers up as at reset, but for phases lost and columns retired. A self-test drains, empties and returns, or
retires, and is skipped where a co-resident launch cannot move whole (log entry 44, DEDUCED). A spare takes a retired cluster's place, and lines that are lost
are poisoned. An inbound request acts on the spans that its window and stage 2 give, or is refused, or stays while stage 2 is undefined (log entry 58, DESIGN
CHOICE); one that reads poison changes nothing. Where the
manual leaves it open, this is the model's choice: log entries 13 (DESIGN CHOICE), 34 (DEDUCED), 42 (DEDUCED), 49 (DESIGN CHOICE), 50 (DESIGN
CHOICE); that a request which stage 2 does not translate is refused whole is 51 (DEDUCED), and that the layout's hash is that of FIPS 180-4 is 64
(PRESUMED). -/
def Obligations.LayoutAndServiceLife : Prop :=
  ∀ (s : State) (x : Word) (c : Nat),
    let up := s.booted.isSome = true
    let best (p : ImgPair) (v : Nat) : Prop := (p.a = some v ∨ p.b = some v) ∧ s.otpMin ≤ v ∧ ∀ w, p.a = some w ∨ p.b = some w → w ≤ v
    let none_ (p : ImgPair) : Prop := ∀ w, p.a = some w ∨ p.b = some w → w < s.otpMin
    (up → x.extractLsb' 0 16 = s.gen + 1 → s.sgen = 0 →
      ∃ t, exec (.laystg x) s = .next t ∧ t.shadow = s.live ∧ t.sgen = s.gen + 1 ∧ t.live = s.live)
    ∧ (up → ¬ (x.extractLsb' 0 16 = s.gen + 1 ∧ s.sgen = 0) → exec (.laystg x) s = .next { s with res := 1 })
    ∧ (up → s.commitRec = true ∨ s.layCheck x = 0 → ∃ t, exec (.laycmt x) s = .next t ∧ t.live = s.shadow ∧ t.gen = s.gen + 1 ∧ t.sgen = 0 ∧
        t.res = 0 ∧ t.commitRec = false ∧ t.mem = s.mem ∧ ∀ d ∈ s.movedClusters, ∀ n ∈ coresOf d, (t.core n).dcache = [] ∧ (t.core n).icache = [])
    ∧ (up → s.commitRec = false → s.layCheck x ≠ 0 → exec (.laycmt x) s = .next { s with res := BitVec.ofNat 2 (s.layCheck x) })
    ∧ (up → exec (.fabid x) s = .next (if s.portsIdle then { s with fabid := x &&& 0x800003FF, fabNext := none }
        else { s with fabNext := some (x &&& 0x800003FF) }))
    ∧ (up → ∀ d : DWord, exec (.registerWrite (apBase + 0x14) 4 d) s = .next { s with lbcfg := d.truncate 32 })
    ∧ (∀ v, up → best s.images.basecamp v → ∃ t, exec .basecampRestart s = .next t ∧ t.booted = some v ∧ t.bootcnt = s.bootcnt + 1 ∧ t.sgen = 0 ∧
        t.live = (if s.commitRec then s.shadow else s.live) ∧ t.gen = (if s.commitRec then s.gen + 1 else s.gen))
    ∧ (up → none_ s.images.basecamp → exec .basecampRestart s = .next { s with booted := none })
    ∧ (s.booted = none → ∀ i ∈ [Instr.laystg x, .laycmt x, .fabid x, .basecampRestart], exec i s = .next s)
    ∧ (s.booted = none → ∀ o n d, o < 2 ^ 24 → exec (.registerWrite (apBase + o) n d) s = .next s)
    ∧ (∀ pa n d, isAperture pa = false → exec (.registerWrite pa n d) s = .next s)
    ∧ (∀ pass slotA slotB, let found := Images.ofSlots slotA slotB
        ∃ t, exec (.packageReset pass slotA slotB) s = .next t ∧ t.otpMin = s.otpMin ∧ t.fuses = s.fuses ∧ t.hss = s.hss ∧ t.mem = [] ∧
        t.images = found ∧ (∀ v, best found.basecamp v → t.booted = some v) ∧ (none_ found.basecamp → t.booted = none) ∧
        (t.portsUp = true ↔ ¬ none_ found.basecamp ∧ ¬ none_ found.trailhead ∧ ¬ none_ found.copyEng ∧ ¬ none_ found.unfoldEng) ∧
        (¬ none_ found.basecamp → ∀ die i p, die < 4 → ((List.range 17).filter (fun p => pass.contains (17 * die + p)))[i]? = some p →
          (i < 16 → (t.cluster (16 * die + i)).phys = some p) ∧ (i = 16 → Map.find? t.spares die = some p)))
    ∧ (∀ v n, s.booted = some v → ∃ t, exec (.otpMinimumVersionRaise n) s = .next t ∧
        t.otpMin = (if s.otpMin ≤ n ∧ n ≤ v then n else s.otpMin) ∧ t.booted = s.booted ∧ t.mem = s.mem)
    ∧ (∀ nonce : List Byte, nonce.length = 32 → up → s.hss < 2 ^ 20 → ∃ t rep, exec (.attestationReport nonce) s = .next t ∧
        t.hss = s.hss + 1 ∧ t.fuses = (if s.hss % 1024 = 0 then s.fuses + 1 else s.fuses) ∧ t.events = .report rep :: s.events ∧ rep.length = 3196 ∧
        rep.take 32 = nonce ∧ (rep.drop 32).take 160 = (List.range 32).map Config.identityByte ++ s.imageHashes ∧
        (rep.drop 192).take 8 = natLe 4 s.gen.toNat ++ natLe 4 s.otpMin ∧ (rep.drop 200).take 32 = sha256 s.live.bytes)
    ∧ (∀ nonce : List Byte, s.booted = none → exec (.attestationReport nonce) s = .next s)
    ∧ (c < 64 → s.vacant c = true → ∃ t, exec (.islandPowerUp c) s = .next t ∧ (∀ n ∈ coresOf c, t.core n = CoreSt.init) ∧
        (t.cluster c).phys = (s.cluster c).phys ∧ (t.cluster c).retired = (s.cluster c).retired ∧ (t.cluster c).thrcfg = 0x0064AF19 ∧
        (t.cluster c).islCur = 2 ∧ ∀ i, i < 2 → let k := s.col (2 * c + i)
          (t.col (2 * c + i)).power = (if k.power = .retired then .retired else .gated) ∧ (t.col (2 * c + i)).stopped = false ∧
          ∀ m, m < 3 → ((t.col (2 * c + i)).rail m).failed = (k.rail m).failed)
    ∧ (s.testing = none → s.testNext = c → (s.cluster c).phys.isSome = true → (s.cluster c).retired = false → s.partOf c = none →
        ∃ t, exec .selfTestDrain s = .next t ∧ t.testing = some c ∧ (t.cluster c).draining = true ∧ t.testNext = (c + 1) % 64)
    ∧ (s.testing = none → s.testNext = c → (∃ p, s.partOf c = some p ∧ (s.clustersOf p = [c] ∨ s.corStuck p c = true)) →
        exec .selfTestDrain s = .next { s with testNext := (c + 1) % 64 })
    ∧ (s.takeover = true → exec .selfTestPreempt s = .next s)
    ∧ (∀ p, s.takeover = false → s.testing = some c → s.partOf c = some p → c < 64 → Map.find? s.preempt p = none →
        (s.corStuck p c = false → (∀ d ∈ s.clustersOf p, (s.cluster d).halted = false) → ∃ t, exec .selfTestPreempt s = .next t ∧
          ∀ d ∈ s.clustersOf p, (t.cluster d).halted = true) ∧
        (s.corStuck p c = true → ∃ t, exec .selfTestPreempt s = .next t ∧ t.testing = none ∧ (t.cluster c).draining = false ∧
          (t.cluster c).halted = false ∧ t.waves = s.waves))
    ∧ (∀ pass, s.testing = some c → s.vacant c = true → ∃ t, exec (.scanSelfTestDone pass) s = .next t ∧ t.testing = none ∧
        (pass = true → (t.cluster c).draining = false) ∧ (pass = false → (t.cluster c).retired = true) ∧
        ∀ n ∈ coresOf c, (t.core n).cistern = none ∧ ∀ i, i < coreWindow → t.mem.read (locS n + i) = 0)
    ∧ (c < 64 → s.replaceable c = true → ∀ lost : List Nat,
        let poisoned (t : State) : Prop := ∀ l ∈ lost, 128 * l < hbmBytes → ∀ k ∈ sectorsOf (128 * l) 128, k ∈ t.poison
        (∀ p, s.vacant c = true → Map.find? s.spares (c / 16) = some p → ∃ t, exec (.spareReplacement ⟨c, lost, true⟩) s = .next t ∧
          (t.cluster c).phys = some p ∧ (t.cluster c).retired = false ∧ Map.find? t.spares (c / 16) = none ∧ t.live = s.live ∧ poisoned t) ∧
        (∀ pass, s.vacant c = true → (pass = false ∨ Map.find? s.spares (c / 16) = none) → ∃ t, exec (.spareReplacement ⟨c, lost, pass⟩) s = .next t ∧
          (t.cluster c).phys = none ∧ t.partOf c = none ∧ Map.find? t.spares (c / 16) = none ∧ poisoned t) ∧
        (∀ pass, s.vacant c = false → ∃ t, exec (.spareReplacement ⟨c, lost, pass⟩) s = .next t ∧ (t.cluster c).draining = true))
    ∧ (∀ req, s.fabricUp = false → exec (.inboundRequest req) s = .next s)
    ∧ (∀ req, s.fabricUp = true → s.window req = none → exec (.inboundRequest req) s = .next (s.refuseIn req))
    ∧ (∀ req p xs, s.fabricUp = true → s.window req = some p →
        let n := (inNeed req.kind).1
        let spans := s.inSpans p (inNeed req.kind).2 (unitsOf n) (req.addr % 2 ^ 42) n
        (∀ pmf s2, spans = .error (.mk pmf s2) → exec (.inboundRequest req) s = .next (s.refuseIn req)) ∧
        (spans = .error .undef → exec (.inboundRequest req) s = .next s) ∧
        (spans = .ok xs → n ≠ 0 → (∀ e ∈ xs, e.1 + e.2 ≤ hbmBytes) →
          let bytes := xs.flatMap (fun e => s.mem.bytes e.1 e.2)
          let clean : Prop := ∀ e ∈ xs, ∀ k ∈ sectorsOf e.1 e.2, k ∉ s.poison
          let races : Prop := ∃ l ∈ spanLocs xs, s.racing (s.outReader req) l 1 = true
          (req.kind = .load n ∨ req.kind = .fetch → ∃ t, exec (.inboundRequest req) s = .next t ∧ t.mem = s.mem ∧
            (clean → ¬ races → t.events = .answer req.src bytes :: s.events)) ∧
          (∀ bs, req.kind = .store bs → (spanLocs xs).Nodup → ∃ t, exec (.inboundRequest req) s = .next t ∧
            (∀ (i l : Nat), (spanLocs xs)[i]? = some l → t.mem.read l = bs.getD i 0) ∧ ∀ l ∉ spanLocs xs, t.mem.read l = s.mem.read l) ∧
          (∀ l d, xs = [(l, n)] → (req.kind = .atomicAdd n d ∨ req.kind = .atomicXchg n d) → ∃ t, exec (.inboundRequest req) s = .next t ∧
            (clean → ¬ races → t.events = .answer req.src bytes :: s.events) ∧
            (clean → t.mem = s.mem.writeBytes l (natLe n ((if req.kind = .atomicAdd n d then leNat bytes else 0) + d.toNat))) ∧
            (¬ clean → t.mem = s.mem ∧ t.poison = s.poison ∧ ∃ bs, t.events = .answer req.src bs :: s.events))))

/-! ### Encoding, fetching and the invariants -/

/-- R52 to R60, R68: decoding what a well-formed instruction is written as gives it back, with every operand at every value that the
encoding admits; and a word has no other reading: whatever decodes is well formed and is written as that very word. -/
def Obligations.DecodeEncode : Prop :=
  (∀ (i : Instr) (w : Word), i.wf = true → encode i = some w → decodeWord w = .ok i)
    ∧ (∀ (w : Word) (i : Instr), decodeWord w = .ok i → i.wf = true ∧ encode i = some w)

/-- R52 to R60, R68: words written out from the formats, one of each format and family, decode to the instructions that they stand for; an
unassigned opcode, a reserved field that is not zero and a reserved code decode to none. -/
def Obligations.WrittenWords : Prop :=
  decodeWord 0x20010282 = .ok (.add (.v 1) (.v 2) (.imm 2))
    ∧ decodeWord 0x04A7FFFE = .ok (.brv ⟨true, 2, false⟩ 0x7FFFE)
    ∧ decodeWord 0x130512AB = .ok (.movi (.v 5) 0x12AB)
    ∧ decodeWord 0x90107C4A = .ok (.ld (.v 16) .zero 2 2 false true)
    ∧ decodeWord 0x90107C49 = .error .reservedCode
    ∧ decodeWord 0xA9034164 = .ok (.atomCas (.v 3) (.s 1) 3 4)
    ∧ decodeWord 0xA9034163 = .error .reservedCode
    ∧ decodeWord 0xC00885C5 = .ok (.mmaBi8 1 2 0 23 0 2 true)
    ∧ decodeWord 0xB050E000 = .ok (.cqPost 1 (.s 3) 16)
    ∧ decodeWord 0xE31C1000 = .ok (.barSync 3 (.imm 2))
    ∧ decodeWord 0xE5500000 = .ok (.fenceStores 2)
    ∧ decodeWord 0x00000000 = .error .unassignedOpcode
    ∧ decodeWord 0x01000001 = .error .reservedField

/-- R29, R45, R51, R76, R77: a step runs the decoded instruction. When a step's choice falls on a gang that may issue and nothing comes
before it, the word at its PC is fetched from memory, lowest byte first, or, inside `mcall`, taken from the control store with the two
parameters substituted; where that word is zero the gang leaves the `mcall` and the instruction after it is fetched in the same dispatch. The word
is decoded, and the step is the meaning of that instruction, with the gang's wave acting, followed by what settles after an instruction. The choice falls on a gang when the agenda names it, or when the
agenda is empty and it is the first of a dispatch round. Where the manual leaves it open, this is the model's choice: log entries 3
(DESIGN CHOICE), 55 (DESIGN CHOICE). -/
def Obligations.StepRunsDecoded : Prop :=
  (∀ (s s0 s' : State) (u sl : Nat) (w : Wave) (x : Word) (i : Instr),
    s.choose = s0.issueGang u sl → s0.wave? u = some w → s0.before u w = none → s0.canIssue w sl = true →
    ((w.st.slice sl).mac = none ∧ (s0.dispatch u sl w).fetch w sl = .word x s' ∨
      ∃ m, (w.st.slice sl).mac = some m ∧ (s0.core w.core).macWord m.m m.i ≠ 0 ∧ s' = s0.dispatch u sl w ∧
        x = substWord m.p1 m.p2 ((s0.core w.core).macWord m.m m.i)) →
    decodeWord x = .ok i →
    step s = match exec i s' with
      | .next t => .next t.settle
      | .fault f => .fault f
      | .refused r => .refused r)
    ∧ (∀ (s s0 s' : State) (u sl : Nat) (w : Wave) (m : MacPos) (x : Word) (i : Instr), s.choose = s0.issueGang u sl → s0.wave? u = some w →
        s0.before u w = none → s0.canIssue w sl = true → (w.st.slice sl).mac = some m → (s0.core w.core).macWord m.m m.i = 0 →
        let past (z : Slice) : Slice := { z with pc := z.pc + 4, mac := none, wait := none }
        let left (y : Wave) : Wave := { y with st := y.st.updSlices (y.st.gangOf sl) (fun _ z => past z) }
        ((s0.dispatch u sl w).updWave u left).fetch (left w) sl = .word x s' → decodeWord x = .ok i →
        step s = match exec i s' with
          | .next t => .next t.settle
          | .fault f => .fault f
          | .refused r => .refused r)
    ∧ (∀ (s s' : State) (w : Wave) (sl : Nat) (x : Word), s.fetch w sl = .word x s' →
        s'.act = s.act ∧ s'.waves = s.waves ∧ s'.mem = s.mem ∧ (w.st.slice sl).pc.toNat % 4 = 0 ∧
        ∃ r, s.xlateWave w (w.st.slice sl).pc.toNat needExec = .ok r ∧
          (Map.find? (s.core w.core).icache r.loc = none →
            x = wordOfBytes (s.mem.read r.loc) (s.mem.read (r.loc + 1)) (s.mem.read (r.loc + 2)) (s.mem.read (r.loc + 3))))
    ∧ (∀ (s : State) (u sl : Nat) (r : List Next), s.agenda = .issue u sl :: r → s.choose = State.issueGang { s with agenda := r } u sl)
    ∧ (∀ (s : State) (g : Nat × Nat) (r : List (Nat × Nat)), s.agenda = [] → s.evTurn = false → s.round = g :: r →
        s.choose = State.issueGang
          (State.tickRound { s with evTurn := true, agenda := r.map (fun (x : Nat × Nat) => Next.issue x.1 x.2) } (g :: r)) g.1 g.2)

/-- R261: a step keeps what anti-rollback promises: the running image is not older than the minimum version that OTP holds. -/
def Obligations.BootVersionKept : Prop :=
  ∀ (s t : State), s.BootOk → step s = .next t → t.BootOk

/-- A step keeps the canonical form of memory and of the contexts that wait to come back to it: what a Cistern swap (R247), a rollback, a
copy, an engine operation, a store or a release of the hypervisor writes is laid down in that one form. The form is the model's own, no
rule of the manual: log entry 1 (DESIGN CHOICE). -/
def Obligations.BytesKept : Prop :=
  ∀ (s t : State), s.BytesOk → step s = .next t → t.BytesOk

/-- R221, R223, R228, R254, R261: the machine after reset keeps both invariants and holds the reset values that the spec's register tables
give. -/
def Obligations.ResetHolds : Prop :=
  State.reset.BytesOk ∧ State.reset.BootOk
    ∧ State.reset.fabid = 0 ∧ State.reset.lbcfg.extractLsb' 16 16 = 100 ∧ State.reset.lbcfg.extractLsb' 0 16 = 16 ∧ State.reset.sgen = 0
    ∧ (∀ c, let k := State.reset.cluster c
        (k.thrcfg.extractLsb' 16 8 = 100 ∧ k.thrcfg.extractLsb' 8 8 = 175 ∧ k.thrcfg.extractLsb' 0 8 = 25 ∧ k.thrcfg.extractLsb' 24 8 = 0)
          ∧ (k.balcfg.getLsbD 8 = true ∧ k.balcfg.getLsbD 7 = false ∧ k.balcfg.extractLsb' 0 7 = 50)
          ∧ (k.islBusy = false ∧ k.islCur = 2 ∧ k.islReq = 2))
    ∧ (∀ c, let k := State.reset.col c
        k.power = .gated ∧ k.step = 0 ∧ k.wakePending = false ∧ ∀ m : Nat, (State.reset.rail c m).failed = 0)
    ∧ (∀ c, (State.reset.core c).cycles = 0 ∧ State.reset.colstat c = 0)
end

