-- ==== Sys2Proof/Laws/Alu.lean ====
section
/-! SUPPORT. Elements of packed words, and what the bit instructions compute. -/

namespace Sys2Proof.Machine

theorem IntType.intType {ty n : Nat} {sg : Bool} (h : IntType ty n sg) : intType ty = some (n, sg) := by
  have all : ∀ e ∈ ([(0, 32, true), (1, 32, false), (7, 16, true), (8, 16, false), (9, 8, true), (10, 8, false)] : List (Nat × Nat × Bool)),
      Machine.intType e.1 = some e.2 := by decide
  exact all (ty, n, sg) h

theorem IntType.width {ty n : Nat} {sg : Bool} (h : IntType ty n sg) : n = 32 ∨ n = 16 ∨ n = 8 := by
  simp only [IntType, List.mem_cons, Prod.mk.injEq, List.not_mem_nil, or_false] at h
  omega

theorem fold4 (h : Nat → Nat) : [0, 1, 2, 3].foldl (fun x k => x + h k) 0 = h 0 + h 1 + h 2 + h 3 := by simp
theorem fold2 (h : Nat → Nat) : [0, 1].foldl (fun x k => x + h k) 0 = h 0 + h 1 := by simp
theorem fold1 (h : Nat → Nat) : [0].foldl (fun x k => x + h k) 0 = h 0 := by simp

theorem fold8 (g : Nat → Nat) : (List.range (32 / 8)).foldl (fun x k => x + g k * 2 ^ (8 * k)) 0
    = g 0 + g 1 * 256 + g 2 * 65536 + g 3 * 16777216 := by
  have e : List.range (32 / 8) = [0, 1, 2, 3] := by decide
  have := fold4 (fun k => g k * 2 ^ (8 * k))
  rw [e, this]
  omega

theorem fold16 (g : Nat → Nat) : (List.range (32 / 16)).foldl (fun x k => x + g k * 2 ^ (16 * k)) 0 = g 0 + g 1 * 65536 := by
  have e : List.range (32 / 16) = [0, 1] := by decide
  have := fold2 (fun k => g k * 2 ^ (16 * k))
  rw [e, this]
  omega

theorem fold32 (g : Nat → Nat) : (List.range (32 / 32)).foldl (fun x k => x + g k * 2 ^ (32 * k)) 0 = g 0 := by
  have e : List.range (32 / 32) = [0] := by decide
  have := fold1 (fun k => g k * 2 ^ (32 * k))
  rw [e, this]
  omega

/-- The bits of element k of a word packed from numbers. -/
theorem packNat_bits (n : Nat) (g : Nat → Nat) (k : Nat) (hn : n = 32 ∨ n = 16 ∨ n = 8) (hk : k < 32 / n) (bnd : ∀ j, g j < 2 ^ n) :
    (BitVec.ofNat 32 ((List.range (32 / n)).foldl (fun x k => x + g k * 2 ^ (n * k)) 0)).toNat / 2 ^ (n * k) % 2 ^ n = g k := by
  have b0 := bnd 0
  have b1 := bnd 1
  have b2 := bnd 2
  have b3 := bnd 3
  rw [BitVec.toNat_ofNat]
  rcases hn with rfl | rfl | rfl
  · rw [fold32]
    have hk : k = 0 := by omega
    subst hk; omega
  · rw [fold16]
    have hk : k = 0 ∨ k = 1 := by omega
    rcases hk with rfl | rfl <;> omega
  · rw [fold8]
    have hk : k = 0 ∨ k = 1 ∨ k = 2 ∨ k = 3 := by omega
    rcases hk with rfl | rfl | rfl | rfl <;> omega

/-- The bits of element k of a packed word are those of its k-th value. -/
theorem packElems_bits (n : Nat) (f : Nat → Int) (k : Nat) (hn : n = 32 ∨ n = 16 ∨ n = 8) (hk : k < 32 / n) :
    (packElems n f).toNat / 2 ^ (n * k) % 2 ^ n = (f k % (2 ^ n : Nat)).toNat := by
  refine packNat_bits n (fun j => (f j % (2 ^ n : Nat)).toNat) k hn hk (fun j => ?_)
  have h1 : (0 : Int) < (2 ^ n : Nat) := Int.natCast_pos.2 (Nat.two_pow_pos n)
  have := Int.emod_lt_of_pos (f j) h1
  have := Int.emod_nonneg (f j) (Int.ne_of_gt h1)
  show (f j % (2 ^ n : Nat)).toNat < 2 ^ n
  omega

theorem elem_spec (n : Nat) (sg : Bool) (w : Word) (k : Nat) (hn : n = 32 ∨ n = 16 ∨ n = 8) (x : Int)
    (h : w.toNat / 2 ^ (n * k) % 2 ^ n = (x % (2 ^ n : Nat)).toNat) :
    InRange n sg (elem n sg w k) ∧ (elem n sg w k - x) % (2 ^ n : Nat) = 0 := by
  unfold elem InRange
  simp only [h]
  cases sg <;> rcases hn with rfl | rfl | rfl <;> simp [signExt] <;> first
    | omega
    | (split <;> omega)

theorem elem_range (n : Nat) (sg : Bool) (w : Word) (k : Nat) (hn : n = 32 ∨ n = 16 ∨ n = 8) : InRange n sg (elem n sg w k) := by
  refine (elem_spec n sg w k hn (w.toNat / 2 ^ (n * k) % 2 ^ n : Nat) ?_).1
  generalize w.toNat / 2 ^ (n * k) = y
  rcases hn with rfl | rfl | rfl <;> omega

theorem InRange.unique {n : Nat} {sg : Bool} {x y : Int} (hn : n = 32 ∨ n = 16 ∨ n = 8) (hx : InRange n sg x) (hy : InRange n sg y)
    (h : (x - y) % (2 ^ n : Nat) = 0) : x = y := by
  unfold InRange at hx hy
  cases sg <;> rcases hn with rfl | rfl | rfl <;> simp at hx hy h <;> omega

theorem clampElem_spec (n : Nat) (sg : Bool) (x : Int) (hn : n = 32 ∨ n = 16 ∨ n = 8) : Narrowed n sg true x (clampElem n sg x) := by
  unfold Narrowed InRange clampElem
  cases sg <;> rcases hn with rfl | rfl | rfl <;> simp <;> (repeat' split) <;> refine ⟨by omega, by omega, ?_, ?_⟩ <;> intros <;> omega

/-- Element by element: the exact result, brought into the element's range. -/
theorem elemwise_spec {ty n : Nat} {sg : Bool} (h : IntType ty n sg) (sat : Bool) (op : Int → Int → Int → Int) (a b d : Word) (k : Nat)
    (hk : k < 32 / n) :
    Narrowed n sg sat (op (elem n sg a k) (elem n sg b k) (elem n sg d k)) (elem n sg (elemwise ty sat op a b d) k) := by
  have hn := h.width
  simp only [elemwise, h.intType]
  have hb := packElems_bits n (fun k => let x := op (elem n sg a k) (elem n sg b k) (elem n sg d k)
      if sat then clampElem n sg x else x) k hn hk
  have := elem_spec n sg _ k hn _ hb
  cases sat with
  | false => exact ⟨this.1, this.2⟩
  | true =>
    have hc := clampElem_spec n sg (op (elem n sg a k) (elem n sg b k) (elem n sg d k)) hn
    have he := InRange.unique hn this.1 hc.1 this.2
    rw [he]; exact hc

/-- An exact result that the range already holds is not changed, whether or not the instruction saturates. -/
theorem Narrowed.of_inRange {n : Nat} {sg : Bool} {sat sat' : Bool} {x r : Int} (hn : n = 32 ∨ n = 16 ∨ n = 8) (hx : InRange n sg x)
    (h : Narrowed n sg sat x r) : Narrowed n sg sat' x r := by
  have hr : r = x := by
    cases sat with
    | false => exact InRange.unique hn h.1 hx h.2
    | true => exact h.2.1 hx
  subst hr
  refine ⟨hx, ?_⟩
  cases sat' with
  | false => simp
  | true => exact ⟨fun _ => rfl, fun y _ hy => by omega, fun y _ hy => by omega⟩

theorem shl32_eq (x y : Word) : shl32 x y = x <<< y.toNat := by
  unfold shl32
  split
  · next h => rw [BitVec.shiftLeft_eq_zero h]; rfl
  · rfl

theorem shr32_eq (x y : Word) : shr32 x y = x >>> y.toNat := by
  unfold shr32
  split
  · next h => rw [BitVec.ushiftRight_eq_zero h]; rfl
  · rfl

theorem sar32_eq (x y : Word) : sar32 x y = x.sshiftRight y.toNat := by
  unfold sar32
  split
  · next h =>
    apply BitVec.eq_of_getLsbD_eq
    intro i hi
    simp only [BitVec.getLsbD_sshiftRight]
    have h1 : ¬ (y.toNat + i < 32) := by omega
    have h2 : ¬ (32 ≤ i) := by omega
    simp only [h1, h2]
    by_cases h0 : i = 0
    · subst h0; simp [BitVec.msb_eq_getLsbD_last]
    · have : ¬ (31 + i < 32) := by omega
      simp [this]
  · rfl

theorem rot32_eq (x y : Word) : rot32 x y = x.rotateLeft y.toNat := by
  unfold rot32
  rw [BitVec.rotateLeft_mod_eq_rotateLeft]

theorem lanesWhere_getLsbD (f : Nat → Bool) (t : Nat) (h : t < 32) : (lanesWhere f).getLsbD t = f t := by
  have gen : ∀ (l : List Nat) (m : Lanes), (∀ x ∈ l, x < 32) →
      (l.foldl (fun m t => if f t then m ||| ((1 : Lanes) <<< t) else m) m).getLsbD t = (m.getLsbD t || (l.contains t && f t)) := by
    intro l
    induction l with
    | nil => intro m _; simp
    | cons x r ih =>
      intro m hx
      simp only [List.foldl_cons]
      rw [ih _ (fun y hy => hx y (by simp [hy]))]
      have hx0 : x < 32 := hx x (by simp)
      by_cases hf : f x = true
      · simp only [hf, if_true]
        by_cases e : t = x
        · subst e; simp [hf, h]
        · have hb : ((1 : Lanes) <<< x).getLsbD t = false := by
            simp only [BitVec.getLsbD_shiftLeft, h, decide_true, Bool.true_and]
            by_cases hlt : t < x
            · simp [hlt]
            · have : t - x ≠ 0 := by omega
              simp [hlt, this]
          have e' : (t == x) = false := by simpa using e
          rw [BitVec.getLsbD_or, hb, List.contains_cons, e', Bool.or_false, Bool.false_or]
      · by_cases e : t = x
        · subst e; simp [hf]
        · have e' : (t == x) = false := by simpa using e
          rw [List.contains_cons, e', Bool.false_or, if_neg hf]
  have := gen (List.range 32) 0 (fun x hx => by simpa using hx)
  simpa [lanesWhere, h] using this

theorem brev32_eq (x : Word) : brev32 x = x.reverse := by
  apply BitVec.eq_of_getLsbD_eq
  intro i hi
  rw [brev32, lanesWhere_getLsbD _ _ hi, BitVec.getLsbD_reverse]
  simp [BitVec.getMsbD_eq_getLsbD, hi]

theorem clz32_spec (x : Word) : (clz32 x).toNat ≤ 32 ∧ (∀ j, j < 32 → 32 - (clz32 x).toNat ≤ j → x.getLsbD j = false)
    ∧ ((clz32 x).toNat < 32 → x.getLsbD (31 - (clz32 x).toNat) = true) := by
  unfold clz32
  cases h : (List.range 32).find? (fun k => x.getLsbD (31 - k)) with
  | none =>
    rw [List.find?_eq_none] at h
    refine ⟨by simp, fun j hj _ => ?_, by simp⟩
    have := h (31 - j) (by simp; omega)
    simpa [show 31 - (31 - j) = j by omega] using this
  | some k =>
    have hk := List.find?_some h
    have hm : k < 32 := by simpa using List.mem_of_find?_eq_some h
    have hfirst : ∀ j, j < k → x.getLsbD (31 - j) = false := by
      intro j hj
      obtain ⟨_, i, hi, hik, hlt⟩ := List.find?_eq_some_iff_getElem.1 h
      have hik' : i = k := by simpa using hik
      subst hik'
      have := hlt j hj
      simpa using this
    have e : ((some k).getD 32) = k := rfl
    have et : (BitVec.ofNat 32 k).toNat = k := by simp; omega
    simp only [e, et]
    refine ⟨by omega, fun j hj hj' => ?_, fun _ => hk⟩
    have := hfirst (31 - j) (by omega)
    simpa [show 31 - (31 - j) = j by omega] using this

theorem popc32_toNat (x : Word) : (popc32 x).toNat = (List.range 32).countP (fun j => x.getLsbD j) := by
  unfold popc32
  rw [List.countP_eq_length_filter]
  have : ((List.range 32).filter (fun k => x.getLsbD k)).length ≤ 32 := by
    simpa using List.length_filter_le (fun k => x.getLsbD k) (List.range 32)
  simp; omega

end Sys2Proof.Machine
end

