-- ==== Sys2Proof/Laws/Decode.lean ====
section
/-! SUPPORT. The fields of a written word, one lemma a field of each format, and what the decoder does at each opcode. -/

namespace Sys2Proof.Laws

/-! ### Operands, conditions and reserved fields -/

/-- A specifier is read as what it was written from (R60). -/
@[simp] theorem decodeOperand_encodeOperand (o : Operand) : decodeOperand (encodeOperand o) = o := by
  cases o with
  | v n => revert n; decide
  | s n => revert n; decide
  | a n => revert n; decide
  | p n => revert n; decide
  | k n => revert n; decide
  | zero => rfl
  | lane => rfl
  | par1 => rfl
  | par2 => rfl
  | imm x => revert x; decide

/-- Every specifier byte is written from what it is read as (R60). -/
@[simp] theorem encodeOperand_decodeOperand (x : BitVec 8) : encodeOperand (decodeOperand x) = x := by revert x; decide

/-- A condition is read as what it was written from (R54). -/
@[simp] theorem decodeCond_encodeCond (c : Cond) : decodeCond (encodeCond c) = c := by
  obtain ⟨k, n, g⟩ := c
  revert k n g
  decide

/-- Every condition field is written from what it is read as (R54). -/
@[simp] theorem encodeCond_decodeCond (c : BitVec 5) : encodeCond (decodeCond c) = c := by revert c; decide

/-- Bit 4 of a condition field is its kind (R54). -/
@[simp] theorem kind_encodeCond (n : Fin 8) (g : Bool) : (encodeCond ⟨true, n, g⟩).getLsbD 4 = true := by revert n g; decide

@[simp] theorem fin_bits2 (x : Fin 4) : fin (bits 2 x) = x := by revert x; decide
@[simp] theorem fin_bits3 (x : Fin 8) : fin (bits 3 x) = x := by revert x; decide
@[simp] theorem fin_bits5 (x : Fin 32) : fin (bits 5 x) = x := by revert x; decide
@[simp] theorem fin_bits6 (x : Fin 64) : fin (bits 6 x) = x := by revert x; decide

@[simp] theorem fixed_one {n : Nat} (i : Instr) : fixed [0#n] i = .ok i := by simp [fixed]
@[simp] theorem fixed_two {n : Nat} (i : Instr) : fixed [0#n, 0#n] i = .ok i := by simp [fixed]
@[simp] theorem fixed_three {n : Nat} (i : Instr) : fixed [0#n, 0#n, 0#n] i = .ok i := by simp [fixed]

/-- One bit of a word is the one-bit field there. -/
theorem bit_of_field (w : Word) (k : Nat) (b : Bool) (h : w.extractLsb' k 1 = BitVec.ofBool b) : w.getLsbD k = b := by
  have e : (w.extractLsb' k 1).getLsbD 0 = w.getLsbD k := by simp
  rw [← e, h]
  cases b <;> rfl

/-- A well-formed instruction that the fields give is what its word decodes to. -/
theorem decodeWord_of (w : Word) (i : Instr) (hw : i.wf = true) (h : decodeFields w = .ok i) : decodeWord w = .ok i := by
  simp [decodeWord, h, hw]

/-! ### The fields of each format (R52) -/

theorem R_op (op : BitVec 8) (d : BitVec 8) (a : BitVec 8) (b : BitVec 8) : ((op ++ d ++ a ++ b : Word)).extractLsb' 24 8 = op := by
  rw [BitVec.extractLsb'_append_eq_of_le (by omega), BitVec.extractLsb'_append_eq_of_le (by omega), BitVec.extractLsb'_append_eq_of_le (by omega)]; simp
theorem R_d (op : BitVec 8) (d : BitVec 8) (a : BitVec 8) (b : BitVec 8) : ((op ++ d ++ a ++ b : Word)).extractLsb' 16 8 = d := by
  rw [BitVec.extractLsb'_append_eq_of_le (by omega), BitVec.extractLsb'_append_eq_of_le (by omega), BitVec.extractLsb'_append_eq_of_add_le (by omega)]; simp
theorem R_a (op : BitVec 8) (d : BitVec 8) (a : BitVec 8) (b : BitVec 8) : ((op ++ d ++ a ++ b : Word)).extractLsb' 8 8 = a := by
  rw [BitVec.extractLsb'_append_eq_of_le (by omega), BitVec.extractLsb'_append_eq_of_add_le (by omega)]; simp
theorem R_b (op : BitVec 8) (d : BitVec 8) (a : BitVec 8) (b : BitVec 8) : ((op ++ d ++ a ++ b : Word)).extractLsb' 0 8 = b := by
  rw [BitVec.extractLsb'_append_eq_of_add_le (by omega)]; simp
theorem I_op (op : BitVec 8) (d : BitVec 8) (i : BitVec 16) : ((op ++ d ++ i : Word)).extractLsb' 24 8 = op := by
  rw [BitVec.extractLsb'_append_eq_of_le (by omega), BitVec.extractLsb'_append_eq_of_le (by omega)]; simp
theorem I_d (op : BitVec 8) (d : BitVec 8) (i : BitVec 16) : ((op ++ d ++ i : Word)).extractLsb' 16 8 = d := by
  rw [BitVec.extractLsb'_append_eq_of_le (by omega), BitVec.extractLsb'_append_eq_of_add_le (by omega)]; simp
theorem I_i (op : BitVec 8) (d : BitVec 8) (i : BitVec 16) : ((op ++ d ++ i : Word)).extractLsb' 0 16 = i := by
  rw [BitVec.extractLsb'_append_eq_of_add_le (by omega)]; simp
theorem C_op (op : BitVec 8) (c : BitVec 5) (o : BitVec 19) : ((op ++ c ++ o : Word)).extractLsb' 24 8 = op := by
  rw [BitVec.extractLsb'_append_eq_of_le (by omega), BitVec.extractLsb'_append_eq_of_le (by omega)]; simp
theorem C_c (op : BitVec 8) (c : BitVec 5) (o : BitVec 19) : ((op ++ c ++ o : Word)).extractLsb' 19 5 = c := by
  rw [BitVec.extractLsb'_append_eq_of_le (by omega), BitVec.extractLsb'_append_eq_of_add_le (by omega)]; simp
theorem C_o (op : BitVec 8) (c : BitVec 5) (o : BitVec 19) : ((op ++ c ++ o : Word)).extractLsb' 0 19 = o := by
  rw [BitVec.extractLsb'_append_eq_of_add_le (by omega)]; simp
theorem M_op (op : BitVec 8) (d : BitVec 8) (o : BitVec 8) (b : BitVec 3) (sz : BitVec 3) (nt : BitVec 1) (sx : BitVec 1) : ((op ++ d ++ o ++ b ++ sz ++ nt ++ sx : Word)).extractLsb' 24 8 = op := by
  rw [BitVec.extractLsb'_append_eq_of_le (by omega), BitVec.extractLsb'_append_eq_of_le (by omega), BitVec.extractLsb'_append_eq_of_le (by omega), BitVec.extractLsb'_append_eq_of_le (by omega), BitVec.extractLsb'_append_eq_of_le (by omega), BitVec.extractLsb'_append_eq_of_le (by omega)]; simp
theorem M_d (op : BitVec 8) (d : BitVec 8) (o : BitVec 8) (b : BitVec 3) (sz : BitVec 3) (nt : BitVec 1) (sx : BitVec 1) : ((op ++ d ++ o ++ b ++ sz ++ nt ++ sx : Word)).extractLsb' 16 8 = d := by
  rw [BitVec.extractLsb'_append_eq_of_le (by omega), BitVec.extractLsb'_append_eq_of_le (by omega), BitVec.extractLsb'_append_eq_of_le (by omega), BitVec.extractLsb'_append_eq_of_le (by omega), BitVec.extractLsb'_append_eq_of_le (by omega), BitVec.extractLsb'_append_eq_of_add_le (by omega)]; simp
theorem M_o (op : BitVec 8) (d : BitVec 8) (o : BitVec 8) (b : BitVec 3) (sz : BitVec 3) (nt : BitVec 1) (sx : BitVec 1) : ((op ++ d ++ o ++ b ++ sz ++ nt ++ sx : Word)).extractLsb' 8 8 = o := by
  rw [BitVec.extractLsb'_append_eq_of_le (by omega), BitVec.extractLsb'_append_eq_of_le (by omega), BitVec.extractLsb'_append_eq_of_le (by omega), BitVec.extractLsb'_append_eq_of_le (by omega), BitVec.extractLsb'_append_eq_of_add_le (by omega)]; simp
theorem M_b (op : BitVec 8) (d : BitVec 8) (o : BitVec 8) (b : BitVec 3) (sz : BitVec 3) (nt : BitVec 1) (sx : BitVec 1) : ((op ++ d ++ o ++ b ++ sz ++ nt ++ sx : Word)).extractLsb' 5 3 = b := by
  rw [BitVec.extractLsb'_append_eq_of_le (by omega), BitVec.extractLsb'_append_eq_of_le (by omega), BitVec.extractLsb'_append_eq_of_le (by omega), BitVec.extractLsb'_append_eq_of_add_le (by omega)]; simp
theorem M_sz (op : BitVec 8) (d : BitVec 8) (o : BitVec 8) (b : BitVec 3) (sz : BitVec 3) (nt : BitVec 1) (sx : BitVec 1) : ((op ++ d ++ o ++ b ++ sz ++ nt ++ sx : Word)).extractLsb' 2 3 = sz := by
  rw [BitVec.extractLsb'_append_eq_of_le (by omega), BitVec.extractLsb'_append_eq_of_le (by omega), BitVec.extractLsb'_append_eq_of_add_le (by omega)]; simp
theorem M_nt (op : BitVec 8) (d : BitVec 8) (o : BitVec 8) (b : BitVec 3) (sz : BitVec 3) (nt : BitVec 1) (sx : BitVec 1) : ((op ++ d ++ o ++ b ++ sz ++ nt ++ sx : Word)).extractLsb' 1 1 = nt := by
  rw [BitVec.extractLsb'_append_eq_of_le (by omega), BitVec.extractLsb'_append_eq_of_add_le (by omega)]; simp
theorem M_sx (op : BitVec 8) (d : BitVec 8) (o : BitVec 8) (b : BitVec 3) (sz : BitVec 3) (nt : BitVec 1) (sx : BitVec 1) : ((op ++ d ++ o ++ b ++ sz ++ nt ++ sx : Word)).extractLsb' 0 1 = sx := by
  rw [BitVec.extractLsb'_append_eq_of_add_le (by omega)]; simp
theorem A_op (op : BitVec 8) (d : BitVec 8) (o : BitVec 8) (b : BitVec 3) (r : BitVec 5) : ((op ++ d ++ o ++ b ++ r : Word)).extractLsb' 24 8 = op := by
  rw [BitVec.extractLsb'_append_eq_of_le (by omega), BitVec.extractLsb'_append_eq_of_le (by omega), BitVec.extractLsb'_append_eq_of_le (by omega), BitVec.extractLsb'_append_eq_of_le (by omega)]; simp
theorem A_d (op : BitVec 8) (d : BitVec 8) (o : BitVec 8) (b : BitVec 3) (r : BitVec 5) : ((op ++ d ++ o ++ b ++ r : Word)).extractLsb' 16 8 = d := by
  rw [BitVec.extractLsb'_append_eq_of_le (by omega), BitVec.extractLsb'_append_eq_of_le (by omega), BitVec.extractLsb'_append_eq_of_le (by omega), BitVec.extractLsb'_append_eq_of_add_le (by omega)]; simp
theorem A_o (op : BitVec 8) (d : BitVec 8) (o : BitVec 8) (b : BitVec 3) (r : BitVec 5) : ((op ++ d ++ o ++ b ++ r : Word)).extractLsb' 8 8 = o := by
  rw [BitVec.extractLsb'_append_eq_of_le (by omega), BitVec.extractLsb'_append_eq_of_le (by omega), BitVec.extractLsb'_append_eq_of_add_le (by omega)]; simp
theorem A_b (op : BitVec 8) (d : BitVec 8) (o : BitVec 8) (b : BitVec 3) (r : BitVec 5) : ((op ++ d ++ o ++ b ++ r : Word)).extractLsb' 5 3 = b := by
  rw [BitVec.extractLsb'_append_eq_of_le (by omega), BitVec.extractLsb'_append_eq_of_add_le (by omega)]; simp
theorem A_r (op : BitVec 8) (d : BitVec 8) (o : BitVec 8) (b : BitVec 3) (r : BitVec 5) : ((op ++ d ++ o ++ b ++ r : Word)).extractLsb' 0 5 = r := by
  rw [BitVec.extractLsb'_append_eq_of_add_le (by omega)]; simp
@[simp] theorem J_op (op : BitVec 8) (i : BitVec 24) : ((op ++ i : Word)).extractLsb' 24 8 = op := by
  rw [BitVec.extractLsb'_append_eq_of_le (by omega)]; simp
@[simp] theorem J_i (op : BitVec 8) (i : BitVec 24) : ((op ++ i : Word)).extractLsb' 0 24 = i := by
  rw [BitVec.extractLsb'_append_eq_of_add_le (by omega)]; simp
@[simp] theorem X_op (op : BitVec 8) (en : BitVec 5) (g : BitVec 5) (t : BitVec 4) (rm : BitVec 3) (sat : BitVec 1) (fe : BitVec 2) (z : BitVec 4) : ((op ++ en ++ g ++ t ++ rm ++ sat ++ fe ++ z : Word)).extractLsb' 24 8 = op := by
  rw [BitVec.extractLsb'_append_eq_of_le (by omega), BitVec.extractLsb'_append_eq_of_le (by omega), BitVec.extractLsb'_append_eq_of_le (by omega), BitVec.extractLsb'_append_eq_of_le (by omega), BitVec.extractLsb'_append_eq_of_le (by omega), BitVec.extractLsb'_append_eq_of_le (by omega), BitVec.extractLsb'_append_eq_of_le (by omega)]; simp
@[simp] theorem X_en (op : BitVec 8) (en : BitVec 5) (g : BitVec 5) (t : BitVec 4) (rm : BitVec 3) (sat : BitVec 1) (fe : BitVec 2) (z : BitVec 4) : ((op ++ en ++ g ++ t ++ rm ++ sat ++ fe ++ z : Word)).extractLsb' 19 5 = en := by
  rw [BitVec.extractLsb'_append_eq_of_le (by omega), BitVec.extractLsb'_append_eq_of_le (by omega), BitVec.extractLsb'_append_eq_of_le (by omega), BitVec.extractLsb'_append_eq_of_le (by omega), BitVec.extractLsb'_append_eq_of_le (by omega), BitVec.extractLsb'_append_eq_of_le (by omega), BitVec.extractLsb'_append_eq_of_add_le (by omega)]; simp
@[simp] theorem X_g (op : BitVec 8) (en : BitVec 5) (g : BitVec 5) (t : BitVec 4) (rm : BitVec 3) (sat : BitVec 1) (fe : BitVec 2) (z : BitVec 4) : ((op ++ en ++ g ++ t ++ rm ++ sat ++ fe ++ z : Word)).extractLsb' 14 5 = g := by
  rw [BitVec.extractLsb'_append_eq_of_le (by omega), BitVec.extractLsb'_append_eq_of_le (by omega), BitVec.extractLsb'_append_eq_of_le (by omega), BitVec.extractLsb'_append_eq_of_le (by omega), BitVec.extractLsb'_append_eq_of_le (by omega), BitVec.extractLsb'_append_eq_of_add_le (by omega)]; simp
@[simp] theorem X_t (op : BitVec 8) (en : BitVec 5) (g : BitVec 5) (t : BitVec 4) (rm : BitVec 3) (sat : BitVec 1) (fe : BitVec 2) (z : BitVec 4) : ((op ++ en ++ g ++ t ++ rm ++ sat ++ fe ++ z : Word)).extractLsb' 10 4 = t := by
  rw [BitVec.extractLsb'_append_eq_of_le (by omega), BitVec.extractLsb'_append_eq_of_le (by omega), BitVec.extractLsb'_append_eq_of_le (by omega), BitVec.extractLsb'_append_eq_of_le (by omega), BitVec.extractLsb'_append_eq_of_add_le (by omega)]; simp
@[simp] theorem X_rm (op : BitVec 8) (en : BitVec 5) (g : BitVec 5) (t : BitVec 4) (rm : BitVec 3) (sat : BitVec 1) (fe : BitVec 2) (z : BitVec 4) : ((op ++ en ++ g ++ t ++ rm ++ sat ++ fe ++ z : Word)).extractLsb' 7 3 = rm := by
  rw [BitVec.extractLsb'_append_eq_of_le (by omega), BitVec.extractLsb'_append_eq_of_le (by omega), BitVec.extractLsb'_append_eq_of_le (by omega), BitVec.extractLsb'_append_eq_of_add_le (by omega)]; simp
@[simp] theorem X_sat (op : BitVec 8) (en : BitVec 5) (g : BitVec 5) (t : BitVec 4) (rm : BitVec 3) (sat : BitVec 1) (fe : BitVec 2) (z : BitVec 4) : ((op ++ en ++ g ++ t ++ rm ++ sat ++ fe ++ z : Word)).extractLsb' 6 1 = sat := by
  rw [BitVec.extractLsb'_append_eq_of_le (by omega), BitVec.extractLsb'_append_eq_of_le (by omega), BitVec.extractLsb'_append_eq_of_add_le (by omega)]; simp
@[simp] theorem X_fe (op : BitVec 8) (en : BitVec 5) (g : BitVec 5) (t : BitVec 4) (rm : BitVec 3) (sat : BitVec 1) (fe : BitVec 2) (z : BitVec 4) : ((op ++ en ++ g ++ t ++ rm ++ sat ++ fe ++ z : Word)).extractLsb' 4 2 = fe := by
  rw [BitVec.extractLsb'_append_eq_of_le (by omega), BitVec.extractLsb'_append_eq_of_add_le (by omega)]; simp
@[simp] theorem X_z (op : BitVec 8) (en : BitVec 5) (g : BitVec 5) (t : BitVec 4) (rm : BitVec 3) (sat : BitVec 1) (fe : BitVec 2) (z : BitVec 4) : ((op ++ en ++ g ++ t ++ rm ++ sat ++ fe ++ z : Word)).extractLsb' 0 4 = z := by
  rw [BitVec.extractLsb'_append_eq_of_add_le (by omega)]; simp
@[simp] theorem Y_op (op : BitVec 8) (en : BitVec 4) (sc : BitVec 3) (ord : BitVec 3) (au : BitVec 3) (aot : BitVec 1) (z : BitVec 10) : ((op ++ en ++ sc ++ ord ++ au ++ aot ++ z : Word)).extractLsb' 24 8 = op := by
  rw [BitVec.extractLsb'_append_eq_of_le (by omega), BitVec.extractLsb'_append_eq_of_le (by omega), BitVec.extractLsb'_append_eq_of_le (by omega), BitVec.extractLsb'_append_eq_of_le (by omega), BitVec.extractLsb'_append_eq_of_le (by omega), BitVec.extractLsb'_append_eq_of_le (by omega)]; simp
@[simp] theorem Y_en (op : BitVec 8) (en : BitVec 4) (sc : BitVec 3) (ord : BitVec 3) (au : BitVec 3) (aot : BitVec 1) (z : BitVec 10) : ((op ++ en ++ sc ++ ord ++ au ++ aot ++ z : Word)).extractLsb' 20 4 = en := by
  rw [BitVec.extractLsb'_append_eq_of_le (by omega), BitVec.extractLsb'_append_eq_of_le (by omega), BitVec.extractLsb'_append_eq_of_le (by omega), BitVec.extractLsb'_append_eq_of_le (by omega), BitVec.extractLsb'_append_eq_of_le (by omega), BitVec.extractLsb'_append_eq_of_add_le (by omega)]; simp
@[simp] theorem Y_sc (op : BitVec 8) (en : BitVec 4) (sc : BitVec 3) (ord : BitVec 3) (au : BitVec 3) (aot : BitVec 1) (z : BitVec 10) : ((op ++ en ++ sc ++ ord ++ au ++ aot ++ z : Word)).extractLsb' 17 3 = sc := by
  rw [BitVec.extractLsb'_append_eq_of_le (by omega), BitVec.extractLsb'_append_eq_of_le (by omega), BitVec.extractLsb'_append_eq_of_le (by omega), BitVec.extractLsb'_append_eq_of_le (by omega), BitVec.extractLsb'_append_eq_of_add_le (by omega)]; simp
@[simp] theorem Y_ord (op : BitVec 8) (en : BitVec 4) (sc : BitVec 3) (ord : BitVec 3) (au : BitVec 3) (aot : BitVec 1) (z : BitVec 10) : ((op ++ en ++ sc ++ ord ++ au ++ aot ++ z : Word)).extractLsb' 14 3 = ord := by
  rw [BitVec.extractLsb'_append_eq_of_le (by omega), BitVec.extractLsb'_append_eq_of_le (by omega), BitVec.extractLsb'_append_eq_of_le (by omega), BitVec.extractLsb'_append_eq_of_add_le (by omega)]; simp
@[simp] theorem Y_au (op : BitVec 8) (en : BitVec 4) (sc : BitVec 3) (ord : BitVec 3) (au : BitVec 3) (aot : BitVec 1) (z : BitVec 10) : ((op ++ en ++ sc ++ ord ++ au ++ aot ++ z : Word)).extractLsb' 11 3 = au := by
  rw [BitVec.extractLsb'_append_eq_of_le (by omega), BitVec.extractLsb'_append_eq_of_le (by omega), BitVec.extractLsb'_append_eq_of_add_le (by omega)]; simp
@[simp] theorem Y_aot (op : BitVec 8) (en : BitVec 4) (sc : BitVec 3) (ord : BitVec 3) (au : BitVec 3) (aot : BitVec 1) (z : BitVec 10) : ((op ++ en ++ sc ++ ord ++ au ++ aot ++ z : Word)).extractLsb' 10 1 = aot := by
  rw [BitVec.extractLsb'_append_eq_of_le (by omega), BitVec.extractLsb'_append_eq_of_add_le (by omega)]; simp
@[simp] theorem Y_z (op : BitVec 8) (en : BitVec 4) (sc : BitVec 3) (ord : BitVec 3) (au : BitVec 3) (aot : BitVec 1) (z : BitVec 10) : ((op ++ en ++ sc ++ ord ++ au ++ aot ++ z : Word)).extractLsb' 0 10 = z := by
  rw [BitVec.extractLsb'_append_eq_of_add_le (by omega)]; simp
@[simp] theorem B_op (op : BitVec 8) (n : BitVec 3) (sp : BitVec 3) (z : BitVec 2) (lo : BitVec 8) (hi : BitVec 8) : ((op ++ n ++ sp ++ z ++ lo ++ hi : Word)).extractLsb' 24 8 = op := by
  rw [BitVec.extractLsb'_append_eq_of_le (by omega), BitVec.extractLsb'_append_eq_of_le (by omega), BitVec.extractLsb'_append_eq_of_le (by omega), BitVec.extractLsb'_append_eq_of_le (by omega), BitVec.extractLsb'_append_eq_of_le (by omega)]; simp
@[simp] theorem B_n (op : BitVec 8) (n : BitVec 3) (sp : BitVec 3) (z : BitVec 2) (lo : BitVec 8) (hi : BitVec 8) : ((op ++ n ++ sp ++ z ++ lo ++ hi : Word)).extractLsb' 21 3 = n := by
  rw [BitVec.extractLsb'_append_eq_of_le (by omega), BitVec.extractLsb'_append_eq_of_le (by omega), BitVec.extractLsb'_append_eq_of_le (by omega), BitVec.extractLsb'_append_eq_of_le (by omega), BitVec.extractLsb'_append_eq_of_add_le (by omega)]; simp
@[simp] theorem B_sp (op : BitVec 8) (n : BitVec 3) (sp : BitVec 3) (z : BitVec 2) (lo : BitVec 8) (hi : BitVec 8) : ((op ++ n ++ sp ++ z ++ lo ++ hi : Word)).extractLsb' 18 3 = sp := by
  rw [BitVec.extractLsb'_append_eq_of_le (by omega), BitVec.extractLsb'_append_eq_of_le (by omega), BitVec.extractLsb'_append_eq_of_le (by omega), BitVec.extractLsb'_append_eq_of_add_le (by omega)]; simp
@[simp] theorem B_z (op : BitVec 8) (n : BitVec 3) (sp : BitVec 3) (z : BitVec 2) (lo : BitVec 8) (hi : BitVec 8) : ((op ++ n ++ sp ++ z ++ lo ++ hi : Word)).extractLsb' 16 2 = z := by
  rw [BitVec.extractLsb'_append_eq_of_le (by omega), BitVec.extractLsb'_append_eq_of_le (by omega), BitVec.extractLsb'_append_eq_of_add_le (by omega)]; simp
@[simp] theorem B_lo (op : BitVec 8) (n : BitVec 3) (sp : BitVec 3) (z : BitVec 2) (lo : BitVec 8) (hi : BitVec 8) : ((op ++ n ++ sp ++ z ++ lo ++ hi : Word)).extractLsb' 8 8 = lo := by
  rw [BitVec.extractLsb'_append_eq_of_le (by omega), BitVec.extractLsb'_append_eq_of_add_le (by omega)]; simp
@[simp] theorem B_hi (op : BitVec 8) (n : BitVec 3) (sp : BitVec 3) (z : BitVec 2) (lo : BitVec 8) (hi : BitVec 8) : ((op ++ n ++ sp ++ z ++ lo ++ hi : Word)).extractLsb' 0 8 = hi := by
  rw [BitVec.extractLsb'_append_eq_of_add_le (by omega)]; simp
@[simp] theorem Q_op (op : BitVec 8) (k : BitVec 2) (q : BitVec 8) (f : BitVec 5) (z : BitVec 9) : ((op ++ k ++ q ++ f ++ z : Word)).extractLsb' 24 8 = op := by
  rw [BitVec.extractLsb'_append_eq_of_le (by omega), BitVec.extractLsb'_append_eq_of_le (by omega), BitVec.extractLsb'_append_eq_of_le (by omega), BitVec.extractLsb'_append_eq_of_le (by omega)]; simp
@[simp] theorem Q_k (op : BitVec 8) (k : BitVec 2) (q : BitVec 8) (f : BitVec 5) (z : BitVec 9) : ((op ++ k ++ q ++ f ++ z : Word)).extractLsb' 22 2 = k := by
  rw [BitVec.extractLsb'_append_eq_of_le (by omega), BitVec.extractLsb'_append_eq_of_le (by omega), BitVec.extractLsb'_append_eq_of_le (by omega), BitVec.extractLsb'_append_eq_of_add_le (by omega)]; simp
@[simp] theorem Q_q (op : BitVec 8) (k : BitVec 2) (q : BitVec 8) (f : BitVec 5) (z : BitVec 9) : ((op ++ k ++ q ++ f ++ z : Word)).extractLsb' 14 8 = q := by
  rw [BitVec.extractLsb'_append_eq_of_le (by omega), BitVec.extractLsb'_append_eq_of_le (by omega), BitVec.extractLsb'_append_eq_of_add_le (by omega)]; simp
@[simp] theorem Q_f (op : BitVec 8) (k : BitVec 2) (q : BitVec 8) (f : BitVec 5) (z : BitVec 9) : ((op ++ k ++ q ++ f ++ z : Word)).extractLsb' 9 5 = f := by
  rw [BitVec.extractLsb'_append_eq_of_le (by omega), BitVec.extractLsb'_append_eq_of_add_le (by omega)]; simp
@[simp] theorem Q_z (op : BitVec 8) (k : BitVec 2) (q : BitVec 8) (f : BitVec 5) (z : BitVec 9) : ((op ++ k ++ q ++ f ++ z : Word)).extractLsb' 0 9 = z := by
  rw [BitVec.extractLsb'_append_eq_of_add_le (by omega)]; simp
@[simp] theorem W_op (op : BitVec 8) (c : BitVec 5) (a : BitVec 5) (wb : BitVec 2) (v : BitVec 6) (s : BitVec 2) (z : BitVec 1) (rows : BitVec 2) (acc : BitVec 1) : ((op ++ c ++ a ++ wb ++ v ++ s ++ z ++ rows ++ acc : Word)).extractLsb' 24 8 = op := by
  rw [BitVec.extractLsb'_append_eq_of_le (by omega), BitVec.extractLsb'_append_eq_of_le (by omega), BitVec.extractLsb'_append_eq_of_le (by omega), BitVec.extractLsb'_append_eq_of_le (by omega), BitVec.extractLsb'_append_eq_of_le (by omega), BitVec.extractLsb'_append_eq_of_le (by omega), BitVec.extractLsb'_append_eq_of_le (by omega), BitVec.extractLsb'_append_eq_of_le (by omega)]; simp
@[simp] theorem W_c (op : BitVec 8) (c : BitVec 5) (a : BitVec 5) (wb : BitVec 2) (v : BitVec 6) (s : BitVec 2) (z : BitVec 1) (rows : BitVec 2) (acc : BitVec 1) : ((op ++ c ++ a ++ wb ++ v ++ s ++ z ++ rows ++ acc : Word)).extractLsb' 19 5 = c := by
  rw [BitVec.extractLsb'_append_eq_of_le (by omega), BitVec.extractLsb'_append_eq_of_le (by omega), BitVec.extractLsb'_append_eq_of_le (by omega), BitVec.extractLsb'_append_eq_of_le (by omega), BitVec.extractLsb'_append_eq_of_le (by omega), BitVec.extractLsb'_append_eq_of_le (by omega), BitVec.extractLsb'_append_eq_of_le (by omega), BitVec.extractLsb'_append_eq_of_add_le (by omega)]; simp
@[simp] theorem W_a (op : BitVec 8) (c : BitVec 5) (a : BitVec 5) (wb : BitVec 2) (v : BitVec 6) (s : BitVec 2) (z : BitVec 1) (rows : BitVec 2) (acc : BitVec 1) : ((op ++ c ++ a ++ wb ++ v ++ s ++ z ++ rows ++ acc : Word)).extractLsb' 14 5 = a := by
  rw [BitVec.extractLsb'_append_eq_of_le (by omega), BitVec.extractLsb'_append_eq_of_le (by omega), BitVec.extractLsb'_append_eq_of_le (by omega), BitVec.extractLsb'_append_eq_of_le (by omega), BitVec.extractLsb'_append_eq_of_le (by omega), BitVec.extractLsb'_append_eq_of_le (by omega), BitVec.extractLsb'_append_eq_of_add_le (by omega)]; simp
@[simp] theorem W_wb (op : BitVec 8) (c : BitVec 5) (a : BitVec 5) (wb : BitVec 2) (v : BitVec 6) (s : BitVec 2) (z : BitVec 1) (rows : BitVec 2) (acc : BitVec 1) : ((op ++ c ++ a ++ wb ++ v ++ s ++ z ++ rows ++ acc : Word)).extractLsb' 12 2 = wb := by
  rw [BitVec.extractLsb'_append_eq_of_le (by omega), BitVec.extractLsb'_append_eq_of_le (by omega), BitVec.extractLsb'_append_eq_of_le (by omega), BitVec.extractLsb'_append_eq_of_le (by omega), BitVec.extractLsb'_append_eq_of_le (by omega), BitVec.extractLsb'_append_eq_of_add_le (by omega)]; simp
@[simp] theorem W_v (op : BitVec 8) (c : BitVec 5) (a : BitVec 5) (wb : BitVec 2) (v : BitVec 6) (s : BitVec 2) (z : BitVec 1) (rows : BitVec 2) (acc : BitVec 1) : ((op ++ c ++ a ++ wb ++ v ++ s ++ z ++ rows ++ acc : Word)).extractLsb' 6 6 = v := by
  rw [BitVec.extractLsb'_append_eq_of_le (by omega), BitVec.extractLsb'_append_eq_of_le (by omega), BitVec.extractLsb'_append_eq_of_le (by omega), BitVec.extractLsb'_append_eq_of_le (by omega), BitVec.extractLsb'_append_eq_of_add_le (by omega)]; simp
@[simp] theorem W_s (op : BitVec 8) (c : BitVec 5) (a : BitVec 5) (wb : BitVec 2) (v : BitVec 6) (s : BitVec 2) (z : BitVec 1) (rows : BitVec 2) (acc : BitVec 1) : ((op ++ c ++ a ++ wb ++ v ++ s ++ z ++ rows ++ acc : Word)).extractLsb' 4 2 = s := by
  rw [BitVec.extractLsb'_append_eq_of_le (by omega), BitVec.extractLsb'_append_eq_of_le (by omega), BitVec.extractLsb'_append_eq_of_le (by omega), BitVec.extractLsb'_append_eq_of_add_le (by omega)]; simp
@[simp] theorem W_z (op : BitVec 8) (c : BitVec 5) (a : BitVec 5) (wb : BitVec 2) (v : BitVec 6) (s : BitVec 2) (z : BitVec 1) (rows : BitVec 2) (acc : BitVec 1) : ((op ++ c ++ a ++ wb ++ v ++ s ++ z ++ rows ++ acc : Word)).extractLsb' 3 1 = z := by
  rw [BitVec.extractLsb'_append_eq_of_le (by omega), BitVec.extractLsb'_append_eq_of_le (by omega), BitVec.extractLsb'_append_eq_of_add_le (by omega)]; simp
@[simp] theorem W_rows (op : BitVec 8) (c : BitVec 5) (a : BitVec 5) (wb : BitVec 2) (v : BitVec 6) (s : BitVec 2) (z : BitVec 1) (rows : BitVec 2) (acc : BitVec 1) : ((op ++ c ++ a ++ wb ++ v ++ s ++ z ++ rows ++ acc : Word)).extractLsb' 1 2 = rows := by
  rw [BitVec.extractLsb'_append_eq_of_le (by omega), BitVec.extractLsb'_append_eq_of_add_le (by omega)]; simp
@[simp] theorem W_acc (op : BitVec 8) (c : BitVec 5) (a : BitVec 5) (wb : BitVec 2) (v : BitVec 6) (s : BitVec 2) (z : BitVec 1) (rows : BitVec 2) (acc : BitVec 1) : ((op ++ c ++ a ++ wb ++ v ++ s ++ z ++ rows ++ acc : Word)).extractLsb' 0 1 = acc := by
  rw [BitVec.extractLsb'_append_eq_of_add_le (by omega)]; simp
@[simp] theorem G_op (op : BitVec 8) (b : BitVec 5) (m : BitVec 8) (z : BitVec 11) : ((op ++ b ++ m ++ z : Word)).extractLsb' 24 8 = op := by
  rw [BitVec.extractLsb'_append_eq_of_le (by omega), BitVec.extractLsb'_append_eq_of_le (by omega), BitVec.extractLsb'_append_eq_of_le (by omega)]; simp
@[simp] theorem G_b (op : BitVec 8) (b : BitVec 5) (m : BitVec 8) (z : BitVec 11) : ((op ++ b ++ m ++ z : Word)).extractLsb' 19 5 = b := by
  rw [BitVec.extractLsb'_append_eq_of_le (by omega), BitVec.extractLsb'_append_eq_of_le (by omega), BitVec.extractLsb'_append_eq_of_add_le (by omega)]; simp
@[simp] theorem G_m (op : BitVec 8) (b : BitVec 5) (m : BitVec 8) (z : BitVec 11) : ((op ++ b ++ m ++ z : Word)).extractLsb' 11 8 = m := by
  rw [BitVec.extractLsb'_append_eq_of_le (by omega), BitVec.extractLsb'_append_eq_of_add_le (by omega)]; simp
@[simp] theorem G_z (op : BitVec 8) (b : BitVec 5) (m : BitVec 8) (z : BitVec 11) : ((op ++ b ++ m ++ z : Word)).extractLsb' 0 11 = z := by
  rw [BitVec.extractLsb'_append_eq_of_add_le (by omega)]; simp
@[simp] theorem F_op (op : BitVec 8) (sc : BitVec 3) (k : BitVec 2) (z : BitVec 19) : ((op ++ sc ++ k ++ z : Word)).extractLsb' 24 8 = op := by
  rw [BitVec.extractLsb'_append_eq_of_le (by omega), BitVec.extractLsb'_append_eq_of_le (by omega), BitVec.extractLsb'_append_eq_of_le (by omega)]; simp
@[simp] theorem F_sc (op : BitVec 8) (sc : BitVec 3) (k : BitVec 2) (z : BitVec 19) : ((op ++ sc ++ k ++ z : Word)).extractLsb' 21 3 = sc := by
  rw [BitVec.extractLsb'_append_eq_of_le (by omega), BitVec.extractLsb'_append_eq_of_le (by omega), BitVec.extractLsb'_append_eq_of_add_le (by omega)]; simp
@[simp] theorem F_k (op : BitVec 8) (sc : BitVec 3) (k : BitVec 2) (z : BitVec 19) : ((op ++ sc ++ k ++ z : Word)).extractLsb' 19 2 = k := by
  rw [BitVec.extractLsb'_append_eq_of_le (by omega), BitVec.extractLsb'_append_eq_of_add_le (by omega)]; simp
@[simp] theorem F_z (op : BitVec 8) (sc : BitVec 3) (k : BitVec 2) (z : BitVec 19) : ((op ++ sc ++ k ++ z : Word)).extractLsb' 0 19 = z := by
  rw [BitVec.extractLsb'_append_eq_of_add_le (by omega)]; simp

@[simp] theorem wordR_op (op d a b : BitVec 8) : fOp (wordR op d a b) = op := R_op op d a b
@[simp] theorem wordR_d (op d a b : BitVec 8) : fD (wordR op d a b) = d := R_d op d a b
@[simp] theorem wordR_a (op d a b : BitVec 8) : fA (wordR op d a b) = a := R_a op d a b
@[simp] theorem wordR_b (op d a b : BitVec 8) : fB (wordR op d a b) = b := R_b op d a b
@[simp] theorem wordI_op (op d : BitVec 8) (i : BitVec 16) : fOp (wordI op d i) = op := I_op op d i
@[simp] theorem wordI_d (op d : BitVec 8) (i : BitVec 16) : fD (wordI op d i) = d := I_d op d i
@[simp] theorem wordI_i (op d : BitVec 8) (i : BitVec 16) : fImm (wordI op d i) = i := I_i op d i
@[simp] theorem wordC_op (op : BitVec 8) (c : BitVec 5) (o : BitVec 19) : fOp (wordC op c o) = op := C_op op c o
@[simp] theorem wordC_c (op : BitVec 8) (c : BitVec 5) (o : BitVec 19) : fCond (wordC op c o) = c := C_c op c o
@[simp] theorem wordC_o (op : BitVec 8) (c : BitVec 5) (o : BitVec 19) : fOff (wordC op c o) = o := C_o op c o
@[simp] theorem wordM_op (op d o : BitVec 8) (b : Fin 8) (sz : BitVec 3) (nt sx : Bool) : fOp (wordM op d o b sz nt sx) = op := M_op op d o (bits 3 b) sz (BitVec.ofBool nt) (BitVec.ofBool sx)
@[simp] theorem wordM_d (op d o : BitVec 8) (b : Fin 8) (sz : BitVec 3) (nt sx : Bool) : fD (wordM op d o b sz nt sx) = d := M_d op d o (bits 3 b) sz (BitVec.ofBool nt) (BitVec.ofBool sx)
@[simp] theorem wordM_o (op d o : BitVec 8) (b : Fin 8) (sz : BitVec 3) (nt sx : Bool) : fA (wordM op d o b sz nt sx) = o := M_o op d o (bits 3 b) sz (BitVec.ofBool nt) (BitVec.ofBool sx)
@[simp] theorem wordM_sz (op d o : BitVec 8) (b : Fin 8) (sz : BitVec 3) (nt sx : Bool) : fSz (wordM op d o b sz nt sx) = sz := M_sz op d o (bits 3 b) sz (BitVec.ofBool nt) (BitVec.ofBool sx)
@[simp] theorem wordM_b (op d o : BitVec 8) (b : Fin 8) (sz : BitVec 3) (nt sx : Bool) : fBase (wordM op d o b sz nt sx) = b := (congrArg BitVec.toFin (M_b op d o (bits 3 b) sz (BitVec.ofBool nt) (BitVec.ofBool sx))).trans (fin_bits3 b)
@[simp] theorem wordM_nt (op d o : BitVec 8) (b : Fin 8) (sz : BitVec 3) (nt sx : Bool) : (wordM op d o b sz nt sx).getLsbD 1 = nt := bit_of_field _ _ _ (M_nt op d o (bits 3 b) sz (BitVec.ofBool nt) (BitVec.ofBool sx))
@[simp] theorem wordM_sx (op d o : BitVec 8) (b : Fin 8) (sz : BitVec 3) (nt sx : Bool) : (wordM op d o b sz nt sx).getLsbD 0 = sx := bit_of_field _ _ _ (M_sx op d o (bits 3 b) sz (BitVec.ofBool nt) (BitVec.ofBool sx))
@[simp] theorem wordM_low (op d o : BitVec 8) (b : Fin 8) (sz : BitVec 3) (nt sx : Bool) : (wordM op d o b sz nt sx).extractLsb' 0 1 = BitVec.ofBool sx := M_sx op d o (bits 3 b) sz (BitVec.ofBool nt) (BitVec.ofBool sx)
@[simp] theorem wordA_op (op d o : BitVec 8) (b : Fin 8) (r : Fin 32) : fOp (wordA op d o b r) = op := A_op op d o (bits 3 b) (bits 5 r)
@[simp] theorem wordA_d (op d o : BitVec 8) (b : Fin 8) (r : Fin 32) : fD (wordA op d o b r) = d := A_d op d o (bits 3 b) (bits 5 r)
@[simp] theorem wordA_o (op d o : BitVec 8) (b : Fin 8) (r : Fin 32) : fA (wordA op d o b r) = o := A_o op d o (bits 3 b) (bits 5 r)
@[simp] theorem wordA_b (op d o : BitVec 8) (b : Fin 8) (r : Fin 32) : fBase (wordA op d o b r) = b := (congrArg BitVec.toFin (A_b op d o (bits 3 b) (bits 5 r))).trans (fin_bits3 b)
@[simp] theorem wordA_r (op d o : BitVec 8) (b : Fin 8) (r : Fin 32) : (wordA op d o b r).extractLsb' 0 5 = bits 5 r := A_r op d o (bits 3 b) (bits 5 r)
@[simp] theorem wordR_spec_d (op d a b : BitVec 8) : oD (wordR op d a b) = decodeOperand d := congrArg decodeOperand (R_d op d a b)
@[simp] theorem wordR_spec_a (op d a b : BitVec 8) : oA (wordR op d a b) = decodeOperand a := congrArg decodeOperand (R_a op d a b)
@[simp] theorem wordR_spec_b (op d a b : BitVec 8) : oB (wordR op d a b) = decodeOperand b := congrArg decodeOperand (R_b op d a b)
@[simp] theorem wordI_spec_d (op d : BitVec 8) (i : BitVec 16) : oD (wordI op d i) = decodeOperand d := congrArg decodeOperand (I_d op d i)
@[simp] theorem wordM_spec_d (op d o : BitVec 8) (b : Fin 8) (sz : BitVec 3) (nt sx : Bool) : oD (wordM op d o b sz nt sx) = decodeOperand d := congrArg decodeOperand (M_d op d o (bits 3 b) sz (BitVec.ofBool nt) (BitVec.ofBool sx))
@[simp] theorem wordM_spec_o (op d o : BitVec 8) (b : Fin 8) (sz : BitVec 3) (nt sx : Bool) : oA (wordM op d o b sz nt sx) = decodeOperand o := congrArg decodeOperand (M_o op d o (bits 3 b) sz (BitVec.ofBool nt) (BitVec.ofBool sx))
@[simp] theorem wordA_spec_d (op d o : BitVec 8) (b : Fin 8) (r : Fin 32) : oD (wordA op d o b r) = decodeOperand d := congrArg decodeOperand (A_d op d o (bits 3 b) (bits 5 r))
@[simp] theorem wordA_spec_o (op d o : BitVec 8) (b : Fin 8) (r : Fin 32) : oA (wordA op d o b r) = decodeOperand o := congrArg decodeOperand (A_o op d o (bits 3 b) (bits 5 r))

/-! ### The decoder at each opcode (R68) -/

theorem at_01 (w : Word) (h : fOp w = 0x01#8) : decodeFields w = (fixed [fD w, fA w, fB w] .nop) := by
  unfold decodeFields; rw [h]; rfl
theorem at_02 (w : Word) (h : fOp w = 0x02#8) : decodeFields w = (fixed [fCond w] (.br (fOff w))) := by
  unfold decodeFields; rw [h]; rfl
theorem at_03 (w : Word) (h : fOp w = 0x03#8) : decodeFields w = (if (fCond w).getLsbD 4 then .ok (.bru (decodeCond (fCond w)).n (decodeCond (fCond w)).neg (fOff w)) else .error .reservedCode) := by
  unfold decodeFields; rw [h]; rfl
theorem at_04 (w : Word) (h : fOp w = 0x04#8) : decodeFields w = (.ok (.brv (decodeCond (fCond w)) (fOff w))) := by
  unfold decodeFields; rw [h]; rfl
theorem at_05 (w : Word) (h : fOp w = 0x05#8) : decodeFields w = (fixed [fD w, fA w, fB w] .cnv) := by
  unfold decodeFields; rw [h]; rfl
theorem at_06 (w : Word) (h : fOp w = 0x06#8) : decodeFields w = (fixed [fCond w] (.call (fOff w))) := by
  unfold decodeFields; rw [h]; rfl
theorem at_07 (w : Word) (h : fOp w = 0x07#8) : decodeFields w = (fixed [fD w, fB w] (.callr (oA w))) := by
  unfold decodeFields; rw [h]; rfl
theorem at_08 (w : Word) (h : fOp w = 0x08#8) : decodeFields w = (fixed [fD w, fA w, fB w] .ret) := by
  unfold decodeFields; rw [h]; rfl
theorem at_09 (w : Word) (h : fOp w = 0x09#8) : decodeFields w = (fixed [fD w, fA w, fB w] .exit) := by
  unfold decodeFields; rw [h]; rfl
theorem at_0A (w : Word) (h : fOp w = 0x0A#8) : decodeFields w = (fixed [fD w, fA w] (.regang (fB w))) := by
  unfold decodeFields; rw [h]; rfl
theorem at_0B (w : Word) (h : fOp w = 0x0B#8) : decodeFields w = (.ok (.trap (w.extractLsb' 0 24))) := by
  unfold decodeFields; rw [h]; rfl
theorem at_0C (w : Word) (h : fOp w = 0x0C#8) : decodeFields w = (.ok (.mcall (fD w) (oA w) (oB w))) := by
  unfold decodeFields; rw [h]; rfl
theorem at_0D (w : Word) (h : fOp w = 0x0D#8) : decodeFields w = (fixed [fD w] (.sleep (fImm w))) := by
  unfold decodeFields; rw [h]; rfl
theorem at_10 (w : Word) (h : fOp w = 0x10#8) : decodeFields w = (fixed [w.extractLsb' 0 4] (.modex (w.extractLsb' 19 5) (w.extractLsb' 14 5) (w.extractLsb' 10 4) (w.extractLsb' 7 3) (w.extractLsb' 6 1) (w.extractLsb' 4 2))) := by
  unfold decodeFields; rw [h]; rfl
theorem at_11 (w : Word) (h : fOp w = 0x11#8) : decodeFields w = (fixed [w.extractLsb' 0 10] (.modem (w.extractLsb' 20 4) (w.extractLsb' 17 3) (w.extractLsb' 14 3) (w.extractLsb' 11 3) (w.extractLsb' 10 1))) := by
  unfold decodeFields; rw [h]; rfl
theorem at_12 (w : Word) (h : fOp w = 0x12#8) : decodeFields w = (fixed [fB w] (.mov (oD w) (oA w))) := by
  unfold decodeFields; rw [h]; rfl
theorem at_13 (w : Word) (h : fOp w = 0x13#8) : decodeFields w = (.ok (.movi (oD w) (fImm w))) := by
  unfold decodeFields; rw [h]; rfl
theorem at_14 (w : Word) (h : fOp w = 0x14#8) : decodeFields w = (.ok (.movh (oD w) (fImm w))) := by
  unfold decodeFields; rw [h]; rfl
theorem at_15 (w : Word) (h : fOp w = 0x15#8) : decodeFields w = (.ok (.sel (oD w) (oA w) (oB w))) := by
  unfold decodeFields; rw [h]; rfl
theorem at_16 (w : Word) (h : fOp w = 0x16#8) : decodeFields w = (fixed [fB w] (.promo (oD w) (oA w))) := by
  unfold decodeFields; rw [h]; rfl
theorem at_17 (w : Word) (h : fOp w = 0x17#8) : decodeFields w = (.ok (.mkaff (oD w) (oA w) (oB w))) := by
  unfold decodeFields; rw [h]; rfl
theorem at_18 (w : Word) (h : fOp w = 0x18#8) : decodeFields w = (fixed [w.extractLsb' 16 2] (.setb (fin (w.extractLsb' 21 3)) (fin (w.extractLsb' 18 3)) (oA w) (oB w))) := by
  unfold decodeFields; rw [h]; rfl
theorem at_19 (w : Word) (h : fOp w = 0x19#8) : decodeFields w = (.ok (.rdsr (oD w) (fImm w))) := by
  unfold decodeFields; rw [h]; rfl
theorem at_1A (w : Word) (h : fOp w = 0x1A#8) : decodeFields w = (.ok (.wrsr (oD w) (fImm w))) := by
  unfold decodeFields; rw [h]; rfl
theorem at_20 (w : Word) (h : fOp w = 0x20#8) : decodeFields w = (.ok (.add (oD w) (oA w) (oB w))) := by
  unfold decodeFields; rw [h]; rfl
theorem at_21 (w : Word) (h : fOp w = 0x21#8) : decodeFields w = (.ok (.sub (oD w) (oA w) (oB w))) := by
  unfold decodeFields; rw [h]; rfl
theorem at_22 (w : Word) (h : fOp w = 0x22#8) : decodeFields w = (.ok (.mul (oD w) (oA w) (oB w))) := by
  unfold decodeFields; rw [h]; rfl
theorem at_23 (w : Word) (h : fOp w = 0x23#8) : decodeFields w = (.ok (.mulh (oD w) (oA w) (oB w))) := by
  unfold decodeFields; rw [h]; rfl
theorem at_24 (w : Word) (h : fOp w = 0x24#8) : decodeFields w = (.ok (.mad (oD w) (oA w) (oB w))) := by
  unfold decodeFields; rw [h]; rfl
theorem at_25 (w : Word) (h : fOp w = 0x25#8) : decodeFields w = (fixed [fB w] (.neg (oD w) (oA w))) := by
  unfold decodeFields; rw [h]; rfl
theorem at_26 (w : Word) (h : fOp w = 0x26#8) : decodeFields w = (fixed [fB w] (.abs (oD w) (oA w))) := by
  unfold decodeFields; rw [h]; rfl
theorem at_27 (w : Word) (h : fOp w = 0x27#8) : decodeFields w = (.ok (.min (oD w) (oA w) (oB w))) := by
  unfold decodeFields; rw [h]; rfl
theorem at_28 (w : Word) (h : fOp w = 0x28#8) : decodeFields w = (.ok (.max (oD w) (oA w) (oB w))) := by
  unfold decodeFields; rw [h]; rfl
theorem at_29 (w : Word) (h : fOp w = 0x29#8) : decodeFields w = (fixed [fB w] (.clz (oD w) (oA w))) := by
  unfold decodeFields; rw [h]; rfl
theorem at_2A (w : Word) (h : fOp w = 0x2A#8) : decodeFields w = (fixed [fB w] (.popc (oD w) (oA w))) := by
  unfold decodeFields; rw [h]; rfl
theorem at_2B (w : Word) (h : fOp w = 0x2B#8) : decodeFields w = (fixed [fB w] (.brev (oD w) (oA w))) := by
  unfold decodeFields; rw [h]; rfl
theorem at_30 (w : Word) (h : fOp w = 0x30#8) : decodeFields w = (.ok (.and (oD w) (oA w) (oB w))) := by
  unfold decodeFields; rw [h]; rfl
theorem at_31 (w : Word) (h : fOp w = 0x31#8) : decodeFields w = (.ok (.or (oD w) (oA w) (oB w))) := by
  unfold decodeFields; rw [h]; rfl
theorem at_32 (w : Word) (h : fOp w = 0x32#8) : decodeFields w = (.ok (.xor (oD w) (oA w) (oB w))) := by
  unfold decodeFields; rw [h]; rfl
theorem at_33 (w : Word) (h : fOp w = 0x33#8) : decodeFields w = (fixed [fB w] (.not (oD w) (oA w))) := by
  unfold decodeFields; rw [h]; rfl
theorem at_34 (w : Word) (h : fOp w = 0x34#8) : decodeFields w = (.ok (.shl (oD w) (oA w) (oB w))) := by
  unfold decodeFields; rw [h]; rfl
theorem at_35 (w : Word) (h : fOp w = 0x35#8) : decodeFields w = (.ok (.shr (oD w) (oA w) (oB w))) := by
  unfold decodeFields; rw [h]; rfl
theorem at_36 (w : Word) (h : fOp w = 0x36#8) : decodeFields w = (.ok (.sar (oD w) (oA w) (oB w))) := by
  unfold decodeFields; rw [h]; rfl
theorem at_37 (w : Word) (h : fOp w = 0x37#8) : decodeFields w = (.ok (.rot (oD w) (oA w) (oB w))) := by
  unfold decodeFields; rw [h]; rfl
theorem at_38 (w : Word) (h : fOp w = 0x38#8) : decodeFields w = (.ok (.bfx (oD w) (oA w) (oB w))) := by
  unfold decodeFields; rw [h]; rfl
theorem at_39 (w : Word) (h : fOp w = 0x39#8) : decodeFields w = (.ok (.bfi (oD w) (oA w) (oB w))) := by
  unfold decodeFields; rw [h]; rfl
theorem at_40 (w : Word) (h : fOp w = 0x40#8) : decodeFields w = (.ok (.fadd (oD w) (oA w) (oB w))) := by
  unfold decodeFields; rw [h]; rfl
theorem at_41 (w : Word) (h : fOp w = 0x41#8) : decodeFields w = (.ok (.fsub (oD w) (oA w) (oB w))) := by
  unfold decodeFields; rw [h]; rfl
theorem at_42 (w : Word) (h : fOp w = 0x42#8) : decodeFields w = (.ok (.fmul (oD w) (oA w) (oB w))) := by
  unfold decodeFields; rw [h]; rfl
theorem at_43 (w : Word) (h : fOp w = 0x43#8) : decodeFields w = (.ok (.fma (oD w) (oA w) (oB w))) := by
  unfold decodeFields; rw [h]; rfl
theorem at_44 (w : Word) (h : fOp w = 0x44#8) : decodeFields w = (.ok (.fmin (oD w) (oA w) (oB w))) := by
  unfold decodeFields; rw [h]; rfl
theorem at_45 (w : Word) (h : fOp w = 0x45#8) : decodeFields w = (.ok (.fmax (oD w) (oA w) (oB w))) := by
  unfold decodeFields; rw [h]; rfl
theorem at_46 (w : Word) (h : fOp w = 0x46#8) : decodeFields w = (fixed [fB w] (.fabs (oD w) (oA w))) := by
  unfold decodeFields; rw [h]; rfl
theorem at_47 (w : Word) (h : fOp w = 0x47#8) : decodeFields w = (fixed [fB w] (.fneg (oD w) (oA w))) := by
  unfold decodeFields; rw [h]; rfl
theorem at_50 (w : Word) (h : fOp w = 0x50#8) : decodeFields w = (.ok (.cmpEq (oD w) (oA w) (oB w))) := by
  unfold decodeFields; rw [h]; rfl
theorem at_51 (w : Word) (h : fOp w = 0x51#8) : decodeFields w = (.ok (.cmpNe (oD w) (oA w) (oB w))) := by
  unfold decodeFields; rw [h]; rfl
theorem at_52 (w : Word) (h : fOp w = 0x52#8) : decodeFields w = (.ok (.cmpLt (oD w) (oA w) (oB w))) := by
  unfold decodeFields; rw [h]; rfl
theorem at_53 (w : Word) (h : fOp w = 0x53#8) : decodeFields w = (.ok (.cmpLe (oD w) (oA w) (oB w))) := by
  unfold decodeFields; rw [h]; rfl
theorem at_54 (w : Word) (h : fOp w = 0x54#8) : decodeFields w = (.ok (.cmpGt (oD w) (oA w) (oB w))) := by
  unfold decodeFields; rw [h]; rfl
theorem at_55 (w : Word) (h : fOp w = 0x55#8) : decodeFields w = (.ok (.cmpGe (oD w) (oA w) (oB w))) := by
  unfold decodeFields; rw [h]; rfl
theorem at_58 (w : Word) (h : fOp w = 0x58#8) : decodeFields w = (.ok (.fcmpEq (oD w) (oA w) (oB w))) := by
  unfold decodeFields; rw [h]; rfl
theorem at_59 (w : Word) (h : fOp w = 0x59#8) : decodeFields w = (.ok (.fcmpNe (oD w) (oA w) (oB w))) := by
  unfold decodeFields; rw [h]; rfl
theorem at_5A (w : Word) (h : fOp w = 0x5A#8) : decodeFields w = (.ok (.fcmpLt (oD w) (oA w) (oB w))) := by
  unfold decodeFields; rw [h]; rfl
theorem at_5B (w : Word) (h : fOp w = 0x5B#8) : decodeFields w = (.ok (.fcmpLe (oD w) (oA w) (oB w))) := by
  unfold decodeFields; rw [h]; rfl
theorem at_5C (w : Word) (h : fOp w = 0x5C#8) : decodeFields w = (.ok (.fcmpGt (oD w) (oA w) (oB w))) := by
  unfold decodeFields; rw [h]; rfl
theorem at_5D (w : Word) (h : fOp w = 0x5D#8) : decodeFields w = (.ok (.fcmpGe (oD w) (oA w) (oB w))) := by
  unfold decodeFields; rw [h]; rfl
theorem at_5E (w : Word) (h : fOp w = 0x5E#8) : decodeFields w = (.ok (.fcmpUn (oD w) (oA w) (oB w))) := by
  unfold decodeFields; rw [h]; rfl
theorem at_60 (w : Word) (h : fOp w = 0x60#8) : decodeFields w = (.ok (.cvt (oD w) (oA w) (oB w))) := by
  unfold decodeFields; rw [h]; rfl
theorem at_61 (w : Word) (h : fOp w = 0x61#8) : decodeFields w = (.ok (.cvt8 (oD w) (oA w) (oB w))) := by
  unfold decodeFields; rw [h]; rfl
theorem at_62 (w : Word) (h : fOp w = 0x62#8) : decodeFields w = (fixed [fB w] (.bsc (oD w) (oA w))) := by
  unfold decodeFields; rw [h]; rfl
theorem at_63 (w : Word) (h : fOp w = 0x63#8) : decodeFields w = (.ok (.bsq (oD w) (oA w) (oB w))) := by
  unfold decodeFields; rw [h]; rfl
theorem at_70 (w : Word) (h : fOp w = 0x70#8) : decodeFields w = (fixed [fB w] (.exp2 (oD w) (oA w))) := by
  unfold decodeFields; rw [h]; rfl
theorem at_71 (w : Word) (h : fOp w = 0x71#8) : decodeFields w = (fixed [fB w] (.log2 (oD w) (oA w))) := by
  unfold decodeFields; rw [h]; rfl
theorem at_72 (w : Word) (h : fOp w = 0x72#8) : decodeFields w = (fixed [fB w] (.rcp (oD w) (oA w))) := by
  unfold decodeFields; rw [h]; rfl
theorem at_73 (w : Word) (h : fOp w = 0x73#8) : decodeFields w = (fixed [fB w] (.rsq (oD w) (oA w))) := by
  unfold decodeFields; rw [h]; rfl
theorem at_74 (w : Word) (h : fOp w = 0x74#8) : decodeFields w = (fixed [fB w] (.sqrt (oD w) (oA w))) := by
  unfold decodeFields; rw [h]; rfl
theorem at_75 (w : Word) (h : fOp w = 0x75#8) : decodeFields w = (fixed [fB w] (.sin (oD w) (oA w))) := by
  unfold decodeFields; rw [h]; rfl
theorem at_76 (w : Word) (h : fOp w = 0x76#8) : decodeFields w = (fixed [fB w] (.cos (oD w) (oA w))) := by
  unfold decodeFields; rw [h]; rfl
theorem at_77 (w : Word) (h : fOp w = 0x77#8) : decodeFields w = (fixed [fB w] (.tanh (oD w) (oA w))) := by
  unfold decodeFields; rw [h]; rfl
theorem at_78 (w : Word) (h : fOp w = 0x78#8) : decodeFields w = (fixed [fB w] (.sigm (oD w) (oA w))) := by
  unfold decodeFields; rw [h]; rfl
theorem at_80 (w : Word) (h : fOp w = 0x80#8) : decodeFields w = (.ok (.shflIdx (oD w) (oA w) (oB w))) := by
  unfold decodeFields; rw [h]; rfl
theorem at_81 (w : Word) (h : fOp w = 0x81#8) : decodeFields w = (.ok (.shflUp (oD w) (oA w) (oB w))) := by
  unfold decodeFields; rw [h]; rfl
theorem at_82 (w : Word) (h : fOp w = 0x82#8) : decodeFields w = (.ok (.shflDn (oD w) (oA w) (oB w))) := by
  unfold decodeFields; rw [h]; rfl
theorem at_83 (w : Word) (h : fOp w = 0x83#8) : decodeFields w = (.ok (.shflXor (oD w) (oA w) (oB w))) := by
  unfold decodeFields; rw [h]; rfl
theorem at_84 (w : Word) (h : fOp w = 0x84#8) : decodeFields w = (fixed [fB w] (.voteAny (oD w) (oA w))) := by
  unfold decodeFields; rw [h]; rfl
theorem at_85 (w : Word) (h : fOp w = 0x85#8) : decodeFields w = (fixed [fB w] (.voteAll (oD w) (oA w))) := by
  unfold decodeFields; rw [h]; rfl
theorem at_86 (w : Word) (h : fOp w = 0x86#8) : decodeFields w = (fixed [fB w] (.voteBal (oD w) (oA w))) := by
  unfold decodeFields; rw [h]; rfl
theorem at_87 (w : Word) (h : fOp w = 0x87#8) : decodeFields w = (fixed [fB w] (.redAdd (oD w) (oA w))) := by
  unfold decodeFields; rw [h]; rfl
theorem at_88 (w : Word) (h : fOp w = 0x88#8) : decodeFields w = (fixed [fB w] (.redMin (oD w) (oA w))) := by
  unfold decodeFields; rw [h]; rfl
theorem at_89 (w : Word) (h : fOp w = 0x89#8) : decodeFields w = (fixed [fB w] (.redMax (oD w) (oA w))) := by
  unfold decodeFields; rw [h]; rfl
theorem at_8A (w : Word) (h : fOp w = 0x8A#8) : decodeFields w = (.ok (.scan (oD w) (oA w) (oB w))) := by
  unfold decodeFields; rw [h]; rfl
theorem at_8B (w : Word) (h : fOp w = 0x8B#8) : decodeFields w = (.ok (.scanx (oD w) (oA w) (oB w))) := by
  unfold decodeFields; rw [h]; rfl
theorem at_8C (w : Word) (h : fOp w = 0x8C#8) : decodeFields w = (fixed [fB w] (.matchKey (oD w) (oA w))) := by
  unfold decodeFields; rw [h]; rfl
theorem at_8D (w : Word) (h : fOp w = 0x8D#8) : decodeFields w = (.ok (.rdlane (oD w) (oA w) (oB w))) := by
  unfold decodeFields; rw [h]; rfl
theorem at_8E (w : Word) (h : fOp w = 0x8E#8) : decodeFields w = (.ok (.wrlane (oD w) (oA w) (oB w))) := by
  unfold decodeFields; rw [h]; rfl
theorem at_90 (w : Word) (h : fOp w = 0x90#8) : decodeFields w = (.ok (.ld (oD w) (oA w) (fBase w) (fSz w) (w.getLsbD 0) (w.getLsbD 1))) := by
  unfold decodeFields; rw [h]; rfl
theorem at_91 (w : Word) (h : fOp w = 0x91#8) : decodeFields w = (fixed [w.extractLsb' 0 1] (.st (oD w) (oA w) (fBase w) (fSz w) (w.getLsbD 1))) := by
  unfold decodeFields; rw [h]; rfl
theorem at_92 (w : Word) (h : fOp w = 0x92#8) : decodeFields w = (.ok (.ldu (oD w) (oA w) (fBase w) (fSz w) (w.getLsbD 0) (w.getLsbD 1))) := by
  unfold decodeFields; rw [h]; rfl
theorem at_93 (w : Word) (h : fOp w = 0x93#8) : decodeFields w = (.ok (.stu (oD w) (oA w) (fBase w) (fSz w) (w.getLsbD 0) (w.getLsbD 1))) := by
  unfold decodeFields; rw [h]; rfl
theorem at_94 (w : Word) (h : fOp w = 0x94#8) : decodeFields w = (if w.getLsbD 0 then .error .reservedField else fixed [fD w] (.pf (oA w) (fBase w) (fSz w) (w.getLsbD 1))) := by
  unfold decodeFields; rw [h]; rfl
theorem at_A0 (w : Word) (h : fOp w = 0xA0#8) : decodeFields w = (fixed [w.extractLsb' 0 5] (.lda (oD w) (oA w) (fBase w))) := by
  unfold decodeFields; rw [h]; rfl
theorem at_A1 (w : Word) (h : fOp w = 0xA1#8) : decodeFields w = (fixed [w.extractLsb' 0 5] (.sta (oD w) (oA w) (fBase w))) := by
  unfold decodeFields; rw [h]; rfl
theorem at_A2 (w : Word) (h : fOp w = 0xA2#8) : decodeFields w = (.ok (.atomAdd (oD w) (oA w) (fBase w) (fin (w.extractLsb' 0 5)))) := by
  unfold decodeFields; rw [h]; rfl
theorem at_A3 (w : Word) (h : fOp w = 0xA3#8) : decodeFields w = (.ok (.atomMin (oD w) (oA w) (fBase w) (fin (w.extractLsb' 0 5)))) := by
  unfold decodeFields; rw [h]; rfl
theorem at_A4 (w : Word) (h : fOp w = 0xA4#8) : decodeFields w = (.ok (.atomMax (oD w) (oA w) (fBase w) (fin (w.extractLsb' 0 5)))) := by
  unfold decodeFields; rw [h]; rfl
theorem at_A5 (w : Word) (h : fOp w = 0xA5#8) : decodeFields w = (.ok (.atomAnd (oD w) (oA w) (fBase w) (fin (w.extractLsb' 0 5)))) := by
  unfold decodeFields; rw [h]; rfl
theorem at_A6 (w : Word) (h : fOp w = 0xA6#8) : decodeFields w = (.ok (.atomOr (oD w) (oA w) (fBase w) (fin (w.extractLsb' 0 5)))) := by
  unfold decodeFields; rw [h]; rfl
theorem at_A7 (w : Word) (h : fOp w = 0xA7#8) : decodeFields w = (.ok (.atomXor (oD w) (oA w) (fBase w) (fin (w.extractLsb' 0 5)))) := by
  unfold decodeFields; rw [h]; rfl
theorem at_A8 (w : Word) (h : fOp w = 0xA8#8) : decodeFields w = (.ok (.atomXchg (oD w) (oA w) (fBase w) (fin (w.extractLsb' 0 5)))) := by
  unfold decodeFields; rw [h]; rfl
theorem at_A9 (w : Word) (h : fOp w = 0xA9#8) : decodeFields w = (.ok (.atomCas (oD w) (oA w) (fBase w) (fin (w.extractLsb' 0 5)))) := by
  unfold decodeFields; rw [h]; rfl
theorem at_AA (w : Word) (h : fOp w = 0xAA#8) : decodeFields w = (.ok (.atomFadd (oD w) (oA w) (fBase w) (fin (w.extractLsb' 0 5)))) := by
  unfold decodeFields; rw [h]; rfl
theorem at_AB (w : Word) (h : fOp w = 0xAB#8) : decodeFields w = (.ok (.atomInc (oD w) (oA w) (fBase w) (fin (w.extractLsb' 0 5)))) := by
  unfold decodeFields; rw [h]; rfl
theorem at_B0 (w : Word) (h : fOp w = 0xB0#8) : decodeFields w = (fixed [w.extractLsb' 0 9] (.cqPost (fin (w.extractLsb' 22 2)) (decodeOperand (w.extractLsb' 14 8)) (fin (w.extractLsb' 9 5)))) := by
  unfold decodeFields; rw [h]; rfl
theorem at_B1 (w : Word) (h : fOp w = 0xB1#8) : decodeFields w = (fixed [fA w, fB w] (.batClose (oD w))) := by
  unfold decodeFields; rw [h]; rfl
theorem at_B2 (w : Word) (h : fOp w = 0xB2#8) : decodeFields w = (fixed [fD w, fB w] (.waitBat (oA w))) := by
  unfold decodeFields; rw [h]; rfl
theorem at_B3 (w : Word) (h : fOp w = 0xB3#8) : decodeFields w = (fixed [fD w, fB w] (.hbFill (oA w))) := by
  unfold decodeFields; rw [h]; rfl
theorem at_B4 (w : Word) (h : fOp w = 0xB4#8) : decodeFields w = (fixed [fD w, fB w] (.hbAcq (oA w))) := by
  unfold decodeFields; rw [h]; rfl
theorem at_B5 (w : Word) (h : fOp w = 0xB5#8) : decodeFields w = (fixed [fD w, fB w] (.hbRel (oA w))) := by
  unfold decodeFields; rw [h]; rfl
theorem at_B6 (w : Word) (h : fOp w = 0xB6#8) : decodeFields w = (fixed [fB w] (.hbState (oD w) (oA w))) := by
  unfold decodeFields; rw [h]; rfl
theorem at_B7 (w : Word) (h : fOp w = 0xB7#8) : decodeFields w = (fixed [fD w] (.hbCfg (oA w) (oB w))) := by
  unfold decodeFields; rw [h]; rfl
theorem at_C0 (w : Word) (h : fOp w = 0xC0#8) : decodeFields w = (fixed [w.extractLsb' 3 1] (.mmaBi8 (fin (w.extractLsb' 19 5)) (fin (w.extractLsb' 14 5)) (fin (w.extractLsb' 12 2)) (fin (w.extractLsb' 6 6)) (fin (w.extractLsb' 4 2)) (fin (w.extractLsb' 1 2)) (w.getLsbD 0))) := by
  unfold decodeFields; rw [h]; rfl
theorem at_C1 (w : Word) (h : fOp w = 0xC1#8) : decodeFields w = (fixed [w.extractLsb' 3 1] (.mmaBi4 (fin (w.extractLsb' 19 5)) (fin (w.extractLsb' 14 5)) (fin (w.extractLsb' 12 2)) (fin (w.extractLsb' 6 6)) (fin (w.extractLsb' 4 2)) (fin (w.extractLsb' 1 2)) (w.getLsbD 0))) := by
  unfold decodeFields; rw [h]; rfl
theorem at_C2 (w : Word) (h : fOp w = 0xC2#8) : decodeFields w = (fixed [w.extractLsb' 3 1] (.mmaI8w (fin (w.extractLsb' 19 5)) (fin (w.extractLsb' 14 5)) (fin (w.extractLsb' 12 2)) (fin (w.extractLsb' 6 6)) (fin (w.extractLsb' 4 2)) (fin (w.extractLsb' 1 2)) (w.getLsbD 0))) := by
  unfold decodeFields; rw [h]; rfl
theorem at_C3 (w : Word) (h : fOp w = 0xC3#8) : decodeFields w = (fixed [fD w, fA w, fB w] .mwait) := by
  unfold decodeFields; rw [h]; rfl
theorem at_C4 (w : Word) (h : fOp w = 0xC4#8) : decodeFields w = (fixed [fD w, fB w] (.mzero (oA w))) := by
  unfold decodeFields; rw [h]; rfl
theorem at_C5 (w : Word) (h : fOp w = 0xC5#8) : decodeFields w = (fixed [fB w] (.mnorm (oD w) (oA w))) := by
  unfold decodeFields; rw [h]; rfl
theorem at_C6 (w : Word) (h : fOp w = 0xC6#8) : decodeFields w = (fixed [fD w, fB w] (.mwsel (oA w))) := by
  unfold decodeFields; rw [h]; rfl
theorem at_C7 (w : Word) (h : fOp w = 0xC7#8) : decodeFields w = (fixed [fD w, fA w, fB w] .mfence) := by
  unfold decodeFields; rw [h]; rfl
theorem at_C8 (w : Word) (h : fOp w = 0xC8#8) : decodeFields w = (fixed [fD w, fA w, fB w] .btonTake) := by
  unfold decodeFields; rw [h]; rfl
theorem at_C9 (w : Word) (h : fOp w = 0xC9#8) : decodeFields w = (fixed [fD w, fA w, fB w] .btonPass) := by
  unfold decodeFields; rw [h]; rfl
theorem at_D0 (w : Word) (h : fOp w = 0xD0#8) : decodeFields w = (fixed [fD w] (.recRun (oA w) (oB w))) := by
  unfold decodeFields; rw [h]; rfl
theorem at_D1 (w : Word) (h : fOp w = 0xD1#8) : decodeFields w = (fixed [fA w, fB w] (.recChild (oD w))) := by
  unfold decodeFields; rw [h]; rfl
theorem at_D2 (w : Word) (h : fOp w = 0xD2#8) : decodeFields w = (fixed [fD w, fB w] (.recRet (oA w))) := by
  unfold decodeFields; rw [h]; rfl
theorem at_D3 (w : Word) (h : fOp w = 0xD3#8) : decodeFields w = (fixed [fA w, fB w] (.recWait (oD w))) := by
  unfold decodeFields; rw [h]; rfl
theorem at_D4 (w : Word) (h : fOp w = 0xD4#8) : decodeFields w = (.ok (.spawn (oD w) (oA w) (oB w))) := by
  unfold decodeFields; rw [h]; rfl
theorem at_D5 (w : Word) (h : fOp w = 0xD5#8) : decodeFields w = (fixed [fA w, fB w] (.cjoin (oD w))) := by
  unfold decodeFields; rw [h]; rfl
theorem at_E0 (w : Word) (h : fOp w = 0xE0#8) : decodeFields w = (fixed [w.extractLsb' 0 11] (.barInit (fin (w.extractLsb' 19 5)) (decodeOperand (w.extractLsb' 11 8)))) := by
  unfold decodeFields; rw [h]; rfl
theorem at_E1 (w : Word) (h : fOp w = 0xE1#8) : decodeFields w = (fixed [w.extractLsb' 0 11] (.barArrive (fin (w.extractLsb' 19 5)) (decodeOperand (w.extractLsb' 11 8)))) := by
  unfold decodeFields; rw [h]; rfl
theorem at_E2 (w : Word) (h : fOp w = 0xE2#8) : decodeFields w = (fixed [w.extractLsb' 0 11] (.barWait (fin (w.extractLsb' 19 5)) (decodeOperand (w.extractLsb' 11 8)))) := by
  unfold decodeFields; rw [h]; rfl
theorem at_E3 (w : Word) (h : fOp w = 0xE3#8) : decodeFields w = (fixed [w.extractLsb' 0 11] (.barSync (fin (w.extractLsb' 19 5)) (decodeOperand (w.extractLsb' 11 8)))) := by
  unfold decodeFields; rw [h]; rfl
theorem at_E4 (w : Word) (h : fOp w = 0xE4#8) : decodeFields w = (fixed [w.extractLsb' 0 11] (.barInval (fin (w.extractLsb' 19 5)) (decodeOperand (w.extractLsb' 11 8)))) := by
  unfold decodeFields; rw [h]; rfl
theorem at_E5 (w : Word) (h : fOp w = 0xE5#8) : decodeFields w = (if w.extractLsb' 0 19 = 0 then decodeFence (w.extractLsb' 19 2) (fin (w.extractLsb' 21 3)) else .error .reservedField) := by
  unfold decodeFields; rw [h]; rfl
theorem at_E6 (w : Word) (h : fOp w = 0xE6#8) : decodeFields w = (if fD w = 0 ∧ w.extractLsb' 2 14 = 0 then decodeRgn (w.extractLsb' 0 2) else .error .reservedField) := by
  unfold decodeFields; rw [h]; rfl
theorem at_E7 (w : Word) (h : fOp w = 0xE7#8) : decodeFields w = (fixed [fD w, fA w, fB w] .ckpt) := by
  unfold decodeFields; rw [h]; rfl
theorem at_E8 (w : Word) (h : fOp w = 0xE8#8) : decodeFields w = (fixed [fD w] (.balBurn (oA w) (oB w))) := by
  unfold decodeFields; rw [h]; rfl
theorem at_E9 (w : Word) (h : fOp w = 0xE9#8) : decodeFields w = (fixed [fB w] (.balShunt (oD w) (oA w))) := by
  unfold decodeFields; rw [h]; rfl
theorem at_EA (w : Word) (h : fOp w = 0xEA#8) : decodeFields w = (fixed [fD w, fA w, fB w] .balStop) := by
  unfold decodeFields; rw [h]; rfl
theorem at_F0 (w : Word) (h : fOp w = 0xF0#8) : decodeFields w = (fixed [fD w, fA w, fB w] .eret) := by
  unfold decodeFields; rw [h]; rfl
theorem at_F1 (w : Word) (h : fOp w = 0xF1#8) : decodeFields w = (.ok (.hv (w.extractLsb' 0 24))) := by
  unfold decodeFields; rw [h]; rfl
theorem at_F2 (w : Word) (h : fOp w = 0xF2#8) : decodeFields w = (fixed [fD w] (.mcsWr (oA w) (oB w))) := by
  unfold decodeFields; rw [h]; rfl
theorem at_F3 (w : Word) (h : fOp w = 0xF3#8) : decodeFields w = (fixed [fD w, fA w, fB w] .iinv) := by
  unfold decodeFields; rw [h]; rfl
theorem at_F4 (w : Word) (h : fOp w = 0xF4#8) : decodeFields w = (fixed [fD w, fB w] (.tlbinv (oA w))) := by
  unfold decodeFields; rw [h]; rfl

end Sys2Proof.Laws
end

