-- ==== Sys2Proof/Laws/Mem.lean ====
section
/-! SUPPORT. Sparse maps and memory: reads after writes, and the canonical form that every memory operation keeps. -/

namespace Sys2Proof.Machine

/-! ### Maps -/

@[simp] theorem Map.find?_nil {α : Type} (n : Nat) : Map.find? ([] : Map α) n = none := rfl

@[simp] theorem Map.find?_insert_same {α : Type} (m : Map α) (n : Nat) (x : α) : Map.find? (Map.insert m n x) n = some x := by
  induction m with
  | nil => simp [Map.insert, Map.find?]
  | cons e r ih =>
    obtain ⟨k, v⟩ := e
    simp only [Map.insert]
    split
    · simp [Map.find?]
    · split
      · simp [Map.find?]
      · next h1 h2 => simp [Map.find?, ih, Ne.symm h2]

theorem Map.find?_insert_ne {α : Type} (m : Map α) {n k : Nat} (x : α) (h : k ≠ n) :
    Map.find? (Map.insert m n x) k = Map.find? m k := by
  induction m with
  | nil => simp [Map.insert, Map.find?, Ne.symm h]
  | cons e r ih =>
    obtain ⟨j, v⟩ := e
    simp only [Map.insert]
    split
    · simp [Map.find?, Ne.symm h]
    · split
      · next h1 h2 => subst h2; simp [Map.find?, Ne.symm h]
      · simp [Map.find?, ih]

/-- The order of the keys, as a statement about pairs. -/
theorem Map.sorted_iff {α : Type} (m : Map α) : Map.sorted m = true ↔ m.Pairwise (fun a b => a.1 < b.1) := by
  induction m with
  | nil => simp [Map.sorted]
  | cons e r ih =>
    cases r with
    | nil => simp [Map.sorted]
    | cons e' r' =>
      simp only [Map.sorted, Bool.and_eq_true, decide_eq_true_eq, ih, List.pairwise_cons]
      constructor
      · rintro ⟨h, h1, h2⟩
        refine ⟨fun a ha => ?_, h1, h2⟩
        rcases List.mem_cons.1 ha with rfl | ha
        · exact h
        · exact Nat.lt_trans h (h1 a ha)
      · rintro ⟨h, h1, h2⟩
        exact ⟨h e' (by simp), h1, h2⟩

/-- A wave just stored is the one found. -/
@[simp] theorem State.wave?_setWave (s : State) (u : Nat) (w : Wave) : (s.setWave u w).wave? u = some w := Map.find?_insert_same _ _ _
/-- Storing a wave leaves the others. -/
theorem State.wave?_setWave_ne (s : State) {u v : Nat} (w : Wave) (h : v ≠ u) : (s.setWave u w).wave? v = s.wave? v :=
  Map.find?_insert_ne _ _ h
@[simp] theorem State.core_setCore (s : State) (c : Nat) (x : CoreSt) : (s.setCore c x).core c = x := by
  simp [State.core, State.setCore]
theorem State.core_setCore_ne (s : State) {c d : Nat} (x : CoreSt) (h : d ≠ c) : (s.setCore c x).core d = s.core d := by
  simp [State.core, State.setCore, Map.find?_insert_ne _ _ h]
@[simp] theorem State.core_updCore (s : State) (c : Nat) (f : CoreSt → CoreSt) : (s.updCore c f).core c = f (s.core c) := State.core_setCore _ _ _
theorem State.core_updCore_ne (s : State) {c d : Nat} (f : CoreSt → CoreSt) (h : d ≠ c) : (s.updCore c f).core d = s.core d :=
  State.core_setCore_ne _ _ h
@[simp] theorem State.cluster_setCluster (s : State) (c : Nat) (x : ClusterSt) : (s.setCluster c x).cluster c = x := by
  simp [State.cluster, State.setCluster]
theorem State.cluster_setCluster_ne (s : State) {c d : Nat} (x : ClusterSt) (h : d ≠ c) : (s.setCluster c x).cluster d = s.cluster d := by
  simp [State.cluster, State.setCluster, Map.find?_insert_ne _ _ h]
@[simp] theorem State.col_setCol (s : State) (c : Nat) (x : ColSt) : (s.setCol c x).col c = x := by simp [State.col, State.setCol]
theorem State.col_setCol_ne (s : State) {c d : Nat} (x : ColSt) (h : d ≠ c) : (s.setCol c x).col d = s.col d := by
  simp [State.col, State.setCol, Map.find?_insert_ne _ _ h]
@[simp] theorem State.core_setWave (s : State) (u : Nat) (w : Wave) (c : Nat) : (s.setWave u w).core c = s.core c := rfl
@[simp] theorem State.cluster_setWave (s : State) (u : Nat) (w : Wave) (c : Nat) : (s.setWave u w).cluster c = s.cluster c := rfl
@[simp] theorem State.wave?_setCore (s : State) (c : Nat) (x : CoreSt) (u : Nat) : (s.setCore c x).wave? u = s.wave? u := rfl
@[simp] theorem State.wave?_updCore (s : State) (c : Nat) (f : CoreSt → CoreSt) (u : Nat) : (s.updCore c f).wave? u = s.wave? u := rfl

/-! ### The canonical form of memory -/

/-- The canonical form as two statements. -/
theorem Memory.wf_iff (m : Mem) : Memory.wf m = true ↔ m.Pairwise (fun a b => a.1 < b.1) ∧ ∀ c ∈ m, c.2 ≠ 0 := by
  simp [Memory.wf, Map.sorted_iff]

/-- Taking cells away keeps the canonical form. -/
theorem Memory.wf_filter (m : Mem) (p : Host.Cell → Bool) (h : Memory.wf m = true) : Memory.wf (m.filter p) = true := by
  rw [Memory.wf_iff] at h ⊢
  exact ⟨h.1.filter _, fun c hc => h.2 c (List.mem_filter.1 hc).1⟩

/-- Zeroing a range keeps the canonical form. -/
theorem Memory.wf_zeroRange (m : Mem) (l n : Nat) (h : Memory.wf m = true) : Memory.wf (m.zeroRange l n) = true := Memory.wf_filter _ _ h

/-- The cells of consecutive bytes: their locations, their order, and none zero. -/
theorem cellsFrom_spec (bs : List Byte) (l : Nat) :
    (cellsFrom l bs).Pairwise (fun a b => a.1 < b.1) ∧ ∀ c ∈ cellsFrom l bs, c.2 ≠ 0 ∧ l ≤ c.1 ∧ c.1 < l + bs.length := by
  induction bs generalizing l with
  | nil => simp [cellsFrom]
  | cons b r ih =>
    obtain ⟨h1, h2⟩ := ih (l + 1)
    simp only [cellsFrom]
    split
    · refine ⟨h1, fun c hc => ?_⟩
      obtain ⟨a, b, d⟩ := h2 c hc
      simp only [List.length_cons]
      exact ⟨a, by omega, by omega⟩
    · next hb =>
      refine ⟨List.pairwise_cons.2 ⟨fun c hc => ?_, h1⟩, fun c hc => ?_⟩
      · have := (h2 c hc).2.1
        show l < c.1
        omega
      · simp only [List.length_cons]
        rcases List.mem_cons.1 hc with rfl | hc
        · exact ⟨hb, by simp, by simp⟩
        · obtain ⟨a, b, d⟩ := h2 c hc
          exact ⟨a, by omega, by omega⟩

/-- Writing bytes keeps the canonical form. -/
theorem Memory.wf_writeBytes (m : Mem) (l : Nat) (bs : List Byte) (h : Memory.wf m = true) : Memory.wf (m.writeBytes l bs) = true := by
  rw [Memory.wf_iff] at h ⊢
  obtain ⟨c1, c2⟩ := cellsFrom_spec bs l
  constructor
  · unfold Mem.writeBytes
    refine List.pairwise_append.2 ⟨List.pairwise_append.2 ⟨h.1.filter _, c1, fun a ha b hb => ?_⟩, h.1.filter _, fun a ha b hb => ?_⟩
    · have := (List.mem_filter.1 ha).2
      have := (c2 b hb).2.1
      simp only [decide_eq_true_eq] at *
      omega
    · have hb := (List.mem_filter.1 hb).2
      simp only [decide_eq_true_eq] at hb
      rcases List.mem_append.1 ha with ha | ha
      · have := (List.mem_filter.1 ha).2
        simp only [decide_eq_true_eq] at this
        omega
      · have := (c2 a ha).2.2
        omega
  · intro c hc
    rcases List.mem_append.1 hc with hc | hc
    · rcases List.mem_append.1 hc with hc | hc
      · exact h.2 c (List.mem_filter.1 hc).1
      · exact (c2 c hc).1
    · exact h.2 c (List.mem_filter.1 hc).1

/-- Writing a number keeps the canonical form. -/
theorem Memory.wf_writeN (m : Mem) (l n x : Nat) (h : Memory.wf m = true) : Memory.wf (m.writeN l n x) = true := Memory.wf_writeBytes _ _ _ h

/-- Writing one byte keeps the canonical form. -/
theorem Memory.wf_write (m : Mem) (l : Nat) (b : Byte) (h : Memory.wf m = true) : Memory.wf (m.write l b) = true := Memory.wf_writeBytes _ _ _ h

/-- The cells that a step of an agent lays down keep the canonical form. -/
theorem Memory.wf_scramble (s : State) (l n : Nat) (h : Memory.wf s.mem = true) : Memory.wf (s.scramble l n).mem = true :=
  Memory.wf_writeBytes _ _ _ h

/-! ### Reading after writing -/

theorem find?_append {α : Type} (a b : Map α) (n : Nat) : Map.find? (a ++ b) n = (Map.find? a n).or (Map.find? b n) := by
  induction a with
  | nil => simp
  | cons e r ih =>
    obtain ⟨k, v⟩ := e
    simp only [List.cons_append, Map.find?]
    split <;> simp [ih]

theorem find?_filter {α : Type} (m : Map α) (p : Nat × α → Bool) (n : Nat) (h : ∀ v, p (n, v) = true) :
    Map.find? (m.filter p) n = Map.find? m n := by
  induction m with
  | nil => rfl
  | cons e r ih =>
    obtain ⟨k, v⟩ := e
    by_cases hk : k = n
    · subst hk; simp [Map.find?, h]
    · by_cases hp : p (k, v) = true
      · simp [Map.find?, hk, hp, ih]
      · simp [Map.find?, hk, hp, ih]

theorem find?_none {α : Type} (m : Map α) (n : Nat) (h : ∀ e ∈ m, e.1 ≠ n) : Map.find? m n = none := by
  induction m with
  | nil => rfl
  | cons e r ih =>
    obtain ⟨k, v⟩ := e
    have hk : k ≠ n := h (k, v) (by simp)
    simp [Map.find?, hk, ih (fun e he => h e (by simp [he]))]

theorem find?_cellsFrom (bs : List Byte) (l i : Nat) (h : i < bs.length) :
    (Map.find? (cellsFrom l bs) (l + i)).getD 0 = bs.getD i 0 := by
  induction bs generalizing l i with
  | nil => simp at h
  | cons b r ih =>
    cases i with
    | zero =>
      simp only [cellsFrom]
      split
      · next hb =>
        rw [find?_none]
        · simp [hb]
        · intro e he
          have := ((cellsFrom_spec r (l + 1)).2 e he).2.1
          omega
      · simp [Map.find?]
    | succ j =>
      have hj : j < r.length := by simpa using h
      have e : l + (j + 1) = (l + 1) + j := by omega
      simp only [cellsFrom]
      split
      · rw [e, ih _ _ hj]; simp
      · have : l ≠ l + 1 + j := by omega
        simp only [e, Map.find?, this, if_false]
        rw [ih _ _ hj]; simp

/-- A byte outside those written reads as before. -/
theorem Mem.read_writeBytes_outside (m : Mem) (l : Nat) (bs : List Byte) (a : Nat) (h : a < l ∨ l + bs.length ≤ a) :
    (m.writeBytes l bs).read a = m.read a := by
  have hc : Map.find? (cellsFrom l bs) a = none := by
    refine find?_none _ _ (fun e he => ?_)
    have := (cellsFrom_spec bs l).2 e he
    omega
  have h1 : a < l → Map.find? (m.filter (fun c => decide (l + bs.length ≤ c.1))) a = none := fun ha => by
    refine find?_none _ _ (fun e he => ?_)
    have := (List.mem_filter.1 he).2
    simp only [decide_eq_true_eq] at this
    omega
  have h2 : l + bs.length ≤ a → Map.find? (m.filter (fun c => decide (c.1 < l))) a = none := fun ha => by
    refine find?_none _ _ (fun e he => ?_)
    have := (List.mem_filter.1 he).2
    simp only [decide_eq_true_eq] at this
    omega
  unfold Mem.read Mem.writeBytes
  rw [find?_append, find?_append, hc]
  rcases h with h | h
  · rw [h1 h, find?_filter _ _ _ (fun v => by simpa using h)]; simp
  · rw [h2 h, find?_filter _ _ _ (fun v => by simpa using h)]; simp

/-- A byte written reads as written. -/
theorem Mem.read_writeBytes_inside (m : Mem) (l : Nat) (bs : List Byte) (i : Nat) (h : i < bs.length) :
    (m.writeBytes l bs).read (l + i) = bs.getD i 0 := by
  have h1 : Map.find? (m.filter (fun c => decide (c.1 < l))) (l + i) = none := by
    refine find?_none _ _ (fun e he => ?_)
    have := (List.mem_filter.1 he).2
    simp only [decide_eq_true_eq] at this
    omega
  have h2 : Map.find? (m.filter (fun c => decide (l + bs.length ≤ c.1))) (l + i) = none := by
    refine find?_none _ _ (fun e he => ?_)
    have := (List.mem_filter.1 he).2
    simp only [decide_eq_true_eq] at this
    omega
  unfold Mem.read Mem.writeBytes
  rw [find?_append, find?_append, h1, h2]
  simpa [unlistedByte] using find?_cellsFrom bs l i h

/-- Zeroed bytes read as zero, the others as before. -/
theorem Mem.read_zeroRange (m : Mem) (l n a : Nat) : (m.zeroRange l n).read a = if l ≤ a ∧ a < l + n then 0 else m.read a := by
  unfold Mem.read Mem.zeroRange
  split
  · next h =>
    rw [find?_none]
    · rfl
    · intro e he
      have := (List.mem_filter.1 he).2
      simp only [Bool.or_eq_true, decide_eq_true_eq] at this
      omega
  · next h =>
    rw [find?_filter _ _ _ (fun v => by simp only [Bool.or_eq_true, decide_eq_true_eq]; omega)]

@[simp] theorem natLe_length (n x : Nat) : (natLe n x).length = n := by
  induction n generalizing x with
  | zero => rfl
  | succ n ih => simp [natLe, ih]

/-- A number written reads back. -/
theorem Mem.readN_writeN (m : Mem) (l n x : Nat) : (m.writeN l n x).readN l n = x % 256 ^ n := by
  have gen : ∀ (n l x : Nat) (f : Mem), (∀ i, i < n → f.read (l + i) = (natLe n x).getD i 0) → f.readN l n = x % 256 ^ n := by
    intro n
    induction n with
    | zero => intro l x f _; simp [Mem.readN, Nat.mod_one]
    | succ n ih =>
      intro l x f h
      have h0 := h 0 (by omega)
      have hr := ih (l + 1) (x / 256) f (fun i hi => by
        have := h (i + 1) (by omega)
        rw [show l + 1 + i = l + (i + 1) by omega, this]
        simp [natLe])
      simp only [Nat.add_zero] at h0
      rw [Mem.readN, hr, h0]
      simp only [natLe, List.getD_cons_zero, BitVec.toNat_ofNat]
      rw [show (256 : Nat) ^ (n + 1) = 256 * 256 ^ n by rw [Nat.pow_succ]; omega, Nat.mod_mul]
  refine gen n l x _ (fun i hi => ?_)
  exact Mem.read_writeBytes_inside _ _ _ _ (by simpa using hi)

end Sys2Proof.Machine
end

