-- ==== Sys2Proof/Laws/State.lean ====
section
/-! SUPPORT. What each update of the state leaves alone: one lemma a field, true by definition. -/

namespace Sys2Proof.Machine

@[simp] theorem State.setWave_mem (s : State) (u : Nat) (w : Wave) : (s.setWave u w).mem = s.mem := rfl
@[simp] theorem State.setWave_poison (s : State) (u : Nat) (w : Wave) : (s.setWave u w).poison = s.poison := rfl
@[simp] theorem State.setWave_nextWave (s : State) (u : Nat) (w : Wave) : (s.setWave u w).nextWave = s.nextWave := rfl
@[simp] theorem State.setWave_cores (s : State) (u : Nat) (w : Wave) : (s.setWave u w).cores = s.cores := rfl
@[simp] theorem State.setWave_clusters (s : State) (u : Nat) (w : Wave) : (s.setWave u w).clusters = s.clusters := rfl
@[simp] theorem State.setWave_cols (s : State) (u : Nat) (w : Wave) : (s.setWave u w).cols = s.cols := rfl
@[simp] theorem State.setWave_groups (s : State) (u : Nat) (w : Wave) : (s.setWave u w).groups = s.groups := rfl
@[simp] theorem State.setWave_nextGroup (s : State) (u : Nat) (w : Wave) : (s.setWave u w).nextGroup = s.nextGroup := rfl
@[simp] theorem State.setWave_launches (s : State) (u : Nat) (w : Wave) : (s.setWave u w).launches = s.launches := rfl
@[simp] theorem State.setWave_nextLaunch (s : State) (u : Nat) (w : Wave) : (s.setWave u w).nextLaunch = s.nextLaunch := rfl
@[simp] theorem State.setWave_copyQs (s : State) (u : Nat) (w : Wave) : (s.setWave u w).copyQs = s.copyQs := rfl
@[simp] theorem State.setWave_workQs (s : State) (u : Nat) (w : Wave) : (s.setWave u w).workQs = s.workQs := rfl
@[simp] theorem State.setWave_svcQs (s : State) (u : Nat) (w : Wave) : (s.setWave u w).svcQs = s.svcQs := rfl
@[simp] theorem State.setWave_kicks (s : State) (u : Nat) (w : Wave) : (s.setWave u w).kicks = s.kicks := rfl
@[simp] theorem State.setWave_graphs (s : State) (u : Nat) (w : Wave) : (s.setWave u w).graphs = s.graphs := rfl
@[simp] theorem State.setWave_filter (s : State) (u : Nat) (w : Wave) : (s.setWave u w).filter = s.filter := rfl
@[simp] theorem State.setWave_turn (s : State) (u : Nat) (w : Wave) : (s.setWave u w).turn = s.turn := rfl
@[simp] theorem State.setWave_decisions (s : State) (u : Nat) (w : Wave) : (s.setWave u w).decisions = s.decisions := rfl
@[simp] theorem State.setWave_preempt (s : State) (u : Nat) (w : Wave) : (s.setWave u w).preempt = s.preempt := rfl
@[simp] theorem State.setWave_stored (s : State) (u : Nat) (w : Wave) : (s.setWave u w).stored = s.stored := rfl
@[simp] theorem State.setWave_quanta (s : State) (u : Nat) (w : Wave) : (s.setWave u w).quanta = s.quanta := rfl
@[simp] theorem State.setWave_active (s : State) (u : Nat) (w : Wave) : (s.setWave u w).active = s.active := rfl
@[simp] theorem State.setWave_takeover (s : State) (u : Nat) (w : Wave) : (s.setWave u w).takeover = s.takeover := rfl
@[simp] theorem State.setWave_heldStores (s : State) (u : Nat) (w : Wave) : (s.setWave u w).heldStores = s.heldStores := rfl
@[simp] theorem State.setWave_heldTrigs (s : State) (u : Nat) (w : Wave) : (s.setWave u w).heldTrigs = s.heldTrigs := rfl
@[simp] theorem State.setWave_heldRecs (s : State) (u : Nat) (w : Wave) : (s.setWave u w).heldRecs = s.heldRecs := rfl
@[simp] theorem State.setWave_deaf (s : State) (u : Nat) (w : Wave) : (s.setWave u w).deaf = s.deaf := rfl
@[simp] theorem State.setWave_journal (s : State) (u : Nat) (w : Wave) : (s.setWave u w).journal = s.journal := rfl
@[simp] theorem State.setWave_zeroing (s : State) (u : Nat) (w : Wave) : (s.setWave u w).zeroing = s.zeroing := rfl
@[simp] theorem State.setWave_live (s : State) (u : Nat) (w : Wave) : (s.setWave u w).live = s.live := rfl
@[simp] theorem State.setWave_shadow (s : State) (u : Nat) (w : Wave) : (s.setWave u w).shadow = s.shadow := rfl
@[simp] theorem State.setWave_gen (s : State) (u : Nat) (w : Wave) : (s.setWave u w).gen = s.gen := rfl
@[simp] theorem State.setWave_sgen (s : State) (u : Nat) (w : Wave) : (s.setWave u w).sgen = s.sgen := rfl
@[simp] theorem State.setWave_stag (s : State) (u : Nat) (w : Wave) : (s.setWave u w).stag = s.stag := rfl
@[simp] theorem State.setWave_bootcnt (s : State) (u : Nat) (w : Wave) : (s.setWave u w).bootcnt = s.bootcnt := rfl
@[simp] theorem State.setWave_res (s : State) (u : Nat) (w : Wave) : (s.setWave u w).res = s.res := rfl
@[simp] theorem State.setWave_commitRec (s : State) (u : Nat) (w : Wave) : (s.setWave u w).commitRec = s.commitRec := rfl
@[simp] theorem State.setWave_fabid (s : State) (u : Nat) (w : Wave) : (s.setWave u w).fabid = s.fabid := rfl
@[simp] theorem State.setWave_fabNext (s : State) (u : Nat) (w : Wave) : (s.setWave u w).fabNext = s.fabNext := rfl
@[simp] theorem State.setWave_lbcfg (s : State) (u : Nat) (w : Wave) : (s.setWave u w).lbcfg = s.lbcfg := rfl
@[simp] theorem State.setWave_inwin (s : State) (u : Nat) (w : Wave) : (s.setWave u w).inwin = s.inwin := rfl
@[simp] theorem State.setWave_buckets (s : State) (u : Nat) (w : Wave) : (s.setWave u w).buckets = s.buckets := rfl
@[simp] theorem State.setWave_raised (s : State) (u : Nat) (w : Wave) : (s.setWave u w).raised = s.raised := rfl
@[simp] theorem State.setWave_testing (s : State) (u : Nat) (w : Wave) : (s.setWave u w).testing = s.testing := rfl
@[simp] theorem State.setWave_testNext (s : State) (u : Nat) (w : Wave) : (s.setWave u w).testNext = s.testNext := rfl
@[simp] theorem State.setWave_spares (s : State) (u : Nat) (w : Wave) : (s.setWave u w).spares = s.spares := rfl
@[simp] theorem State.setWave_otpMin (s : State) (u : Nat) (w : Wave) : (s.setWave u w).otpMin = s.otpMin := rfl
@[simp] theorem State.setWave_booted (s : State) (u : Nat) (w : Wave) : (s.setWave u w).booted = s.booted := rfl
@[simp] theorem State.setWave_images (s : State) (u : Nat) (w : Wave) : (s.setWave u w).images = s.images := rfl
@[simp] theorem State.setWave_tpFw (s : State) (u : Nat) (w : Wave) : (s.setWave u w).tpFw = s.tpFw := rfl
@[simp] theorem State.setWave_fuses (s : State) (u : Nat) (w : Wave) : (s.setWave u w).fuses = s.fuses := rfl
@[simp] theorem State.setWave_hss (s : State) (u : Nat) (w : Wave) : (s.setWave u w).hss = s.hss := rfl
@[simp] theorem State.setWave_portsUp (s : State) (u : Nat) (w : Wave) : (s.setWave u w).portsUp = s.portsUp := rfl
@[simp] theorem State.setWave_tpRegs (s : State) (u : Nat) (w : Wave) : (s.setWave u w).tpRegs = s.tpRegs := rfl
@[simp] theorem State.setWave_events (s : State) (u : Nat) (w : Wave) : (s.setWave u w).events = s.events := rfl
@[simp] theorem State.setWave_agenda (s : State) (u : Nat) (w : Wave) : (s.setWave u w).agenda = s.agenda := rfl
@[simp] theorem State.setWave_evTurn (s : State) (u : Nat) (w : Wave) : (s.setWave u w).evTurn = s.evTurn := rfl
@[simp] theorem State.setWave_act (s : State) (u : Nat) (w : Wave) : (s.setWave u w).act = s.act := rfl
@[simp] theorem State.setWave_regs (s : State) (u : Nat) (w : Wave) : (s.setWave u w).regs = s.regs := rfl
@[simp] theorem State.setWave_sends (s : State) (u : Nat) (w : Wave) : (s.setWave u w).sends = s.sends := rfl
@[simp] theorem State.setWave_evs (s : State) (u : Nat) (w : Wave) : (s.setWave u w).evs = s.evs := rfl
@[simp] theorem State.setWave_nextEv (s : State) (u : Nat) (w : Wave) : (s.setWave u w).nextEv = s.nextEv := rfl
@[simp] theorem State.setWave_syncs (s : State) (u : Nat) (w : Wave) : (s.setWave u w).syncs = s.syncs := rfl
@[simp] theorem State.setWave_thSeen (s : State) (u : Nat) (w : Wave) : (s.setWave u w).thSeen = s.thSeen := rfl
@[simp] theorem State.setWave_outSeen (s : State) (u : Nat) (w : Wave) : (s.setWave u w).outSeen = s.outSeen := rfl
@[simp] theorem State.setWave_quants (s : State) (u : Nat) (w : Wave) : (s.setWave u w).quants = s.quants := rfl
@[simp] theorem State.setWave_owed (s : State) (u : Nat) (w : Wave) : (s.setWave u w).owed = s.owed := rfl
@[simp] theorem State.setWave_freeCtr (s : State) (u : Nat) (w : Wave) : (s.setWave u w).freeCtr = s.freeCtr := rfl
@[simp] theorem State.setWave_drawCtr (s : State) (u : Nat) (w : Wave) : (s.setWave u w).drawCtr = s.drawCtr := rfl

@[simp] theorem State.dropWave_mem (s : State) (u : Nat) : (s.dropWave u).mem = s.mem := rfl
@[simp] theorem State.dropWave_poison (s : State) (u : Nat) : (s.dropWave u).poison = s.poison := rfl
@[simp] theorem State.dropWave_nextWave (s : State) (u : Nat) : (s.dropWave u).nextWave = s.nextWave := rfl
@[simp] theorem State.dropWave_cores (s : State) (u : Nat) : (s.dropWave u).cores = s.cores := rfl
@[simp] theorem State.dropWave_clusters (s : State) (u : Nat) : (s.dropWave u).clusters = s.clusters := rfl
@[simp] theorem State.dropWave_cols (s : State) (u : Nat) : (s.dropWave u).cols = s.cols := rfl
@[simp] theorem State.dropWave_groups (s : State) (u : Nat) : (s.dropWave u).groups = s.groups := rfl
@[simp] theorem State.dropWave_nextGroup (s : State) (u : Nat) : (s.dropWave u).nextGroup = s.nextGroup := rfl
@[simp] theorem State.dropWave_launches (s : State) (u : Nat) : (s.dropWave u).launches = s.launches := rfl
@[simp] theorem State.dropWave_nextLaunch (s : State) (u : Nat) : (s.dropWave u).nextLaunch = s.nextLaunch := rfl
@[simp] theorem State.dropWave_copyQs (s : State) (u : Nat) : (s.dropWave u).copyQs = s.copyQs := rfl
@[simp] theorem State.dropWave_workQs (s : State) (u : Nat) : (s.dropWave u).workQs = s.workQs := rfl
@[simp] theorem State.dropWave_svcQs (s : State) (u : Nat) : (s.dropWave u).svcQs = s.svcQs := rfl
@[simp] theorem State.dropWave_kicks (s : State) (u : Nat) : (s.dropWave u).kicks = s.kicks := rfl
@[simp] theorem State.dropWave_graphs (s : State) (u : Nat) : (s.dropWave u).graphs = s.graphs := rfl
@[simp] theorem State.dropWave_filter (s : State) (u : Nat) : (s.dropWave u).filter = s.filter := rfl
@[simp] theorem State.dropWave_turn (s : State) (u : Nat) : (s.dropWave u).turn = s.turn := rfl
@[simp] theorem State.dropWave_decisions (s : State) (u : Nat) : (s.dropWave u).decisions = s.decisions := rfl
@[simp] theorem State.dropWave_preempt (s : State) (u : Nat) : (s.dropWave u).preempt = s.preempt := rfl
@[simp] theorem State.dropWave_stored (s : State) (u : Nat) : (s.dropWave u).stored = s.stored := rfl
@[simp] theorem State.dropWave_quanta (s : State) (u : Nat) : (s.dropWave u).quanta = s.quanta := rfl
@[simp] theorem State.dropWave_active (s : State) (u : Nat) : (s.dropWave u).active = s.active := rfl
@[simp] theorem State.dropWave_takeover (s : State) (u : Nat) : (s.dropWave u).takeover = s.takeover := rfl
@[simp] theorem State.dropWave_heldStores (s : State) (u : Nat) : (s.dropWave u).heldStores = s.heldStores := rfl
@[simp] theorem State.dropWave_heldTrigs (s : State) (u : Nat) : (s.dropWave u).heldTrigs = s.heldTrigs := rfl
@[simp] theorem State.dropWave_heldRecs (s : State) (u : Nat) : (s.dropWave u).heldRecs = s.heldRecs := rfl
@[simp] theorem State.dropWave_deaf (s : State) (u : Nat) : (s.dropWave u).deaf = s.deaf := rfl
@[simp] theorem State.dropWave_journal (s : State) (u : Nat) : (s.dropWave u).journal = s.journal := rfl
@[simp] theorem State.dropWave_zeroing (s : State) (u : Nat) : (s.dropWave u).zeroing = s.zeroing := rfl
@[simp] theorem State.dropWave_live (s : State) (u : Nat) : (s.dropWave u).live = s.live := rfl
@[simp] theorem State.dropWave_shadow (s : State) (u : Nat) : (s.dropWave u).shadow = s.shadow := rfl
@[simp] theorem State.dropWave_gen (s : State) (u : Nat) : (s.dropWave u).gen = s.gen := rfl
@[simp] theorem State.dropWave_sgen (s : State) (u : Nat) : (s.dropWave u).sgen = s.sgen := rfl
@[simp] theorem State.dropWave_stag (s : State) (u : Nat) : (s.dropWave u).stag = s.stag := rfl
@[simp] theorem State.dropWave_bootcnt (s : State) (u : Nat) : (s.dropWave u).bootcnt = s.bootcnt := rfl
@[simp] theorem State.dropWave_res (s : State) (u : Nat) : (s.dropWave u).res = s.res := rfl
@[simp] theorem State.dropWave_commitRec (s : State) (u : Nat) : (s.dropWave u).commitRec = s.commitRec := rfl
@[simp] theorem State.dropWave_fabid (s : State) (u : Nat) : (s.dropWave u).fabid = s.fabid := rfl
@[simp] theorem State.dropWave_fabNext (s : State) (u : Nat) : (s.dropWave u).fabNext = s.fabNext := rfl
@[simp] theorem State.dropWave_lbcfg (s : State) (u : Nat) : (s.dropWave u).lbcfg = s.lbcfg := rfl
@[simp] theorem State.dropWave_inwin (s : State) (u : Nat) : (s.dropWave u).inwin = s.inwin := rfl
@[simp] theorem State.dropWave_buckets (s : State) (u : Nat) : (s.dropWave u).buckets = s.buckets := rfl
@[simp] theorem State.dropWave_raised (s : State) (u : Nat) : (s.dropWave u).raised = s.raised := rfl
@[simp] theorem State.dropWave_testing (s : State) (u : Nat) : (s.dropWave u).testing = s.testing := rfl
@[simp] theorem State.dropWave_testNext (s : State) (u : Nat) : (s.dropWave u).testNext = s.testNext := rfl
@[simp] theorem State.dropWave_spares (s : State) (u : Nat) : (s.dropWave u).spares = s.spares := rfl
@[simp] theorem State.dropWave_otpMin (s : State) (u : Nat) : (s.dropWave u).otpMin = s.otpMin := rfl
@[simp] theorem State.dropWave_booted (s : State) (u : Nat) : (s.dropWave u).booted = s.booted := rfl
@[simp] theorem State.dropWave_images (s : State) (u : Nat) : (s.dropWave u).images = s.images := rfl
@[simp] theorem State.dropWave_tpFw (s : State) (u : Nat) : (s.dropWave u).tpFw = s.tpFw := rfl
@[simp] theorem State.dropWave_fuses (s : State) (u : Nat) : (s.dropWave u).fuses = s.fuses := rfl
@[simp] theorem State.dropWave_hss (s : State) (u : Nat) : (s.dropWave u).hss = s.hss := rfl
@[simp] theorem State.dropWave_portsUp (s : State) (u : Nat) : (s.dropWave u).portsUp = s.portsUp := rfl
@[simp] theorem State.dropWave_tpRegs (s : State) (u : Nat) : (s.dropWave u).tpRegs = s.tpRegs := rfl
@[simp] theorem State.dropWave_events (s : State) (u : Nat) : (s.dropWave u).events = s.events := rfl
@[simp] theorem State.dropWave_agenda (s : State) (u : Nat) : (s.dropWave u).agenda = s.agenda := rfl
@[simp] theorem State.dropWave_evTurn (s : State) (u : Nat) : (s.dropWave u).evTurn = s.evTurn := rfl
@[simp] theorem State.dropWave_act (s : State) (u : Nat) : (s.dropWave u).act = s.act := rfl
@[simp] theorem State.dropWave_regs (s : State) (u : Nat) : (s.dropWave u).regs = s.regs := rfl
@[simp] theorem State.dropWave_sends (s : State) (u : Nat) : (s.dropWave u).sends = s.sends := rfl
@[simp] theorem State.dropWave_evs (s : State) (u : Nat) : (s.dropWave u).evs = s.evs := rfl
@[simp] theorem State.dropWave_nextEv (s : State) (u : Nat) : (s.dropWave u).nextEv = s.nextEv := rfl
@[simp] theorem State.dropWave_syncs (s : State) (u : Nat) : (s.dropWave u).syncs = s.syncs := rfl
@[simp] theorem State.dropWave_thSeen (s : State) (u : Nat) : (s.dropWave u).thSeen = s.thSeen := rfl
@[simp] theorem State.dropWave_outSeen (s : State) (u : Nat) : (s.dropWave u).outSeen = s.outSeen := rfl
@[simp] theorem State.dropWave_quants (s : State) (u : Nat) : (s.dropWave u).quants = s.quants := rfl
@[simp] theorem State.dropWave_owed (s : State) (u : Nat) : (s.dropWave u).owed = s.owed := rfl
@[simp] theorem State.dropWave_freeCtr (s : State) (u : Nat) : (s.dropWave u).freeCtr = s.freeCtr := rfl
@[simp] theorem State.dropWave_drawCtr (s : State) (u : Nat) : (s.dropWave u).drawCtr = s.drawCtr := rfl

@[simp] theorem State.setCore_mem (s : State) (c : Nat) (x : CoreSt) : (s.setCore c x).mem = s.mem := rfl
@[simp] theorem State.setCore_poison (s : State) (c : Nat) (x : CoreSt) : (s.setCore c x).poison = s.poison := rfl
@[simp] theorem State.setCore_waves (s : State) (c : Nat) (x : CoreSt) : (s.setCore c x).waves = s.waves := rfl
@[simp] theorem State.setCore_nextWave (s : State) (c : Nat) (x : CoreSt) : (s.setCore c x).nextWave = s.nextWave := rfl
@[simp] theorem State.setCore_clusters (s : State) (c : Nat) (x : CoreSt) : (s.setCore c x).clusters = s.clusters := rfl
@[simp] theorem State.setCore_cols (s : State) (c : Nat) (x : CoreSt) : (s.setCore c x).cols = s.cols := rfl
@[simp] theorem State.setCore_groups (s : State) (c : Nat) (x : CoreSt) : (s.setCore c x).groups = s.groups := rfl
@[simp] theorem State.setCore_nextGroup (s : State) (c : Nat) (x : CoreSt) : (s.setCore c x).nextGroup = s.nextGroup := rfl
@[simp] theorem State.setCore_launches (s : State) (c : Nat) (x : CoreSt) : (s.setCore c x).launches = s.launches := rfl
@[simp] theorem State.setCore_nextLaunch (s : State) (c : Nat) (x : CoreSt) : (s.setCore c x).nextLaunch = s.nextLaunch := rfl
@[simp] theorem State.setCore_copyQs (s : State) (c : Nat) (x : CoreSt) : (s.setCore c x).copyQs = s.copyQs := rfl
@[simp] theorem State.setCore_workQs (s : State) (c : Nat) (x : CoreSt) : (s.setCore c x).workQs = s.workQs := rfl
@[simp] theorem State.setCore_svcQs (s : State) (c : Nat) (x : CoreSt) : (s.setCore c x).svcQs = s.svcQs := rfl
@[simp] theorem State.setCore_kicks (s : State) (c : Nat) (x : CoreSt) : (s.setCore c x).kicks = s.kicks := rfl
@[simp] theorem State.setCore_graphs (s : State) (c : Nat) (x : CoreSt) : (s.setCore c x).graphs = s.graphs := rfl
@[simp] theorem State.setCore_filter (s : State) (c : Nat) (x : CoreSt) : (s.setCore c x).filter = s.filter := rfl
@[simp] theorem State.setCore_turn (s : State) (c : Nat) (x : CoreSt) : (s.setCore c x).turn = s.turn := rfl
@[simp] theorem State.setCore_decisions (s : State) (c : Nat) (x : CoreSt) : (s.setCore c x).decisions = s.decisions := rfl
@[simp] theorem State.setCore_preempt (s : State) (c : Nat) (x : CoreSt) : (s.setCore c x).preempt = s.preempt := rfl
@[simp] theorem State.setCore_stored (s : State) (c : Nat) (x : CoreSt) : (s.setCore c x).stored = s.stored := rfl
@[simp] theorem State.setCore_quanta (s : State) (c : Nat) (x : CoreSt) : (s.setCore c x).quanta = s.quanta := rfl
@[simp] theorem State.setCore_active (s : State) (c : Nat) (x : CoreSt) : (s.setCore c x).active = s.active := rfl
@[simp] theorem State.setCore_takeover (s : State) (c : Nat) (x : CoreSt) : (s.setCore c x).takeover = s.takeover := rfl
@[simp] theorem State.setCore_heldStores (s : State) (c : Nat) (x : CoreSt) : (s.setCore c x).heldStores = s.heldStores := rfl
@[simp] theorem State.setCore_heldTrigs (s : State) (c : Nat) (x : CoreSt) : (s.setCore c x).heldTrigs = s.heldTrigs := rfl
@[simp] theorem State.setCore_heldRecs (s : State) (c : Nat) (x : CoreSt) : (s.setCore c x).heldRecs = s.heldRecs := rfl
@[simp] theorem State.setCore_deaf (s : State) (c : Nat) (x : CoreSt) : (s.setCore c x).deaf = s.deaf := rfl
@[simp] theorem State.setCore_journal (s : State) (c : Nat) (x : CoreSt) : (s.setCore c x).journal = s.journal := rfl
@[simp] theorem State.setCore_zeroing (s : State) (c : Nat) (x : CoreSt) : (s.setCore c x).zeroing = s.zeroing := rfl
@[simp] theorem State.setCore_live (s : State) (c : Nat) (x : CoreSt) : (s.setCore c x).live = s.live := rfl
@[simp] theorem State.setCore_shadow (s : State) (c : Nat) (x : CoreSt) : (s.setCore c x).shadow = s.shadow := rfl
@[simp] theorem State.setCore_gen (s : State) (c : Nat) (x : CoreSt) : (s.setCore c x).gen = s.gen := rfl
@[simp] theorem State.setCore_sgen (s : State) (c : Nat) (x : CoreSt) : (s.setCore c x).sgen = s.sgen := rfl
@[simp] theorem State.setCore_stag (s : State) (c : Nat) (x : CoreSt) : (s.setCore c x).stag = s.stag := rfl
@[simp] theorem State.setCore_bootcnt (s : State) (c : Nat) (x : CoreSt) : (s.setCore c x).bootcnt = s.bootcnt := rfl
@[simp] theorem State.setCore_res (s : State) (c : Nat) (x : CoreSt) : (s.setCore c x).res = s.res := rfl
@[simp] theorem State.setCore_commitRec (s : State) (c : Nat) (x : CoreSt) : (s.setCore c x).commitRec = s.commitRec := rfl
@[simp] theorem State.setCore_fabid (s : State) (c : Nat) (x : CoreSt) : (s.setCore c x).fabid = s.fabid := rfl
@[simp] theorem State.setCore_fabNext (s : State) (c : Nat) (x : CoreSt) : (s.setCore c x).fabNext = s.fabNext := rfl
@[simp] theorem State.setCore_lbcfg (s : State) (c : Nat) (x : CoreSt) : (s.setCore c x).lbcfg = s.lbcfg := rfl
@[simp] theorem State.setCore_inwin (s : State) (c : Nat) (x : CoreSt) : (s.setCore c x).inwin = s.inwin := rfl
@[simp] theorem State.setCore_buckets (s : State) (c : Nat) (x : CoreSt) : (s.setCore c x).buckets = s.buckets := rfl
@[simp] theorem State.setCore_raised (s : State) (c : Nat) (x : CoreSt) : (s.setCore c x).raised = s.raised := rfl
@[simp] theorem State.setCore_testing (s : State) (c : Nat) (x : CoreSt) : (s.setCore c x).testing = s.testing := rfl
@[simp] theorem State.setCore_testNext (s : State) (c : Nat) (x : CoreSt) : (s.setCore c x).testNext = s.testNext := rfl
@[simp] theorem State.setCore_spares (s : State) (c : Nat) (x : CoreSt) : (s.setCore c x).spares = s.spares := rfl
@[simp] theorem State.setCore_otpMin (s : State) (c : Nat) (x : CoreSt) : (s.setCore c x).otpMin = s.otpMin := rfl
@[simp] theorem State.setCore_booted (s : State) (c : Nat) (x : CoreSt) : (s.setCore c x).booted = s.booted := rfl
@[simp] theorem State.setCore_images (s : State) (c : Nat) (x : CoreSt) : (s.setCore c x).images = s.images := rfl
@[simp] theorem State.setCore_tpFw (s : State) (c : Nat) (x : CoreSt) : (s.setCore c x).tpFw = s.tpFw := rfl
@[simp] theorem State.setCore_fuses (s : State) (c : Nat) (x : CoreSt) : (s.setCore c x).fuses = s.fuses := rfl
@[simp] theorem State.setCore_hss (s : State) (c : Nat) (x : CoreSt) : (s.setCore c x).hss = s.hss := rfl
@[simp] theorem State.setCore_portsUp (s : State) (c : Nat) (x : CoreSt) : (s.setCore c x).portsUp = s.portsUp := rfl
@[simp] theorem State.setCore_tpRegs (s : State) (c : Nat) (x : CoreSt) : (s.setCore c x).tpRegs = s.tpRegs := rfl
@[simp] theorem State.setCore_events (s : State) (c : Nat) (x : CoreSt) : (s.setCore c x).events = s.events := rfl
@[simp] theorem State.setCore_agenda (s : State) (c : Nat) (x : CoreSt) : (s.setCore c x).agenda = s.agenda := rfl
@[simp] theorem State.setCore_evTurn (s : State) (c : Nat) (x : CoreSt) : (s.setCore c x).evTurn = s.evTurn := rfl
@[simp] theorem State.setCore_act (s : State) (c : Nat) (x : CoreSt) : (s.setCore c x).act = s.act := rfl
@[simp] theorem State.setCore_regs (s : State) (c : Nat) (x : CoreSt) : (s.setCore c x).regs = s.regs := rfl
@[simp] theorem State.setCore_sends (s : State) (c : Nat) (x : CoreSt) : (s.setCore c x).sends = s.sends := rfl
@[simp] theorem State.setCore_evs (s : State) (c : Nat) (x : CoreSt) : (s.setCore c x).evs = s.evs := rfl
@[simp] theorem State.setCore_nextEv (s : State) (c : Nat) (x : CoreSt) : (s.setCore c x).nextEv = s.nextEv := rfl
@[simp] theorem State.setCore_syncs (s : State) (c : Nat) (x : CoreSt) : (s.setCore c x).syncs = s.syncs := rfl
@[simp] theorem State.setCore_thSeen (s : State) (c : Nat) (x : CoreSt) : (s.setCore c x).thSeen = s.thSeen := rfl
@[simp] theorem State.setCore_outSeen (s : State) (c : Nat) (x : CoreSt) : (s.setCore c x).outSeen = s.outSeen := rfl
@[simp] theorem State.setCore_quants (s : State) (c : Nat) (x : CoreSt) : (s.setCore c x).quants = s.quants := rfl
@[simp] theorem State.setCore_owed (s : State) (c : Nat) (x : CoreSt) : (s.setCore c x).owed = s.owed := rfl
@[simp] theorem State.setCore_freeCtr (s : State) (c : Nat) (x : CoreSt) : (s.setCore c x).freeCtr = s.freeCtr := rfl
@[simp] theorem State.setCore_drawCtr (s : State) (c : Nat) (x : CoreSt) : (s.setCore c x).drawCtr = s.drawCtr := rfl

@[simp] theorem State.updCore_mem (s : State) (c : Nat) (f : CoreSt → CoreSt) : (s.updCore c f).mem = s.mem := rfl
@[simp] theorem State.updCore_poison (s : State) (c : Nat) (f : CoreSt → CoreSt) : (s.updCore c f).poison = s.poison := rfl
@[simp] theorem State.updCore_waves (s : State) (c : Nat) (f : CoreSt → CoreSt) : (s.updCore c f).waves = s.waves := rfl
@[simp] theorem State.updCore_nextWave (s : State) (c : Nat) (f : CoreSt → CoreSt) : (s.updCore c f).nextWave = s.nextWave := rfl
@[simp] theorem State.updCore_clusters (s : State) (c : Nat) (f : CoreSt → CoreSt) : (s.updCore c f).clusters = s.clusters := rfl
@[simp] theorem State.updCore_cols (s : State) (c : Nat) (f : CoreSt → CoreSt) : (s.updCore c f).cols = s.cols := rfl
@[simp] theorem State.updCore_groups (s : State) (c : Nat) (f : CoreSt → CoreSt) : (s.updCore c f).groups = s.groups := rfl
@[simp] theorem State.updCore_nextGroup (s : State) (c : Nat) (f : CoreSt → CoreSt) : (s.updCore c f).nextGroup = s.nextGroup := rfl
@[simp] theorem State.updCore_launches (s : State) (c : Nat) (f : CoreSt → CoreSt) : (s.updCore c f).launches = s.launches := rfl
@[simp] theorem State.updCore_nextLaunch (s : State) (c : Nat) (f : CoreSt → CoreSt) : (s.updCore c f).nextLaunch = s.nextLaunch := rfl
@[simp] theorem State.updCore_copyQs (s : State) (c : Nat) (f : CoreSt → CoreSt) : (s.updCore c f).copyQs = s.copyQs := rfl
@[simp] theorem State.updCore_workQs (s : State) (c : Nat) (f : CoreSt → CoreSt) : (s.updCore c f).workQs = s.workQs := rfl
@[simp] theorem State.updCore_svcQs (s : State) (c : Nat) (f : CoreSt → CoreSt) : (s.updCore c f).svcQs = s.svcQs := rfl
@[simp] theorem State.updCore_kicks (s : State) (c : Nat) (f : CoreSt → CoreSt) : (s.updCore c f).kicks = s.kicks := rfl
@[simp] theorem State.updCore_graphs (s : State) (c : Nat) (f : CoreSt → CoreSt) : (s.updCore c f).graphs = s.graphs := rfl
@[simp] theorem State.updCore_filter (s : State) (c : Nat) (f : CoreSt → CoreSt) : (s.updCore c f).filter = s.filter := rfl
@[simp] theorem State.updCore_turn (s : State) (c : Nat) (f : CoreSt → CoreSt) : (s.updCore c f).turn = s.turn := rfl
@[simp] theorem State.updCore_decisions (s : State) (c : Nat) (f : CoreSt → CoreSt) : (s.updCore c f).decisions = s.decisions := rfl
@[simp] theorem State.updCore_preempt (s : State) (c : Nat) (f : CoreSt → CoreSt) : (s.updCore c f).preempt = s.preempt := rfl
@[simp] theorem State.updCore_stored (s : State) (c : Nat) (f : CoreSt → CoreSt) : (s.updCore c f).stored = s.stored := rfl
@[simp] theorem State.updCore_quanta (s : State) (c : Nat) (f : CoreSt → CoreSt) : (s.updCore c f).quanta = s.quanta := rfl
@[simp] theorem State.updCore_active (s : State) (c : Nat) (f : CoreSt → CoreSt) : (s.updCore c f).active = s.active := rfl
@[simp] theorem State.updCore_takeover (s : State) (c : Nat) (f : CoreSt → CoreSt) : (s.updCore c f).takeover = s.takeover := rfl
@[simp] theorem State.updCore_heldStores (s : State) (c : Nat) (f : CoreSt → CoreSt) : (s.updCore c f).heldStores = s.heldStores := rfl
@[simp] theorem State.updCore_heldTrigs (s : State) (c : Nat) (f : CoreSt → CoreSt) : (s.updCore c f).heldTrigs = s.heldTrigs := rfl
@[simp] theorem State.updCore_heldRecs (s : State) (c : Nat) (f : CoreSt → CoreSt) : (s.updCore c f).heldRecs = s.heldRecs := rfl
@[simp] theorem State.updCore_deaf (s : State) (c : Nat) (f : CoreSt → CoreSt) : (s.updCore c f).deaf = s.deaf := rfl
@[simp] theorem State.updCore_journal (s : State) (c : Nat) (f : CoreSt → CoreSt) : (s.updCore c f).journal = s.journal := rfl
@[simp] theorem State.updCore_zeroing (s : State) (c : Nat) (f : CoreSt → CoreSt) : (s.updCore c f).zeroing = s.zeroing := rfl
@[simp] theorem State.updCore_live (s : State) (c : Nat) (f : CoreSt → CoreSt) : (s.updCore c f).live = s.live := rfl
@[simp] theorem State.updCore_shadow (s : State) (c : Nat) (f : CoreSt → CoreSt) : (s.updCore c f).shadow = s.shadow := rfl
@[simp] theorem State.updCore_gen (s : State) (c : Nat) (f : CoreSt → CoreSt) : (s.updCore c f).gen = s.gen := rfl
@[simp] theorem State.updCore_sgen (s : State) (c : Nat) (f : CoreSt → CoreSt) : (s.updCore c f).sgen = s.sgen := rfl
@[simp] theorem State.updCore_stag (s : State) (c : Nat) (f : CoreSt → CoreSt) : (s.updCore c f).stag = s.stag := rfl
@[simp] theorem State.updCore_bootcnt (s : State) (c : Nat) (f : CoreSt → CoreSt) : (s.updCore c f).bootcnt = s.bootcnt := rfl
@[simp] theorem State.updCore_res (s : State) (c : Nat) (f : CoreSt → CoreSt) : (s.updCore c f).res = s.res := rfl
@[simp] theorem State.updCore_commitRec (s : State) (c : Nat) (f : CoreSt → CoreSt) : (s.updCore c f).commitRec = s.commitRec := rfl
@[simp] theorem State.updCore_fabid (s : State) (c : Nat) (f : CoreSt → CoreSt) : (s.updCore c f).fabid = s.fabid := rfl
@[simp] theorem State.updCore_fabNext (s : State) (c : Nat) (f : CoreSt → CoreSt) : (s.updCore c f).fabNext = s.fabNext := rfl
@[simp] theorem State.updCore_lbcfg (s : State) (c : Nat) (f : CoreSt → CoreSt) : (s.updCore c f).lbcfg = s.lbcfg := rfl
@[simp] theorem State.updCore_inwin (s : State) (c : Nat) (f : CoreSt → CoreSt) : (s.updCore c f).inwin = s.inwin := rfl
@[simp] theorem State.updCore_buckets (s : State) (c : Nat) (f : CoreSt → CoreSt) : (s.updCore c f).buckets = s.buckets := rfl
@[simp] theorem State.updCore_raised (s : State) (c : Nat) (f : CoreSt → CoreSt) : (s.updCore c f).raised = s.raised := rfl
@[simp] theorem State.updCore_testing (s : State) (c : Nat) (f : CoreSt → CoreSt) : (s.updCore c f).testing = s.testing := rfl
@[simp] theorem State.updCore_testNext (s : State) (c : Nat) (f : CoreSt → CoreSt) : (s.updCore c f).testNext = s.testNext := rfl
@[simp] theorem State.updCore_spares (s : State) (c : Nat) (f : CoreSt → CoreSt) : (s.updCore c f).spares = s.spares := rfl
@[simp] theorem State.updCore_otpMin (s : State) (c : Nat) (f : CoreSt → CoreSt) : (s.updCore c f).otpMin = s.otpMin := rfl
@[simp] theorem State.updCore_booted (s : State) (c : Nat) (f : CoreSt → CoreSt) : (s.updCore c f).booted = s.booted := rfl
@[simp] theorem State.updCore_images (s : State) (c : Nat) (f : CoreSt → CoreSt) : (s.updCore c f).images = s.images := rfl
@[simp] theorem State.updCore_tpFw (s : State) (c : Nat) (f : CoreSt → CoreSt) : (s.updCore c f).tpFw = s.tpFw := rfl
@[simp] theorem State.updCore_fuses (s : State) (c : Nat) (f : CoreSt → CoreSt) : (s.updCore c f).fuses = s.fuses := rfl
@[simp] theorem State.updCore_hss (s : State) (c : Nat) (f : CoreSt → CoreSt) : (s.updCore c f).hss = s.hss := rfl
@[simp] theorem State.updCore_portsUp (s : State) (c : Nat) (f : CoreSt → CoreSt) : (s.updCore c f).portsUp = s.portsUp := rfl
@[simp] theorem State.updCore_tpRegs (s : State) (c : Nat) (f : CoreSt → CoreSt) : (s.updCore c f).tpRegs = s.tpRegs := rfl
@[simp] theorem State.updCore_events (s : State) (c : Nat) (f : CoreSt → CoreSt) : (s.updCore c f).events = s.events := rfl
@[simp] theorem State.updCore_agenda (s : State) (c : Nat) (f : CoreSt → CoreSt) : (s.updCore c f).agenda = s.agenda := rfl
@[simp] theorem State.updCore_evTurn (s : State) (c : Nat) (f : CoreSt → CoreSt) : (s.updCore c f).evTurn = s.evTurn := rfl
@[simp] theorem State.updCore_act (s : State) (c : Nat) (f : CoreSt → CoreSt) : (s.updCore c f).act = s.act := rfl
@[simp] theorem State.updCore_regs (s : State) (c : Nat) (f : CoreSt → CoreSt) : (s.updCore c f).regs = s.regs := rfl
@[simp] theorem State.updCore_sends (s : State) (c : Nat) (f : CoreSt → CoreSt) : (s.updCore c f).sends = s.sends := rfl
@[simp] theorem State.updCore_evs (s : State) (c : Nat) (f : CoreSt → CoreSt) : (s.updCore c f).evs = s.evs := rfl
@[simp] theorem State.updCore_nextEv (s : State) (c : Nat) (f : CoreSt → CoreSt) : (s.updCore c f).nextEv = s.nextEv := rfl
@[simp] theorem State.updCore_syncs (s : State) (c : Nat) (f : CoreSt → CoreSt) : (s.updCore c f).syncs = s.syncs := rfl
@[simp] theorem State.updCore_thSeen (s : State) (c : Nat) (f : CoreSt → CoreSt) : (s.updCore c f).thSeen = s.thSeen := rfl
@[simp] theorem State.updCore_outSeen (s : State) (c : Nat) (f : CoreSt → CoreSt) : (s.updCore c f).outSeen = s.outSeen := rfl
@[simp] theorem State.updCore_quants (s : State) (c : Nat) (f : CoreSt → CoreSt) : (s.updCore c f).quants = s.quants := rfl
@[simp] theorem State.updCore_owed (s : State) (c : Nat) (f : CoreSt → CoreSt) : (s.updCore c f).owed = s.owed := rfl
@[simp] theorem State.updCore_freeCtr (s : State) (c : Nat) (f : CoreSt → CoreSt) : (s.updCore c f).freeCtr = s.freeCtr := rfl
@[simp] theorem State.updCore_drawCtr (s : State) (c : Nat) (f : CoreSt → CoreSt) : (s.updCore c f).drawCtr = s.drawCtr := rfl

@[simp] theorem State.setCluster_mem (s : State) (c : Nat) (x : ClusterSt) : (s.setCluster c x).mem = s.mem := rfl
@[simp] theorem State.setCluster_poison (s : State) (c : Nat) (x : ClusterSt) : (s.setCluster c x).poison = s.poison := rfl
@[simp] theorem State.setCluster_waves (s : State) (c : Nat) (x : ClusterSt) : (s.setCluster c x).waves = s.waves := rfl
@[simp] theorem State.setCluster_nextWave (s : State) (c : Nat) (x : ClusterSt) : (s.setCluster c x).nextWave = s.nextWave := rfl
@[simp] theorem State.setCluster_cores (s : State) (c : Nat) (x : ClusterSt) : (s.setCluster c x).cores = s.cores := rfl
@[simp] theorem State.setCluster_cols (s : State) (c : Nat) (x : ClusterSt) : (s.setCluster c x).cols = s.cols := rfl
@[simp] theorem State.setCluster_groups (s : State) (c : Nat) (x : ClusterSt) : (s.setCluster c x).groups = s.groups := rfl
@[simp] theorem State.setCluster_nextGroup (s : State) (c : Nat) (x : ClusterSt) : (s.setCluster c x).nextGroup = s.nextGroup := rfl
@[simp] theorem State.setCluster_launches (s : State) (c : Nat) (x : ClusterSt) : (s.setCluster c x).launches = s.launches := rfl
@[simp] theorem State.setCluster_nextLaunch (s : State) (c : Nat) (x : ClusterSt) : (s.setCluster c x).nextLaunch = s.nextLaunch := rfl
@[simp] theorem State.setCluster_copyQs (s : State) (c : Nat) (x : ClusterSt) : (s.setCluster c x).copyQs = s.copyQs := rfl
@[simp] theorem State.setCluster_workQs (s : State) (c : Nat) (x : ClusterSt) : (s.setCluster c x).workQs = s.workQs := rfl
@[simp] theorem State.setCluster_svcQs (s : State) (c : Nat) (x : ClusterSt) : (s.setCluster c x).svcQs = s.svcQs := rfl
@[simp] theorem State.setCluster_kicks (s : State) (c : Nat) (x : ClusterSt) : (s.setCluster c x).kicks = s.kicks := rfl
@[simp] theorem State.setCluster_graphs (s : State) (c : Nat) (x : ClusterSt) : (s.setCluster c x).graphs = s.graphs := rfl
@[simp] theorem State.setCluster_filter (s : State) (c : Nat) (x : ClusterSt) : (s.setCluster c x).filter = s.filter := rfl
@[simp] theorem State.setCluster_turn (s : State) (c : Nat) (x : ClusterSt) : (s.setCluster c x).turn = s.turn := rfl
@[simp] theorem State.setCluster_decisions (s : State) (c : Nat) (x : ClusterSt) : (s.setCluster c x).decisions = s.decisions := rfl
@[simp] theorem State.setCluster_preempt (s : State) (c : Nat) (x : ClusterSt) : (s.setCluster c x).preempt = s.preempt := rfl
@[simp] theorem State.setCluster_stored (s : State) (c : Nat) (x : ClusterSt) : (s.setCluster c x).stored = s.stored := rfl
@[simp] theorem State.setCluster_quanta (s : State) (c : Nat) (x : ClusterSt) : (s.setCluster c x).quanta = s.quanta := rfl
@[simp] theorem State.setCluster_active (s : State) (c : Nat) (x : ClusterSt) : (s.setCluster c x).active = s.active := rfl
@[simp] theorem State.setCluster_takeover (s : State) (c : Nat) (x : ClusterSt) : (s.setCluster c x).takeover = s.takeover := rfl
@[simp] theorem State.setCluster_heldStores (s : State) (c : Nat) (x : ClusterSt) : (s.setCluster c x).heldStores = s.heldStores := rfl
@[simp] theorem State.setCluster_heldTrigs (s : State) (c : Nat) (x : ClusterSt) : (s.setCluster c x).heldTrigs = s.heldTrigs := rfl
@[simp] theorem State.setCluster_heldRecs (s : State) (c : Nat) (x : ClusterSt) : (s.setCluster c x).heldRecs = s.heldRecs := rfl
@[simp] theorem State.setCluster_deaf (s : State) (c : Nat) (x : ClusterSt) : (s.setCluster c x).deaf = s.deaf := rfl
@[simp] theorem State.setCluster_journal (s : State) (c : Nat) (x : ClusterSt) : (s.setCluster c x).journal = s.journal := rfl
@[simp] theorem State.setCluster_zeroing (s : State) (c : Nat) (x : ClusterSt) : (s.setCluster c x).zeroing = s.zeroing := rfl
@[simp] theorem State.setCluster_live (s : State) (c : Nat) (x : ClusterSt) : (s.setCluster c x).live = s.live := rfl
@[simp] theorem State.setCluster_shadow (s : State) (c : Nat) (x : ClusterSt) : (s.setCluster c x).shadow = s.shadow := rfl
@[simp] theorem State.setCluster_gen (s : State) (c : Nat) (x : ClusterSt) : (s.setCluster c x).gen = s.gen := rfl
@[simp] theorem State.setCluster_sgen (s : State) (c : Nat) (x : ClusterSt) : (s.setCluster c x).sgen = s.sgen := rfl
@[simp] theorem State.setCluster_stag (s : State) (c : Nat) (x : ClusterSt) : (s.setCluster c x).stag = s.stag := rfl
@[simp] theorem State.setCluster_bootcnt (s : State) (c : Nat) (x : ClusterSt) : (s.setCluster c x).bootcnt = s.bootcnt := rfl
@[simp] theorem State.setCluster_res (s : State) (c : Nat) (x : ClusterSt) : (s.setCluster c x).res = s.res := rfl
@[simp] theorem State.setCluster_commitRec (s : State) (c : Nat) (x : ClusterSt) : (s.setCluster c x).commitRec = s.commitRec := rfl
@[simp] theorem State.setCluster_fabid (s : State) (c : Nat) (x : ClusterSt) : (s.setCluster c x).fabid = s.fabid := rfl
@[simp] theorem State.setCluster_fabNext (s : State) (c : Nat) (x : ClusterSt) : (s.setCluster c x).fabNext = s.fabNext := rfl
@[simp] theorem State.setCluster_lbcfg (s : State) (c : Nat) (x : ClusterSt) : (s.setCluster c x).lbcfg = s.lbcfg := rfl
@[simp] theorem State.setCluster_inwin (s : State) (c : Nat) (x : ClusterSt) : (s.setCluster c x).inwin = s.inwin := rfl
@[simp] theorem State.setCluster_buckets (s : State) (c : Nat) (x : ClusterSt) : (s.setCluster c x).buckets = s.buckets := rfl
@[simp] theorem State.setCluster_raised (s : State) (c : Nat) (x : ClusterSt) : (s.setCluster c x).raised = s.raised := rfl
@[simp] theorem State.setCluster_testing (s : State) (c : Nat) (x : ClusterSt) : (s.setCluster c x).testing = s.testing := rfl
@[simp] theorem State.setCluster_testNext (s : State) (c : Nat) (x : ClusterSt) : (s.setCluster c x).testNext = s.testNext := rfl
@[simp] theorem State.setCluster_spares (s : State) (c : Nat) (x : ClusterSt) : (s.setCluster c x).spares = s.spares := rfl
@[simp] theorem State.setCluster_otpMin (s : State) (c : Nat) (x : ClusterSt) : (s.setCluster c x).otpMin = s.otpMin := rfl
@[simp] theorem State.setCluster_booted (s : State) (c : Nat) (x : ClusterSt) : (s.setCluster c x).booted = s.booted := rfl
@[simp] theorem State.setCluster_images (s : State) (c : Nat) (x : ClusterSt) : (s.setCluster c x).images = s.images := rfl
@[simp] theorem State.setCluster_tpFw (s : State) (c : Nat) (x : ClusterSt) : (s.setCluster c x).tpFw = s.tpFw := rfl
@[simp] theorem State.setCluster_fuses (s : State) (c : Nat) (x : ClusterSt) : (s.setCluster c x).fuses = s.fuses := rfl
@[simp] theorem State.setCluster_hss (s : State) (c : Nat) (x : ClusterSt) : (s.setCluster c x).hss = s.hss := rfl
@[simp] theorem State.setCluster_portsUp (s : State) (c : Nat) (x : ClusterSt) : (s.setCluster c x).portsUp = s.portsUp := rfl
@[simp] theorem State.setCluster_tpRegs (s : State) (c : Nat) (x : ClusterSt) : (s.setCluster c x).tpRegs = s.tpRegs := rfl
@[simp] theorem State.setCluster_events (s : State) (c : Nat) (x : ClusterSt) : (s.setCluster c x).events = s.events := rfl
@[simp] theorem State.setCluster_agenda (s : State) (c : Nat) (x : ClusterSt) : (s.setCluster c x).agenda = s.agenda := rfl
@[simp] theorem State.setCluster_evTurn (s : State) (c : Nat) (x : ClusterSt) : (s.setCluster c x).evTurn = s.evTurn := rfl
@[simp] theorem State.setCluster_act (s : State) (c : Nat) (x : ClusterSt) : (s.setCluster c x).act = s.act := rfl
@[simp] theorem State.setCluster_regs (s : State) (c : Nat) (x : ClusterSt) : (s.setCluster c x).regs = s.regs := rfl
@[simp] theorem State.setCluster_sends (s : State) (c : Nat) (x : ClusterSt) : (s.setCluster c x).sends = s.sends := rfl
@[simp] theorem State.setCluster_evs (s : State) (c : Nat) (x : ClusterSt) : (s.setCluster c x).evs = s.evs := rfl
@[simp] theorem State.setCluster_nextEv (s : State) (c : Nat) (x : ClusterSt) : (s.setCluster c x).nextEv = s.nextEv := rfl
@[simp] theorem State.setCluster_syncs (s : State) (c : Nat) (x : ClusterSt) : (s.setCluster c x).syncs = s.syncs := rfl
@[simp] theorem State.setCluster_thSeen (s : State) (c : Nat) (x : ClusterSt) : (s.setCluster c x).thSeen = s.thSeen := rfl
@[simp] theorem State.setCluster_outSeen (s : State) (c : Nat) (x : ClusterSt) : (s.setCluster c x).outSeen = s.outSeen := rfl
@[simp] theorem State.setCluster_quants (s : State) (c : Nat) (x : ClusterSt) : (s.setCluster c x).quants = s.quants := rfl
@[simp] theorem State.setCluster_owed (s : State) (c : Nat) (x : ClusterSt) : (s.setCluster c x).owed = s.owed := rfl
@[simp] theorem State.setCluster_freeCtr (s : State) (c : Nat) (x : ClusterSt) : (s.setCluster c x).freeCtr = s.freeCtr := rfl
@[simp] theorem State.setCluster_drawCtr (s : State) (c : Nat) (x : ClusterSt) : (s.setCluster c x).drawCtr = s.drawCtr := rfl

@[simp] theorem State.updCluster_mem (s : State) (c : Nat) (f : ClusterSt → ClusterSt) : (s.updCluster c f).mem = s.mem := rfl
@[simp] theorem State.updCluster_poison (s : State) (c : Nat) (f : ClusterSt → ClusterSt) : (s.updCluster c f).poison = s.poison := rfl
@[simp] theorem State.updCluster_waves (s : State) (c : Nat) (f : ClusterSt → ClusterSt) : (s.updCluster c f).waves = s.waves := rfl
@[simp] theorem State.updCluster_nextWave (s : State) (c : Nat) (f : ClusterSt → ClusterSt) : (s.updCluster c f).nextWave = s.nextWave := rfl
@[simp] theorem State.updCluster_cores (s : State) (c : Nat) (f : ClusterSt → ClusterSt) : (s.updCluster c f).cores = s.cores := rfl
@[simp] theorem State.updCluster_cols (s : State) (c : Nat) (f : ClusterSt → ClusterSt) : (s.updCluster c f).cols = s.cols := rfl
@[simp] theorem State.updCluster_groups (s : State) (c : Nat) (f : ClusterSt → ClusterSt) : (s.updCluster c f).groups = s.groups := rfl
@[simp] theorem State.updCluster_nextGroup (s : State) (c : Nat) (f : ClusterSt → ClusterSt) : (s.updCluster c f).nextGroup = s.nextGroup := rfl
@[simp] theorem State.updCluster_launches (s : State) (c : Nat) (f : ClusterSt → ClusterSt) : (s.updCluster c f).launches = s.launches := rfl
@[simp] theorem State.updCluster_nextLaunch (s : State) (c : Nat) (f : ClusterSt → ClusterSt) : (s.updCluster c f).nextLaunch = s.nextLaunch := rfl
@[simp] theorem State.updCluster_copyQs (s : State) (c : Nat) (f : ClusterSt → ClusterSt) : (s.updCluster c f).copyQs = s.copyQs := rfl
@[simp] theorem State.updCluster_workQs (s : State) (c : Nat) (f : ClusterSt → ClusterSt) : (s.updCluster c f).workQs = s.workQs := rfl
@[simp] theorem State.updCluster_svcQs (s : State) (c : Nat) (f : ClusterSt → ClusterSt) : (s.updCluster c f).svcQs = s.svcQs := rfl
@[simp] theorem State.updCluster_kicks (s : State) (c : Nat) (f : ClusterSt → ClusterSt) : (s.updCluster c f).kicks = s.kicks := rfl
@[simp] theorem State.updCluster_graphs (s : State) (c : Nat) (f : ClusterSt → ClusterSt) : (s.updCluster c f).graphs = s.graphs := rfl
@[simp] theorem State.updCluster_filter (s : State) (c : Nat) (f : ClusterSt → ClusterSt) : (s.updCluster c f).filter = s.filter := rfl
@[simp] theorem State.updCluster_turn (s : State) (c : Nat) (f : ClusterSt → ClusterSt) : (s.updCluster c f).turn = s.turn := rfl
@[simp] theorem State.updCluster_decisions (s : State) (c : Nat) (f : ClusterSt → ClusterSt) : (s.updCluster c f).decisions = s.decisions := rfl
@[simp] theorem State.updCluster_preempt (s : State) (c : Nat) (f : ClusterSt → ClusterSt) : (s.updCluster c f).preempt = s.preempt := rfl
@[simp] theorem State.updCluster_stored (s : State) (c : Nat) (f : ClusterSt → ClusterSt) : (s.updCluster c f).stored = s.stored := rfl
@[simp] theorem State.updCluster_quanta (s : State) (c : Nat) (f : ClusterSt → ClusterSt) : (s.updCluster c f).quanta = s.quanta := rfl
@[simp] theorem State.updCluster_active (s : State) (c : Nat) (f : ClusterSt → ClusterSt) : (s.updCluster c f).active = s.active := rfl
@[simp] theorem State.updCluster_takeover (s : State) (c : Nat) (f : ClusterSt → ClusterSt) : (s.updCluster c f).takeover = s.takeover := rfl
@[simp] theorem State.updCluster_heldStores (s : State) (c : Nat) (f : ClusterSt → ClusterSt) : (s.updCluster c f).heldStores = s.heldStores := rfl
@[simp] theorem State.updCluster_heldTrigs (s : State) (c : Nat) (f : ClusterSt → ClusterSt) : (s.updCluster c f).heldTrigs = s.heldTrigs := rfl
@[simp] theorem State.updCluster_heldRecs (s : State) (c : Nat) (f : ClusterSt → ClusterSt) : (s.updCluster c f).heldRecs = s.heldRecs := rfl
@[simp] theorem State.updCluster_deaf (s : State) (c : Nat) (f : ClusterSt → ClusterSt) : (s.updCluster c f).deaf = s.deaf := rfl
@[simp] theorem State.updCluster_journal (s : State) (c : Nat) (f : ClusterSt → ClusterSt) : (s.updCluster c f).journal = s.journal := rfl
@[simp] theorem State.updCluster_zeroing (s : State) (c : Nat) (f : ClusterSt → ClusterSt) : (s.updCluster c f).zeroing = s.zeroing := rfl
@[simp] theorem State.updCluster_live (s : State) (c : Nat) (f : ClusterSt → ClusterSt) : (s.updCluster c f).live = s.live := rfl
@[simp] theorem State.updCluster_shadow (s : State) (c : Nat) (f : ClusterSt → ClusterSt) : (s.updCluster c f).shadow = s.shadow := rfl
@[simp] theorem State.updCluster_gen (s : State) (c : Nat) (f : ClusterSt → ClusterSt) : (s.updCluster c f).gen = s.gen := rfl
@[simp] theorem State.updCluster_sgen (s : State) (c : Nat) (f : ClusterSt → ClusterSt) : (s.updCluster c f).sgen = s.sgen := rfl
@[simp] theorem State.updCluster_stag (s : State) (c : Nat) (f : ClusterSt → ClusterSt) : (s.updCluster c f).stag = s.stag := rfl
@[simp] theorem State.updCluster_bootcnt (s : State) (c : Nat) (f : ClusterSt → ClusterSt) : (s.updCluster c f).bootcnt = s.bootcnt := rfl
@[simp] theorem State.updCluster_res (s : State) (c : Nat) (f : ClusterSt → ClusterSt) : (s.updCluster c f).res = s.res := rfl
@[simp] theorem State.updCluster_commitRec (s : State) (c : Nat) (f : ClusterSt → ClusterSt) : (s.updCluster c f).commitRec = s.commitRec := rfl
@[simp] theorem State.updCluster_fabid (s : State) (c : Nat) (f : ClusterSt → ClusterSt) : (s.updCluster c f).fabid = s.fabid := rfl
@[simp] theorem State.updCluster_fabNext (s : State) (c : Nat) (f : ClusterSt → ClusterSt) : (s.updCluster c f).fabNext = s.fabNext := rfl
@[simp] theorem State.updCluster_lbcfg (s : State) (c : Nat) (f : ClusterSt → ClusterSt) : (s.updCluster c f).lbcfg = s.lbcfg := rfl
@[simp] theorem State.updCluster_inwin (s : State) (c : Nat) (f : ClusterSt → ClusterSt) : (s.updCluster c f).inwin = s.inwin := rfl
@[simp] theorem State.updCluster_buckets (s : State) (c : Nat) (f : ClusterSt → ClusterSt) : (s.updCluster c f).buckets = s.buckets := rfl
@[simp] theorem State.updCluster_raised (s : State) (c : Nat) (f : ClusterSt → ClusterSt) : (s.updCluster c f).raised = s.raised := rfl
@[simp] theorem State.updCluster_testing (s : State) (c : Nat) (f : ClusterSt → ClusterSt) : (s.updCluster c f).testing = s.testing := rfl
@[simp] theorem State.updCluster_testNext (s : State) (c : Nat) (f : ClusterSt → ClusterSt) : (s.updCluster c f).testNext = s.testNext := rfl
@[simp] theorem State.updCluster_spares (s : State) (c : Nat) (f : ClusterSt → ClusterSt) : (s.updCluster c f).spares = s.spares := rfl
@[simp] theorem State.updCluster_otpMin (s : State) (c : Nat) (f : ClusterSt → ClusterSt) : (s.updCluster c f).otpMin = s.otpMin := rfl
@[simp] theorem State.updCluster_booted (s : State) (c : Nat) (f : ClusterSt → ClusterSt) : (s.updCluster c f).booted = s.booted := rfl
@[simp] theorem State.updCluster_images (s : State) (c : Nat) (f : ClusterSt → ClusterSt) : (s.updCluster c f).images = s.images := rfl
@[simp] theorem State.updCluster_tpFw (s : State) (c : Nat) (f : ClusterSt → ClusterSt) : (s.updCluster c f).tpFw = s.tpFw := rfl
@[simp] theorem State.updCluster_fuses (s : State) (c : Nat) (f : ClusterSt → ClusterSt) : (s.updCluster c f).fuses = s.fuses := rfl
@[simp] theorem State.updCluster_hss (s : State) (c : Nat) (f : ClusterSt → ClusterSt) : (s.updCluster c f).hss = s.hss := rfl
@[simp] theorem State.updCluster_portsUp (s : State) (c : Nat) (f : ClusterSt → ClusterSt) : (s.updCluster c f).portsUp = s.portsUp := rfl
@[simp] theorem State.updCluster_tpRegs (s : State) (c : Nat) (f : ClusterSt → ClusterSt) : (s.updCluster c f).tpRegs = s.tpRegs := rfl
@[simp] theorem State.updCluster_events (s : State) (c : Nat) (f : ClusterSt → ClusterSt) : (s.updCluster c f).events = s.events := rfl
@[simp] theorem State.updCluster_agenda (s : State) (c : Nat) (f : ClusterSt → ClusterSt) : (s.updCluster c f).agenda = s.agenda := rfl
@[simp] theorem State.updCluster_evTurn (s : State) (c : Nat) (f : ClusterSt → ClusterSt) : (s.updCluster c f).evTurn = s.evTurn := rfl
@[simp] theorem State.updCluster_act (s : State) (c : Nat) (f : ClusterSt → ClusterSt) : (s.updCluster c f).act = s.act := rfl
@[simp] theorem State.updCluster_regs (s : State) (c : Nat) (f : ClusterSt → ClusterSt) : (s.updCluster c f).regs = s.regs := rfl
@[simp] theorem State.updCluster_sends (s : State) (c : Nat) (f : ClusterSt → ClusterSt) : (s.updCluster c f).sends = s.sends := rfl
@[simp] theorem State.updCluster_evs (s : State) (c : Nat) (f : ClusterSt → ClusterSt) : (s.updCluster c f).evs = s.evs := rfl
@[simp] theorem State.updCluster_nextEv (s : State) (c : Nat) (f : ClusterSt → ClusterSt) : (s.updCluster c f).nextEv = s.nextEv := rfl
@[simp] theorem State.updCluster_syncs (s : State) (c : Nat) (f : ClusterSt → ClusterSt) : (s.updCluster c f).syncs = s.syncs := rfl
@[simp] theorem State.updCluster_thSeen (s : State) (c : Nat) (f : ClusterSt → ClusterSt) : (s.updCluster c f).thSeen = s.thSeen := rfl
@[simp] theorem State.updCluster_outSeen (s : State) (c : Nat) (f : ClusterSt → ClusterSt) : (s.updCluster c f).outSeen = s.outSeen := rfl
@[simp] theorem State.updCluster_quants (s : State) (c : Nat) (f : ClusterSt → ClusterSt) : (s.updCluster c f).quants = s.quants := rfl
@[simp] theorem State.updCluster_owed (s : State) (c : Nat) (f : ClusterSt → ClusterSt) : (s.updCluster c f).owed = s.owed := rfl
@[simp] theorem State.updCluster_freeCtr (s : State) (c : Nat) (f : ClusterSt → ClusterSt) : (s.updCluster c f).freeCtr = s.freeCtr := rfl
@[simp] theorem State.updCluster_drawCtr (s : State) (c : Nat) (f : ClusterSt → ClusterSt) : (s.updCluster c f).drawCtr = s.drawCtr := rfl

@[simp] theorem State.setCol_mem (s : State) (c : Nat) (x : ColSt) : (s.setCol c x).mem = s.mem := rfl
@[simp] theorem State.setCol_poison (s : State) (c : Nat) (x : ColSt) : (s.setCol c x).poison = s.poison := rfl
@[simp] theorem State.setCol_waves (s : State) (c : Nat) (x : ColSt) : (s.setCol c x).waves = s.waves := rfl
@[simp] theorem State.setCol_nextWave (s : State) (c : Nat) (x : ColSt) : (s.setCol c x).nextWave = s.nextWave := rfl
@[simp] theorem State.setCol_cores (s : State) (c : Nat) (x : ColSt) : (s.setCol c x).cores = s.cores := rfl
@[simp] theorem State.setCol_clusters (s : State) (c : Nat) (x : ColSt) : (s.setCol c x).clusters = s.clusters := rfl
@[simp] theorem State.setCol_groups (s : State) (c : Nat) (x : ColSt) : (s.setCol c x).groups = s.groups := rfl
@[simp] theorem State.setCol_nextGroup (s : State) (c : Nat) (x : ColSt) : (s.setCol c x).nextGroup = s.nextGroup := rfl
@[simp] theorem State.setCol_launches (s : State) (c : Nat) (x : ColSt) : (s.setCol c x).launches = s.launches := rfl
@[simp] theorem State.setCol_nextLaunch (s : State) (c : Nat) (x : ColSt) : (s.setCol c x).nextLaunch = s.nextLaunch := rfl
@[simp] theorem State.setCol_copyQs (s : State) (c : Nat) (x : ColSt) : (s.setCol c x).copyQs = s.copyQs := rfl
@[simp] theorem State.setCol_workQs (s : State) (c : Nat) (x : ColSt) : (s.setCol c x).workQs = s.workQs := rfl
@[simp] theorem State.setCol_svcQs (s : State) (c : Nat) (x : ColSt) : (s.setCol c x).svcQs = s.svcQs := rfl
@[simp] theorem State.setCol_kicks (s : State) (c : Nat) (x : ColSt) : (s.setCol c x).kicks = s.kicks := rfl
@[simp] theorem State.setCol_graphs (s : State) (c : Nat) (x : ColSt) : (s.setCol c x).graphs = s.graphs := rfl
@[simp] theorem State.setCol_filter (s : State) (c : Nat) (x : ColSt) : (s.setCol c x).filter = s.filter := rfl
@[simp] theorem State.setCol_turn (s : State) (c : Nat) (x : ColSt) : (s.setCol c x).turn = s.turn := rfl
@[simp] theorem State.setCol_decisions (s : State) (c : Nat) (x : ColSt) : (s.setCol c x).decisions = s.decisions := rfl
@[simp] theorem State.setCol_preempt (s : State) (c : Nat) (x : ColSt) : (s.setCol c x).preempt = s.preempt := rfl
@[simp] theorem State.setCol_stored (s : State) (c : Nat) (x : ColSt) : (s.setCol c x).stored = s.stored := rfl
@[simp] theorem State.setCol_quanta (s : State) (c : Nat) (x : ColSt) : (s.setCol c x).quanta = s.quanta := rfl
@[simp] theorem State.setCol_active (s : State) (c : Nat) (x : ColSt) : (s.setCol c x).active = s.active := rfl
@[simp] theorem State.setCol_takeover (s : State) (c : Nat) (x : ColSt) : (s.setCol c x).takeover = s.takeover := rfl
@[simp] theorem State.setCol_heldStores (s : State) (c : Nat) (x : ColSt) : (s.setCol c x).heldStores = s.heldStores := rfl
@[simp] theorem State.setCol_heldTrigs (s : State) (c : Nat) (x : ColSt) : (s.setCol c x).heldTrigs = s.heldTrigs := rfl
@[simp] theorem State.setCol_heldRecs (s : State) (c : Nat) (x : ColSt) : (s.setCol c x).heldRecs = s.heldRecs := rfl
@[simp] theorem State.setCol_deaf (s : State) (c : Nat) (x : ColSt) : (s.setCol c x).deaf = s.deaf := rfl
@[simp] theorem State.setCol_journal (s : State) (c : Nat) (x : ColSt) : (s.setCol c x).journal = s.journal := rfl
@[simp] theorem State.setCol_zeroing (s : State) (c : Nat) (x : ColSt) : (s.setCol c x).zeroing = s.zeroing := rfl
@[simp] theorem State.setCol_live (s : State) (c : Nat) (x : ColSt) : (s.setCol c x).live = s.live := rfl
@[simp] theorem State.setCol_shadow (s : State) (c : Nat) (x : ColSt) : (s.setCol c x).shadow = s.shadow := rfl
@[simp] theorem State.setCol_gen (s : State) (c : Nat) (x : ColSt) : (s.setCol c x).gen = s.gen := rfl
@[simp] theorem State.setCol_sgen (s : State) (c : Nat) (x : ColSt) : (s.setCol c x).sgen = s.sgen := rfl
@[simp] theorem State.setCol_stag (s : State) (c : Nat) (x : ColSt) : (s.setCol c x).stag = s.stag := rfl
@[simp] theorem State.setCol_bootcnt (s : State) (c : Nat) (x : ColSt) : (s.setCol c x).bootcnt = s.bootcnt := rfl
@[simp] theorem State.setCol_res (s : State) (c : Nat) (x : ColSt) : (s.setCol c x).res = s.res := rfl
@[simp] theorem State.setCol_commitRec (s : State) (c : Nat) (x : ColSt) : (s.setCol c x).commitRec = s.commitRec := rfl
@[simp] theorem State.setCol_fabid (s : State) (c : Nat) (x : ColSt) : (s.setCol c x).fabid = s.fabid := rfl
@[simp] theorem State.setCol_fabNext (s : State) (c : Nat) (x : ColSt) : (s.setCol c x).fabNext = s.fabNext := rfl
@[simp] theorem State.setCol_lbcfg (s : State) (c : Nat) (x : ColSt) : (s.setCol c x).lbcfg = s.lbcfg := rfl
@[simp] theorem State.setCol_inwin (s : State) (c : Nat) (x : ColSt) : (s.setCol c x).inwin = s.inwin := rfl
@[simp] theorem State.setCol_buckets (s : State) (c : Nat) (x : ColSt) : (s.setCol c x).buckets = s.buckets := rfl
@[simp] theorem State.setCol_raised (s : State) (c : Nat) (x : ColSt) : (s.setCol c x).raised = s.raised := rfl
@[simp] theorem State.setCol_testing (s : State) (c : Nat) (x : ColSt) : (s.setCol c x).testing = s.testing := rfl
@[simp] theorem State.setCol_testNext (s : State) (c : Nat) (x : ColSt) : (s.setCol c x).testNext = s.testNext := rfl
@[simp] theorem State.setCol_spares (s : State) (c : Nat) (x : ColSt) : (s.setCol c x).spares = s.spares := rfl
@[simp] theorem State.setCol_otpMin (s : State) (c : Nat) (x : ColSt) : (s.setCol c x).otpMin = s.otpMin := rfl
@[simp] theorem State.setCol_booted (s : State) (c : Nat) (x : ColSt) : (s.setCol c x).booted = s.booted := rfl
@[simp] theorem State.setCol_images (s : State) (c : Nat) (x : ColSt) : (s.setCol c x).images = s.images := rfl
@[simp] theorem State.setCol_tpFw (s : State) (c : Nat) (x : ColSt) : (s.setCol c x).tpFw = s.tpFw := rfl
@[simp] theorem State.setCol_fuses (s : State) (c : Nat) (x : ColSt) : (s.setCol c x).fuses = s.fuses := rfl
@[simp] theorem State.setCol_hss (s : State) (c : Nat) (x : ColSt) : (s.setCol c x).hss = s.hss := rfl
@[simp] theorem State.setCol_portsUp (s : State) (c : Nat) (x : ColSt) : (s.setCol c x).portsUp = s.portsUp := rfl
@[simp] theorem State.setCol_tpRegs (s : State) (c : Nat) (x : ColSt) : (s.setCol c x).tpRegs = s.tpRegs := rfl
@[simp] theorem State.setCol_events (s : State) (c : Nat) (x : ColSt) : (s.setCol c x).events = s.events := rfl
@[simp] theorem State.setCol_agenda (s : State) (c : Nat) (x : ColSt) : (s.setCol c x).agenda = s.agenda := rfl
@[simp] theorem State.setCol_evTurn (s : State) (c : Nat) (x : ColSt) : (s.setCol c x).evTurn = s.evTurn := rfl
@[simp] theorem State.setCol_act (s : State) (c : Nat) (x : ColSt) : (s.setCol c x).act = s.act := rfl
@[simp] theorem State.setCol_regs (s : State) (c : Nat) (x : ColSt) : (s.setCol c x).regs = s.regs := rfl
@[simp] theorem State.setCol_sends (s : State) (c : Nat) (x : ColSt) : (s.setCol c x).sends = s.sends := rfl
@[simp] theorem State.setCol_evs (s : State) (c : Nat) (x : ColSt) : (s.setCol c x).evs = s.evs := rfl
@[simp] theorem State.setCol_nextEv (s : State) (c : Nat) (x : ColSt) : (s.setCol c x).nextEv = s.nextEv := rfl
@[simp] theorem State.setCol_syncs (s : State) (c : Nat) (x : ColSt) : (s.setCol c x).syncs = s.syncs := rfl
@[simp] theorem State.setCol_thSeen (s : State) (c : Nat) (x : ColSt) : (s.setCol c x).thSeen = s.thSeen := rfl
@[simp] theorem State.setCol_outSeen (s : State) (c : Nat) (x : ColSt) : (s.setCol c x).outSeen = s.outSeen := rfl
@[simp] theorem State.setCol_quants (s : State) (c : Nat) (x : ColSt) : (s.setCol c x).quants = s.quants := rfl
@[simp] theorem State.setCol_owed (s : State) (c : Nat) (x : ColSt) : (s.setCol c x).owed = s.owed := rfl
@[simp] theorem State.setCol_freeCtr (s : State) (c : Nat) (x : ColSt) : (s.setCol c x).freeCtr = s.freeCtr := rfl
@[simp] theorem State.setCol_drawCtr (s : State) (c : Nat) (x : ColSt) : (s.setCol c x).drawCtr = s.drawCtr := rfl

@[simp] theorem Wave.setRegs_ck (w : Wave) (r : Regs) : (w.setRegs r).ck = w.ck := rfl
@[simp] theorem Wave.setRegs_core (w : Wave) (r : Regs) : (w.setRegs r).core = w.core := rfl
@[simp] theorem Wave.setRegs_quad (w : Wave) (r : Regs) : (w.setRegs r).quad = w.quad := rfl
@[simp] theorem Wave.setRegs_slot (w : Wave) (r : Regs) : (w.setRegs r).slot = w.slot := rfl
@[simp] theorem Wave.setRegs_group (w : Wave) (r : Regs) : (w.setRegs r).group = w.group := rfl
@[simp] theorem Wave.setRegs_parent (w : Wave) (r : Regs) : (w.setRegs r).parent = w.parent := rfl
@[simp] theorem Wave.setRegs_valloc (w : Wave) (r : Regs) : (w.setRegs r).valloc = w.valloc := rfl
@[simp] theorem Wave.setRegs_inflight (w : Wave) (r : Regs) : (w.setRegs r).inflight = w.inflight := rfl
@[simp] theorem Wave.setRegs_nextAcc (w : Wave) (r : Regs) : (w.setRegs r).nextAcc = w.nextAcc := rfl
@[simp] theorem Wave.setRegs_posted (w : Wave) (r : Regs) : (w.setRegs r).posted = w.posted := rfl
@[simp] theorem Wave.setRegs_done (w : Wave) (r : Regs) : (w.setRegs r).done = w.done := rfl
@[simp] theorem Wave.setRegs_held (w : Wave) (r : Regs) : (w.setRegs r).held = w.held := rfl
@[simp] theorem Wave.setRegs_ckRun (w : Wave) (r : Regs) : (w.setRegs r).ckRun = w.ckRun := rfl
@[simp] theorem Wave.setRegs_pinned (w : Wave) (r : Regs) : (w.setRegs r).pinned = w.pinned := rfl
@[simp] theorem Wave.setRegs_attempt (w : Wave) (r : Regs) : (w.setRegs r).attempt = w.attempt := rfl
@[simp] theorem Wave.setRegs_ckAcc (w : Wave) (r : Regs) : (w.setRegs r).ckAcc = w.ckAcc := rfl
@[simp] theorem Wave.setRegs_regLog (w : Wave) (r : Regs) : (w.setRegs r).regLog = w.regLog := rfl
@[simp] theorem Wave.setRegs_memLog (w : Wave) (r : Regs) : (w.setRegs r).memLog = w.memLog := rfl
@[simp] theorem Wave.setRegs_bufLog (w : Wave) (r : Regs) : (w.setRegs r).bufLog = w.bufLog := rfl
@[simp] theorem Wave.setRegs_tileLog (w : Wave) (r : Regs) : (w.setRegs r).tileLog = w.tileLog := rfl
@[simp] theorem Wave.setRegs_ending (w : Wave) (r : Regs) : (w.setRegs r).ending = w.ending := rfl
@[simp] theorem Wave.setRegs_killedBy (w : Wave) (r : Regs) : (w.setRegs r).killedBy = w.killedBy := rfl
@[simp] theorem Wave.setRegs_starved (w : Wave) (r : Regs) : (w.setRegs r).starved = w.starved := rfl
@[simp] theorem Wave.setRegs_lantern (w : Wave) (r : Regs) : (w.setRegs r).lantern = w.lantern := rfl
@[simp] theorem Wave.setRegs_counted (w : Wave) (r : Regs) : (w.setRegs r).counted = w.counted := rfl
@[simp] theorem Wave.setRegs_after (w : Wave) (r : Regs) : (w.setRegs r).after = w.after := rfl
@[simp] theorem Wave.setRegs_hidden (w : Wave) (r : Regs) : (w.setRegs r).hidden = w.hidden := rfl
@[simp] theorem Wave.setRegs_watch (w : Wave) (r : Regs) : (w.setRegs r).watch = w.watch := rfl
@[simp] theorem Wave.setRegs_tp (w : Wave) (r : Regs) : (w.setRegs r).tp = w.tp := rfl
@[simp] theorem Wave.setRegs_st_slices (w : Wave) (r : Regs) : (w.setRegs r).st.slices = w.st.slices := rfl
@[simp] theorem Wave.setRegs_st_live (w : Wave) (r : Regs) : (w.setRegs r).st.live = w.st.live := rfl
@[simp] theorem Wave.setRegs_st_depth (w : Wave) (r : Regs) : (w.setRegs r).st.depth = w.st.depth := rfl
@[simp] theorem Wave.setRegs_st_children (w : Wave) (r : Regs) : (w.setRegs r).st.children = w.st.children := rfl
@[simp] theorem Wave.setRegs_st_killed (w : Wave) (r : Regs) : (w.setRegs r).st.killed = w.st.killed := rfl
@[simp] theorem Wave.setRegs_st_opn (w : Wave) (r : Regs) : (w.setRegs r).st.opn = w.st.opn := rfl
@[simp] theorem Wave.setRegs_st_dne (w : Wave) (r : Regs) : (w.setRegs r).st.dne = w.st.dne := rfl
@[simp] theorem Wave.setRegs_st_openCnt (w : Wave) (r : Regs) : (w.setRegs r).st.openCnt = w.st.openCnt := rfl
@[simp] theorem Wave.setRegs_st_openGlob (w : Wave) (r : Regs) : (w.setRegs r).st.openGlob = w.st.openGlob := rfl
@[simp] theorem Wave.setRegs_st_pwrctl (w : Wave) (r : Regs) : (w.setRegs r).st.pwrctl = w.st.pwrctl := rfl
@[simp] theorem Wave.setRegs_st_trcause (w : Wave) (r : Regs) : (w.setRegs r).st.trcause = w.st.trcause := rfl
@[simp] theorem Wave.setRegs_st_trpc (w : Wave) (r : Regs) : (w.setRegs r).st.trpc = w.st.trpc := rfl
@[simp] theorem Wave.setRegs_st_trmask (w : Wave) (r : Regs) : (w.setRegs r).st.trmask = w.st.trmask := rfl
@[simp] theorem Wave.setRegs_st_trfalo (w : Wave) (r : Regs) : (w.setRegs r).st.trfalo = w.st.trfalo := rfl
@[simp] theorem Wave.setRegs_st_trfahi (w : Wave) (r : Regs) : (w.setRegs r).st.trfahi = w.st.trfahi := rfl
@[simp] theorem Wave.setRegs_st_tveclo (w : Wave) (r : Regs) : (w.setRegs r).st.tveclo = w.st.tveclo := rfl
@[simp] theorem Wave.setRegs_st_tvechi (w : Wave) (r : Regs) : (w.setRegs r).st.tvechi = w.st.tvechi := rfl
@[simp] theorem Wave.setRegs_st_hscr0 (w : Wave) (r : Regs) : (w.setRegs r).st.hscr0 = w.st.hscr0 := rfl
@[simp] theorem Wave.setRegs_st_hscr1 (w : Wave) (r : Regs) : (w.setRegs r).st.hscr1 = w.st.hscr1 := rfl
@[simp] theorem Wave.setRegs_st_txlo (w : Wave) (r : Regs) : (w.setRegs r).st.txlo = w.st.txlo := rfl
@[simp] theorem Wave.setRegs_st_txhi (w : Wave) (r : Regs) : (w.setRegs r).st.txhi = w.st.txhi := rfl
@[simp] theorem Wave.setRegs_st_trap (w : Wave) (r : Regs) : (w.setRegs r).st.trap = w.st.trap := rfl
@[simp] theorem Wave.setRegs_st_burn (w : Wave) (r : Regs) : (w.setRegs r).st.burn = w.st.burn := rfl
@[simp] theorem Wave.setRegs_st_burnLeft (w : Wave) (r : Regs) : (w.setRegs r).st.burnLeft = w.st.burnLeft := rfl
@[simp] theorem Wave.setRegs_st_region (w : Wave) (r : Regs) : (w.setRegs r).st.region = w.st.region := rfl
@[simp] theorem Wave.setRegs_st_seen (w : Wave) (r : Regs) : (w.setRegs r).st.seen = w.st.seen := rfl
@[simp] theorem Wave.setRegs_st_fences (w : Wave) (r : Regs) : (w.setRegs r).st.fences = w.st.fences := rfl
@[simp] theorem Wave.setRegs_st_heard (w : Wave) (r : Regs) : (w.setRegs r).st.heard = w.st.heard := rfl
@[simp] theorem Wave.setRegs_st_ofChildren (w : Wave) (r : Regs) : (w.setRegs r).st.ofChildren = w.st.ofChildren := rfl
@[simp] theorem Wave.setRegs_st_mfenceAt (w : Wave) (r : Regs) : (w.setRegs r).st.mfenceAt = w.st.mfenceAt := rfl
@[simp] theorem Wave.setRegs_st_mfenceSeen (w : Wave) (r : Regs) : (w.setRegs r).st.mfenceSeen = w.st.mfenceSeen := rfl
@[simp] theorem Wave.setRegs_st_regs (w : Wave) (r : Regs) : (w.setRegs r).st.regs = r := rfl

@[simp] theorem Wave.advance_ck (w : Wave) (sl : Nat) : (w.advance sl).ck = w.ck := rfl
@[simp] theorem Wave.advance_core (w : Wave) (sl : Nat) : (w.advance sl).core = w.core := rfl
@[simp] theorem Wave.advance_quad (w : Wave) (sl : Nat) : (w.advance sl).quad = w.quad := rfl
@[simp] theorem Wave.advance_slot (w : Wave) (sl : Nat) : (w.advance sl).slot = w.slot := rfl
@[simp] theorem Wave.advance_group (w : Wave) (sl : Nat) : (w.advance sl).group = w.group := rfl
@[simp] theorem Wave.advance_parent (w : Wave) (sl : Nat) : (w.advance sl).parent = w.parent := rfl
@[simp] theorem Wave.advance_valloc (w : Wave) (sl : Nat) : (w.advance sl).valloc = w.valloc := rfl
@[simp] theorem Wave.advance_inflight (w : Wave) (sl : Nat) : (w.advance sl).inflight = w.inflight := rfl
@[simp] theorem Wave.advance_nextAcc (w : Wave) (sl : Nat) : (w.advance sl).nextAcc = w.nextAcc := rfl
@[simp] theorem Wave.advance_posted (w : Wave) (sl : Nat) : (w.advance sl).posted = w.posted := rfl
@[simp] theorem Wave.advance_done (w : Wave) (sl : Nat) : (w.advance sl).done = w.done := rfl
@[simp] theorem Wave.advance_held (w : Wave) (sl : Nat) : (w.advance sl).held = w.held := rfl
@[simp] theorem Wave.advance_ckRun (w : Wave) (sl : Nat) : (w.advance sl).ckRun = w.ckRun := rfl
@[simp] theorem Wave.advance_pinned (w : Wave) (sl : Nat) : (w.advance sl).pinned = w.pinned := rfl
@[simp] theorem Wave.advance_attempt (w : Wave) (sl : Nat) : (w.advance sl).attempt = w.attempt := rfl
@[simp] theorem Wave.advance_ckAcc (w : Wave) (sl : Nat) : (w.advance sl).ckAcc = w.ckAcc := rfl
@[simp] theorem Wave.advance_regLog (w : Wave) (sl : Nat) : (w.advance sl).regLog = w.regLog := rfl
@[simp] theorem Wave.advance_memLog (w : Wave) (sl : Nat) : (w.advance sl).memLog = w.memLog := rfl
@[simp] theorem Wave.advance_bufLog (w : Wave) (sl : Nat) : (w.advance sl).bufLog = w.bufLog := rfl
@[simp] theorem Wave.advance_tileLog (w : Wave) (sl : Nat) : (w.advance sl).tileLog = w.tileLog := rfl
@[simp] theorem Wave.advance_ending (w : Wave) (sl : Nat) : (w.advance sl).ending = w.ending := rfl
@[simp] theorem Wave.advance_killedBy (w : Wave) (sl : Nat) : (w.advance sl).killedBy = w.killedBy := rfl
@[simp] theorem Wave.advance_starved (w : Wave) (sl : Nat) : (w.advance sl).starved = w.starved := rfl
@[simp] theorem Wave.advance_lantern (w : Wave) (sl : Nat) : (w.advance sl).lantern = w.lantern := rfl
@[simp] theorem Wave.advance_counted (w : Wave) (sl : Nat) : (w.advance sl).counted = w.counted := rfl
@[simp] theorem Wave.advance_after (w : Wave) (sl : Nat) : (w.advance sl).after = w.after := rfl
@[simp] theorem Wave.advance_hidden (w : Wave) (sl : Nat) : (w.advance sl).hidden = w.hidden := rfl
@[simp] theorem Wave.advance_watch (w : Wave) (sl : Nat) : (w.advance sl).watch = w.watch := rfl
@[simp] theorem Wave.advance_tp (w : Wave) (sl : Nat) : (w.advance sl).tp = w.tp := rfl
@[simp] theorem Wave.advance_st (w : Wave) (sl : Nat) : (w.advance sl).st = w.st.advance (w.st.gangOf sl) := rfl

@[simp] theorem WaveCore.updSlices_regs (w : WaveCore) (l : List Nat) (f : Nat → Slice → Slice) : (w.updSlices l f).regs = w.regs := rfl
@[simp] theorem WaveCore.updSlices_live (w : WaveCore) (l : List Nat) (f : Nat → Slice → Slice) : (w.updSlices l f).live = w.live := rfl
@[simp] theorem WaveCore.updSlices_depth (w : WaveCore) (l : List Nat) (f : Nat → Slice → Slice) : (w.updSlices l f).depth = w.depth := rfl
@[simp] theorem WaveCore.updSlices_children (w : WaveCore) (l : List Nat) (f : Nat → Slice → Slice) : (w.updSlices l f).children = w.children := rfl
@[simp] theorem WaveCore.updSlices_killed (w : WaveCore) (l : List Nat) (f : Nat → Slice → Slice) : (w.updSlices l f).killed = w.killed := rfl
@[simp] theorem WaveCore.updSlices_opn (w : WaveCore) (l : List Nat) (f : Nat → Slice → Slice) : (w.updSlices l f).opn = w.opn := rfl
@[simp] theorem WaveCore.updSlices_dne (w : WaveCore) (l : List Nat) (f : Nat → Slice → Slice) : (w.updSlices l f).dne = w.dne := rfl
@[simp] theorem WaveCore.updSlices_openCnt (w : WaveCore) (l : List Nat) (f : Nat → Slice → Slice) : (w.updSlices l f).openCnt = w.openCnt := rfl
@[simp] theorem WaveCore.updSlices_openGlob (w : WaveCore) (l : List Nat) (f : Nat → Slice → Slice) : (w.updSlices l f).openGlob = w.openGlob := rfl
@[simp] theorem WaveCore.updSlices_pwrctl (w : WaveCore) (l : List Nat) (f : Nat → Slice → Slice) : (w.updSlices l f).pwrctl = w.pwrctl := rfl
@[simp] theorem WaveCore.updSlices_trcause (w : WaveCore) (l : List Nat) (f : Nat → Slice → Slice) : (w.updSlices l f).trcause = w.trcause := rfl
@[simp] theorem WaveCore.updSlices_trpc (w : WaveCore) (l : List Nat) (f : Nat → Slice → Slice) : (w.updSlices l f).trpc = w.trpc := rfl
@[simp] theorem WaveCore.updSlices_trmask (w : WaveCore) (l : List Nat) (f : Nat → Slice → Slice) : (w.updSlices l f).trmask = w.trmask := rfl
@[simp] theorem WaveCore.updSlices_trfalo (w : WaveCore) (l : List Nat) (f : Nat → Slice → Slice) : (w.updSlices l f).trfalo = w.trfalo := rfl
@[simp] theorem WaveCore.updSlices_trfahi (w : WaveCore) (l : List Nat) (f : Nat → Slice → Slice) : (w.updSlices l f).trfahi = w.trfahi := rfl
@[simp] theorem WaveCore.updSlices_tveclo (w : WaveCore) (l : List Nat) (f : Nat → Slice → Slice) : (w.updSlices l f).tveclo = w.tveclo := rfl
@[simp] theorem WaveCore.updSlices_tvechi (w : WaveCore) (l : List Nat) (f : Nat → Slice → Slice) : (w.updSlices l f).tvechi = w.tvechi := rfl
@[simp] theorem WaveCore.updSlices_hscr0 (w : WaveCore) (l : List Nat) (f : Nat → Slice → Slice) : (w.updSlices l f).hscr0 = w.hscr0 := rfl
@[simp] theorem WaveCore.updSlices_hscr1 (w : WaveCore) (l : List Nat) (f : Nat → Slice → Slice) : (w.updSlices l f).hscr1 = w.hscr1 := rfl
@[simp] theorem WaveCore.updSlices_txlo (w : WaveCore) (l : List Nat) (f : Nat → Slice → Slice) : (w.updSlices l f).txlo = w.txlo := rfl
@[simp] theorem WaveCore.updSlices_txhi (w : WaveCore) (l : List Nat) (f : Nat → Slice → Slice) : (w.updSlices l f).txhi = w.txhi := rfl
@[simp] theorem WaveCore.updSlices_trap (w : WaveCore) (l : List Nat) (f : Nat → Slice → Slice) : (w.updSlices l f).trap = w.trap := rfl
@[simp] theorem WaveCore.updSlices_burn (w : WaveCore) (l : List Nat) (f : Nat → Slice → Slice) : (w.updSlices l f).burn = w.burn := rfl
@[simp] theorem WaveCore.updSlices_burnLeft (w : WaveCore) (l : List Nat) (f : Nat → Slice → Slice) : (w.updSlices l f).burnLeft = w.burnLeft := rfl
@[simp] theorem WaveCore.updSlices_region (w : WaveCore) (l : List Nat) (f : Nat → Slice → Slice) : (w.updSlices l f).region = w.region := rfl
@[simp] theorem WaveCore.updSlices_seen (w : WaveCore) (l : List Nat) (f : Nat → Slice → Slice) : (w.updSlices l f).seen = w.seen := rfl
@[simp] theorem WaveCore.updSlices_fences (w : WaveCore) (l : List Nat) (f : Nat → Slice → Slice) : (w.updSlices l f).fences = w.fences := rfl
@[simp] theorem WaveCore.updSlices_heard (w : WaveCore) (l : List Nat) (f : Nat → Slice → Slice) : (w.updSlices l f).heard = w.heard := rfl
@[simp] theorem WaveCore.updSlices_ofChildren (w : WaveCore) (l : List Nat) (f : Nat → Slice → Slice) : (w.updSlices l f).ofChildren = w.ofChildren := rfl
@[simp] theorem WaveCore.updSlices_mfenceAt (w : WaveCore) (l : List Nat) (f : Nat → Slice → Slice) : (w.updSlices l f).mfenceAt = w.mfenceAt := rfl
@[simp] theorem WaveCore.updSlices_mfenceSeen (w : WaveCore) (l : List Nat) (f : Nat → Slice → Slice) : (w.updSlices l f).mfenceSeen = w.mfenceSeen := rfl
@[simp] theorem WaveCore.advance_regs (w : WaveCore) (l : List Nat) : (w.advance l).regs = w.regs := rfl
@[simp] theorem WaveCore.advance_live (w : WaveCore) (l : List Nat) : (w.advance l).live = w.live := rfl
@[simp] theorem WaveCore.advance_depth (w : WaveCore) (l : List Nat) : (w.advance l).depth = w.depth := rfl
@[simp] theorem WaveCore.advance_children (w : WaveCore) (l : List Nat) : (w.advance l).children = w.children := rfl
@[simp] theorem WaveCore.advance_killed (w : WaveCore) (l : List Nat) : (w.advance l).killed = w.killed := rfl
@[simp] theorem WaveCore.advance_opn (w : WaveCore) (l : List Nat) : (w.advance l).opn = w.opn := rfl
@[simp] theorem WaveCore.advance_dne (w : WaveCore) (l : List Nat) : (w.advance l).dne = w.dne := rfl
@[simp] theorem WaveCore.advance_openCnt (w : WaveCore) (l : List Nat) : (w.advance l).openCnt = w.openCnt := rfl
@[simp] theorem WaveCore.advance_openGlob (w : WaveCore) (l : List Nat) : (w.advance l).openGlob = w.openGlob := rfl
@[simp] theorem WaveCore.advance_pwrctl (w : WaveCore) (l : List Nat) : (w.advance l).pwrctl = w.pwrctl := rfl
@[simp] theorem WaveCore.advance_trcause (w : WaveCore) (l : List Nat) : (w.advance l).trcause = w.trcause := rfl
@[simp] theorem WaveCore.advance_trpc (w : WaveCore) (l : List Nat) : (w.advance l).trpc = w.trpc := rfl
@[simp] theorem WaveCore.advance_trmask (w : WaveCore) (l : List Nat) : (w.advance l).trmask = w.trmask := rfl
@[simp] theorem WaveCore.advance_trfalo (w : WaveCore) (l : List Nat) : (w.advance l).trfalo = w.trfalo := rfl
@[simp] theorem WaveCore.advance_trfahi (w : WaveCore) (l : List Nat) : (w.advance l).trfahi = w.trfahi := rfl
@[simp] theorem WaveCore.advance_tveclo (w : WaveCore) (l : List Nat) : (w.advance l).tveclo = w.tveclo := rfl
@[simp] theorem WaveCore.advance_tvechi (w : WaveCore) (l : List Nat) : (w.advance l).tvechi = w.tvechi := rfl
@[simp] theorem WaveCore.advance_hscr0 (w : WaveCore) (l : List Nat) : (w.advance l).hscr0 = w.hscr0 := rfl
@[simp] theorem WaveCore.advance_hscr1 (w : WaveCore) (l : List Nat) : (w.advance l).hscr1 = w.hscr1 := rfl
@[simp] theorem WaveCore.advance_txlo (w : WaveCore) (l : List Nat) : (w.advance l).txlo = w.txlo := rfl
@[simp] theorem WaveCore.advance_txhi (w : WaveCore) (l : List Nat) : (w.advance l).txhi = w.txhi := rfl
@[simp] theorem WaveCore.advance_trap (w : WaveCore) (l : List Nat) : (w.advance l).trap = w.trap := rfl
@[simp] theorem WaveCore.advance_burn (w : WaveCore) (l : List Nat) : (w.advance l).burn = w.burn := rfl
@[simp] theorem WaveCore.advance_burnLeft (w : WaveCore) (l : List Nat) : (w.advance l).burnLeft = w.burnLeft := rfl
@[simp] theorem WaveCore.advance_region (w : WaveCore) (l : List Nat) : (w.advance l).region = w.region := rfl
@[simp] theorem WaveCore.advance_seen (w : WaveCore) (l : List Nat) : (w.advance l).seen = w.seen := rfl
@[simp] theorem WaveCore.advance_fences (w : WaveCore) (l : List Nat) : (w.advance l).fences = w.fences := rfl
@[simp] theorem WaveCore.advance_heard (w : WaveCore) (l : List Nat) : (w.advance l).heard = w.heard := rfl
@[simp] theorem WaveCore.advance_ofChildren (w : WaveCore) (l : List Nat) : (w.advance l).ofChildren = w.ofChildren := rfl
@[simp] theorem WaveCore.advance_mfenceAt (w : WaveCore) (l : List Nat) : (w.advance l).mfenceAt = w.mfenceAt := rfl
@[simp] theorem WaveCore.advance_mfenceSeen (w : WaveCore) (l : List Nat) : (w.advance l).mfenceSeen = w.mfenceSeen := rfl
@[simp] theorem WaveCore.setWait_regs (w : WaveCore) (sl : Nat) (x : Option Wait) : (w.setWait sl x).regs = w.regs := rfl
@[simp] theorem WaveCore.setWait_live (w : WaveCore) (sl : Nat) (x : Option Wait) : (w.setWait sl x).live = w.live := rfl
@[simp] theorem WaveCore.setWait_depth (w : WaveCore) (sl : Nat) (x : Option Wait) : (w.setWait sl x).depth = w.depth := rfl
@[simp] theorem WaveCore.setWait_children (w : WaveCore) (sl : Nat) (x : Option Wait) : (w.setWait sl x).children = w.children := rfl
@[simp] theorem WaveCore.setWait_killed (w : WaveCore) (sl : Nat) (x : Option Wait) : (w.setWait sl x).killed = w.killed := rfl
@[simp] theorem WaveCore.setWait_opn (w : WaveCore) (sl : Nat) (x : Option Wait) : (w.setWait sl x).opn = w.opn := rfl
@[simp] theorem WaveCore.setWait_dne (w : WaveCore) (sl : Nat) (x : Option Wait) : (w.setWait sl x).dne = w.dne := rfl
@[simp] theorem WaveCore.setWait_openCnt (w : WaveCore) (sl : Nat) (x : Option Wait) : (w.setWait sl x).openCnt = w.openCnt := rfl
@[simp] theorem WaveCore.setWait_openGlob (w : WaveCore) (sl : Nat) (x : Option Wait) : (w.setWait sl x).openGlob = w.openGlob := rfl
@[simp] theorem WaveCore.setWait_pwrctl (w : WaveCore) (sl : Nat) (x : Option Wait) : (w.setWait sl x).pwrctl = w.pwrctl := rfl
@[simp] theorem WaveCore.setWait_trcause (w : WaveCore) (sl : Nat) (x : Option Wait) : (w.setWait sl x).trcause = w.trcause := rfl
@[simp] theorem WaveCore.setWait_trpc (w : WaveCore) (sl : Nat) (x : Option Wait) : (w.setWait sl x).trpc = w.trpc := rfl
@[simp] theorem WaveCore.setWait_trmask (w : WaveCore) (sl : Nat) (x : Option Wait) : (w.setWait sl x).trmask = w.trmask := rfl
@[simp] theorem WaveCore.setWait_trfalo (w : WaveCore) (sl : Nat) (x : Option Wait) : (w.setWait sl x).trfalo = w.trfalo := rfl
@[simp] theorem WaveCore.setWait_trfahi (w : WaveCore) (sl : Nat) (x : Option Wait) : (w.setWait sl x).trfahi = w.trfahi := rfl
@[simp] theorem WaveCore.setWait_tveclo (w : WaveCore) (sl : Nat) (x : Option Wait) : (w.setWait sl x).tveclo = w.tveclo := rfl
@[simp] theorem WaveCore.setWait_tvechi (w : WaveCore) (sl : Nat) (x : Option Wait) : (w.setWait sl x).tvechi = w.tvechi := rfl
@[simp] theorem WaveCore.setWait_hscr0 (w : WaveCore) (sl : Nat) (x : Option Wait) : (w.setWait sl x).hscr0 = w.hscr0 := rfl
@[simp] theorem WaveCore.setWait_hscr1 (w : WaveCore) (sl : Nat) (x : Option Wait) : (w.setWait sl x).hscr1 = w.hscr1 := rfl
@[simp] theorem WaveCore.setWait_txlo (w : WaveCore) (sl : Nat) (x : Option Wait) : (w.setWait sl x).txlo = w.txlo := rfl
@[simp] theorem WaveCore.setWait_txhi (w : WaveCore) (sl : Nat) (x : Option Wait) : (w.setWait sl x).txhi = w.txhi := rfl
@[simp] theorem WaveCore.setWait_trap (w : WaveCore) (sl : Nat) (x : Option Wait) : (w.setWait sl x).trap = w.trap := rfl
@[simp] theorem WaveCore.setWait_burn (w : WaveCore) (sl : Nat) (x : Option Wait) : (w.setWait sl x).burn = w.burn := rfl
@[simp] theorem WaveCore.setWait_burnLeft (w : WaveCore) (sl : Nat) (x : Option Wait) : (w.setWait sl x).burnLeft = w.burnLeft := rfl
@[simp] theorem WaveCore.setWait_region (w : WaveCore) (sl : Nat) (x : Option Wait) : (w.setWait sl x).region = w.region := rfl
@[simp] theorem WaveCore.setWait_seen (w : WaveCore) (sl : Nat) (x : Option Wait) : (w.setWait sl x).seen = w.seen := rfl
@[simp] theorem WaveCore.setWait_fences (w : WaveCore) (sl : Nat) (x : Option Wait) : (w.setWait sl x).fences = w.fences := rfl
@[simp] theorem WaveCore.setWait_heard (w : WaveCore) (sl : Nat) (x : Option Wait) : (w.setWait sl x).heard = w.heard := rfl
@[simp] theorem WaveCore.setWait_ofChildren (w : WaveCore) (sl : Nat) (x : Option Wait) : (w.setWait sl x).ofChildren = w.ofChildren := rfl
@[simp] theorem WaveCore.setWait_mfenceAt (w : WaveCore) (sl : Nat) (x : Option Wait) : (w.setWait sl x).mfenceAt = w.mfenceAt := rfl
@[simp] theorem WaveCore.setWait_mfenceSeen (w : WaveCore) (sl : Nat) (x : Option Wait) : (w.setWait sl x).mfenceSeen = w.mfenceSeen := rfl

@[simp] theorem Regs.setV_s (r : Regs) (n : Nat) (m : Lanes) (g : Nat → Word) : (r.setV n m g).s = r.s := rfl
@[simp] theorem Regs.setV_a (r : Regs) (n : Nat) (m : Lanes) (g : Nat → Word) : (r.setV n m g).a = r.a := rfl
@[simp] theorem Regs.setV_p (r : Regs) (n : Nat) (m : Lanes) (g : Nat → Word) : (r.setV n m g).p = r.p := rfl
@[simp] theorem Regs.setV_k (r : Regs) (n : Nat) (m : Lanes) (g : Nat → Word) : (r.setV n m g).k = r.k := rfl
@[simp] theorem Regs.setV_b (r : Regs) (n : Nat) (m : Lanes) (g : Nat → Word) : (r.setV n m g).b = r.b := rfl
@[simp] theorem Regs.setV_vEmpty (r : Regs) (n : Nat) (m : Lanes) (g : Nat → Word) : (r.setV n m g).vEmpty = r.vEmpty := rfl
@[simp] theorem Regs.setV_sEmpty (r : Regs) (n : Nat) (m : Lanes) (g : Nat → Word) : (r.setV n m g).sEmpty = r.sEmpty := rfl

end Sys2Proof.Machine
end

