-- ==== Sys2Proof/Laws/Issue.lean ====
section
/-! SUPPORT. The frame of a meaning: what `issueState` and `issueWave` answer, and the checks that every instruction shares. -/

namespace Sys2Proof.Machine

theorem Except.bind_ok {ε α β : Type} (a : α) (f : α → Except ε β) : (Except.ok a >>= f) = f a := rfl

variable {s : State} {c : Ctx}

/-- What an issuing gang's instruction sees is determined by the machine. -/
theorem Issues.eq (h : Issues s c) : c = { s := s, u := c.u, w := c.w, sl := c.sl } := by
  have := h.machine
  cases c; cases this; rfl

/-- All that `issueState` can answer for an acting gang: the meaning's state, a trap, or waiting. -/
theorem issueState_eq (h : Issues s c) (f : Ctx → Chk State) :
    issueState s f = match f c with
      | .ok t => .next t
      | .error (.trap x m fa s2) => .next (s.takeTrap c.u c.sl { cause := x, mask := m, fa := fa, s2 := s2, asy := false, unr := false })
      | .error (.wait x) => .next (s.block c.u c.sl x) := by
  rw [h.eq]
  simp only [issueState, h.acting, h.wave] <;> rfl

theorem issueState_ok (h : Issues s c) {f : Ctx → Chk State} {t : State} (e : f c = .ok t) : issueState s f = .next t := by
  rw [issueState_eq h, e]

theorem issueState_trap (h : Issues s c) {f : Ctx → Chk State} {x : Cause} {m : Lanes} {fa : DWord} {s2 : Bool}
    (e : f c = .error (.trap x m fa s2)) :
    issueState s f = .next (s.takeTrap c.u c.sl { cause := x, mask := m, fa := fa, s2 := s2, asy := false, unr := false }) := by
  rw [issueState_eq h, e]

theorem issueState_wait (h : Issues s c) {f : Ctx → Chk State} {x : Wait} (e : f c = .error (.wait x)) :
    issueState s f = .next (s.block c.u c.sl x) := by
  rw [issueState_eq h, e]

theorem issueWave_ok (h : Issues s c) {f : Ctx → Chk Wave} {w : Wave} (e : f c = .ok w) : issueWave s f = .next (c.put w) :=
  issueState_ok h (by simp only [e])

theorem issueWave_trap (h : Issues s c) {f : Ctx → Chk Wave} {x : Cause} {m : Lanes} {fa : DWord} {s2 : Bool}
    (e : f c = .error (.trap x m fa s2)) :
    issueWave s f = .next (s.takeTrap c.u c.sl { cause := x, mask := m, fa := fa, s2 := s2, asy := false, unr := false }) :=
  issueState_trap h (by simp only [e])

theorem issueWave_wait (h : Issues s c) {f : Ctx → Chk Wave} {x : Wait} (e : f c = .error (.wait x)) :
    issueWave s f = .next (s.block c.u c.sl x) := issueState_wait h (by simp only [e])

/-- All that an instruction that changes only its wave can do. -/
theorem issueWave_cases (h : Issues s c) {f : Ctx → Chk Wave} {t : State} (e : issueWave s f = .next t) :
    (∃ w, f c = .ok w ∧ t = c.put w)
    ∨ (∃ x m fa s2, f c = .error (.trap x m fa s2)
        ∧ t = s.takeTrap c.u c.sl { cause := x, mask := m, fa := fa, s2 := s2, asy := false, unr := false })
    ∨ (∃ x, f c = .error (.wait x) ∧ t = s.block c.u c.sl x) := by
  unfold issueWave at e
  rw [issueState_eq h] at e
  cases hf : f c with
  | ok w => simp only [hf, Host.Outcome.next.injEq] at e; exact .inl ⟨w, rfl, e.symm⟩
  | error z =>
    cases z with
    | trap x m fa s2 => simp only [hf, Host.Outcome.next.injEq] at e; exact .inr (.inl ⟨x, m, fa, s2, rfl, e.symm⟩)
    | wait x => simp only [hf, Host.Outcome.next.injEq] at e; exact .inr (.inr ⟨x, rfl, e.symm⟩)

/-! ### The shared checks -/

theorem Ctx.need_ok (x : Cause) {ok : Bool} (h : ok = true) : c.need ok x = .ok () := by simp [Ctx.need, h]
theorem Ctx.need_fail (x : Cause) {ok : Bool} (h : ok = false) : c.need ok x = .error (.trap x c.act 0 false) := by
  simp [Ctx.need, h, Ctx.raise]
theorem Ctx.until_ok {ok : Bool} (h : ok = true) : c.until ok = .ok () := by simp [Ctx.until, h]

theorem Ctx.Allowed.start {i : Instr} {un : Bool} {ops : List Operand} (h : c.Allowed i un ops) : c.start i un ops = .ok () := by
  refine Ctx.need_ok _ ?_
  obtain ⟨hw, ht⟩ := h
  rcases ht with ht | ⟨hu, ho⟩
  · simp [hw, ht]
  · simp only [hw, hu, Bool.true_and, Bool.or_eq_true]
    refine .inr (List.all_eq_true.2 fun o hm => ?_)
    simpa [or_assoc] using ho o hm

theorem Ctx.Allocated.alloc {ops : List Operand} (h : c.Allocated ops) : c.alloc ops = .ok () := by
  refine Ctx.need_ok _ (List.all_eq_true.2 fun o hm => ?_)
  cases o with
  | v n => simpa using h n hm
  | _ => rfl

theorem Ctx.guardOk_ok (h : guardReserved c.mx = false) : c.guardOk = .ok () := Ctx.need_ok _ (by simp [h])
theorem Ctx.noPGuard_ok (h : guardIsP c.mx = false) : c.noPGuard = .ok () := Ctx.need_ok _ (by simp [h])
theorem Ctx.uwp_ok (h : c.act = c.live) : c.uwp = .ok () := Ctx.need_ok _ (by simp [h])

theorem Ctx.reads_none (l : List (Operand × Bool)) (h : l = []) :
    (if l.any (fun p => if p.2 then modeFEa c.mx else modeFEo c.mx) then c.raise .fet else c.until l.isEmpty) = .ok () := by
  subst h; rfl

theorem Ctx.Full.reads {ops : List (Operand × Bool)} (h : c.Full (ops.map (·.1))) : c.reads ops = .ok () := by
  refine Ctx.reads_none _ (List.filter_eq_nil_iff.2 fun p hp => ?_)
  split
  · next r hd => simp [h p.1 (List.mem_map_of_mem hp) r hd]
  · simp

theorem Ctx.Full.free {d : Operand} (h : c.Full [d]) : c.free (dstOf d).toList = .ok () := by
  refine Ctx.until_ok (List.all_eq_true.2 fun r hr => ?_)
  have : dstOf d = some r := by simpa using hr
  simp [h d (by simp) r this]

theorem Ctx.Full.mono {a b : List Operand} (h : c.Full b) (hs : ∀ o ∈ a, o ∈ b) : c.Full a := fun o ho => h o (hs o ho)

/-- The checks before a register instruction reads pass when it is ready, its classes are admitted and its type too. -/
theorem Ready.regStart {i : Instr} {un : Bool} {d : Operand} {ops : List Operand} (h : Ready c i un d ops)
    {tOk clsOk : Bool} (ht : tOk = true) (hc : clsOk = true) : c.regStart i un d ops tOk clsOk = .ok () := by
  have hs := h.allowed.start
  have ha := h.allocated.alloc
  by_cases hv : clsOf d = .vary ∨ clsOf d = .vpred
  · simp only [Ctx.regStart, hs, Ctx.guardOk_ok h.guard, Ctx.need_ok _ ht, Ctx.need_ok _ hc, ha, hv, if_true, Except.bind_ok]
    rfl
  · obtain ⟨hp, hw⟩ := h.whole (fun e => hv (.inl e)) (fun e => hv (.inr e))
    simp only [Ctx.regStart, hs, Ctx.guardOk_ok h.guard, Ctx.need_ok _ ht, Ctx.need_ok _ hc, ha, hv, if_false, Except.bind_ok,
      Ctx.noPGuard_ok hp, Ctx.uwp_ok hw]

/-- The checks of a register instruction pass when it is ready, its classes are admitted and its type too. -/
theorem Ready.regChecks {i : Instr} {un : Bool} {d : Operand} {srcs : List (Operand × Bool)} (h : Ready c i un d (srcs.map (·.1)))
    {tOk clsOk : Bool} (ht : tOk = true) (hc : clsOk = true) : c.regChecks i un d srcs tOk clsOk = .ok () := by
  unfold Ctx.regChecks
  by_cases hact : c.acts d = true
  · have hf := h.full hact
    simp only [h.regStart ht hc, Except.bind_ok, hact, if_true, (hf.mono (fun o ho => List.mem_cons_of_mem _ ho)).reads,
      (Ctx.Full.mono (a := [d]) hf (fun o ho => by simp at ho; simp [ho])).free]
  · simp only [h.regStart ht hc, Except.bind_ok, hact]
    rfl

theorem VaryingOrUniform.ok {d : Operand} {srcs : List (Operand × Bool)} (h : VaryingOrUniform d (srcs.map (·.1))) :
    varyUniOk d srcs = true := by
  rcases h with ⟨h1, h2⟩ | ⟨h1, h2⟩
  · simp only [varyUniOk, Bool.or_eq_true, Bool.and_eq_true, decide_eq_true_eq, h1, true_and, List.all_eq_true]
    exact .inl fun p hp => h2 p.1 (List.mem_map_of_mem hp)
  · simp only [varyUniOk, Bool.or_eq_true, Bool.and_eq_true, h1, true_and, List.all_eq_true, decide_eq_true_eq]
    exact .inr fun p hp => h2 p.1 (List.mem_map_of_mem hp)

/-- A register instruction that is ready writes its result and moves on. -/
theorem Ready.regOp {i : Instr} {un : Bool} {d : Operand} {srcs : List (Operand × Bool)} (h : Ready c i un d (srcs.map (·.1)))
    (hc : VaryingOrUniform d (srcs.map (·.1))) {tOk : Bool} (ht : tOk = true) (f : Nat → Word) :
    c.regOp i un d srcs tOk f = .ok (c.write d f) := by
  unfold Ctx.regOp
  rw [h.regChecks ht hc.ok]; rfl

end Sys2Proof.Machine
end

