-- ==== Sys2Proof/Laws/PerInstr.lean ====
section
/-! SUPPORT. For every constructor of `Instr`: what a well-formed instruction is written as decodes to it (R52 to R60, R68). -/

namespace Sys2Proof.Laws.EncodeDecode

/-- What a well-formed instruction is written as decodes to it; a happening of the table is written as no word. -/
def Statement (i : Instr) : Prop := ∀ w : Word, i.wf = true → encode i = some w → decodeWord w = .ok i

theorem nop : Statement (.nop) := by
  intro w hw he; obtain rfl := Option.some.inj he; exact decodeWord_of _ _ hw rfl
theorem br (off : BitVec 19) : Statement (.br off) := by
  intro w hw he
  obtain rfl := Option.some.inj he
  refine decodeWord_of _ _ hw ?_
  exact (at_02 _ (wordC_op ..)).trans (by simp)
theorem bru (n : Fin 8) (neg : Bool) (off : BitVec 19) : Statement (.bru n neg off) := by
  intro w hw he
  obtain rfl := Option.some.inj he
  refine decodeWord_of _ _ hw ?_
  exact (at_03 _ (wordC_op ..)).trans (by simp)
theorem brv (c : Cond) (off : BitVec 19) : Statement (.brv c off) := by
  intro w hw he
  obtain rfl := Option.some.inj he
  refine decodeWord_of _ _ hw ?_
  exact (at_04 _ (wordC_op ..)).trans (by simp)
theorem cnv : Statement (.cnv) := by
  intro w hw he; obtain rfl := Option.some.inj he; exact decodeWord_of _ _ hw rfl
theorem call (off : BitVec 19) : Statement (.call off) := by
  intro w hw he
  obtain rfl := Option.some.inj he
  refine decodeWord_of _ _ hw ?_
  exact (at_06 _ (wordC_op ..)).trans (by simp)
theorem callr (a : Operand) : Statement (.callr a) := by
  intro w hw he
  obtain rfl := Option.some.inj he
  refine decodeWord_of _ _ hw ?_
  exact (at_07 _ (wordR_op ..)).trans (by simp)
theorem ret : Statement (.ret) := by
  intro w hw he; obtain rfl := Option.some.inj he; exact decodeWord_of _ _ hw rfl
theorem exit : Statement (.exit) := by
  intro w hw he; obtain rfl := Option.some.inj he; exact decodeWord_of _ _ hw rfl
theorem waveEnd (w : Nat) : Statement (.waveEnd w) := by
  intro w _ he; cases he
theorem regang (m : BitVec 8) : Statement (.regang m) := by
  intro w hw he
  obtain rfl := Option.some.inj he
  refine decodeWord_of _ _ hw ?_
  exact (at_0A _ (wordR_op ..)).trans (by simp)
theorem trap (i : BitVec 24) : Statement (.trap i) := by
  intro w hw he
  obtain rfl := Option.some.inj he
  refine decodeWord_of _ _ hw ?_
  exact (at_0B _ (J_op ..)).trans (by simp)
theorem mcall (m : BitVec 8) (p1 : Operand) (p2 : Operand) : Statement (.mcall m p1 p2) := by
  intro w hw he
  obtain rfl := Option.some.inj he
  refine decodeWord_of _ _ hw ?_
  exact (at_0C _ (wordR_op ..)).trans (by simp)
theorem sleep (n : BitVec 16) : Statement (.sleep n) := by
  intro w hw he
  obtain rfl := Option.some.inj he
  refine decodeWord_of _ _ hw ?_
  exact (at_0D _ (wordI_op ..)).trans (by simp)
theorem sleepExpiry (w : Nat) (sl : Nat) : Statement (.sleepExpiry w sl) := by
  intro w _ he; cases he
theorem modex (en : BitVec 5) (g : BitVec 5) (t : BitVec 4) (rm : BitVec 3) (sat : BitVec 1) (fe : BitVec 2) : Statement (.modex en g t rm sat fe) := by
  intro w hw he
  obtain rfl := Option.some.inj he
  refine decodeWord_of _ _ hw ?_
  exact (at_10 _ (X_op ..)).trans (by simp)
theorem modem (en : BitVec 4) (sc : BitVec 3) (ord : BitVec 3) (au : BitVec 3) (aot : BitVec 1) : Statement (.modem en sc ord au aot) := by
  intro w hw he
  obtain rfl := Option.some.inj he
  refine decodeWord_of _ _ hw ?_
  exact (at_11 _ (Y_op ..)).trans (by simp)
theorem mov (d : Operand) (a : Operand) : Statement (.mov d a) := by
  intro w hw he
  obtain rfl := Option.some.inj he
  refine decodeWord_of _ _ hw ?_
  exact (at_12 _ (wordR_op ..)).trans (by simp)
theorem movi (d : Operand) (i : BitVec 16) : Statement (.movi d i) := by
  intro w hw he
  obtain rfl := Option.some.inj he
  refine decodeWord_of _ _ hw ?_
  exact (at_13 _ (wordI_op ..)).trans (by simp)
theorem movh (d : Operand) (i : BitVec 16) : Statement (.movh d i) := by
  intro w hw he
  obtain rfl := Option.some.inj he
  refine decodeWord_of _ _ hw ?_
  exact (at_14 _ (wordI_op ..)).trans (by simp)
theorem sel (d : Operand) (a : Operand) (b : Operand) : Statement (.sel d a b) := by
  intro w hw he
  obtain rfl := Option.some.inj he
  refine decodeWord_of _ _ hw ?_
  exact (at_15 _ (wordR_op ..)).trans (by simp)
theorem promo (d : Operand) (a : Operand) : Statement (.promo d a) := by
  intro w hw he
  obtain rfl := Option.some.inj he
  refine decodeWord_of _ _ hw ?_
  exact (at_16 _ (wordR_op ..)).trans (by simp)
theorem mkaff (d : Operand) (a : Operand) (b : Operand) : Statement (.mkaff d a b) := by
  intro w hw he
  obtain rfl := Option.some.inj he
  refine decodeWord_of _ _ hw ?_
  exact (at_17 _ (wordR_op ..)).trans (by simp)
theorem setb (n : Fin 8) (sp : Fin 8) (lo : Operand) (hi : Operand) : Statement (.setb n sp lo hi) := by
  intro w hw he
  obtain rfl := Option.some.inj he
  refine decodeWord_of _ _ hw ?_
  exact (at_18 _ (B_op ..)).trans (by simp only [oA, oB, fA, fB, B_n, B_sp, B_z, B_lo, B_hi, fin_bits3, fixed_one, decodeOperand_encodeOperand])
theorem rdsr (d : Operand) (i : BitVec 16) : Statement (.rdsr d i) := by
  intro w hw he
  obtain rfl := Option.some.inj he
  refine decodeWord_of _ _ hw ?_
  exact (at_19 _ (wordI_op ..)).trans (by simp)
theorem wrsr (d : Operand) (i : BitVec 16) : Statement (.wrsr d i) := by
  intro w hw he
  obtain rfl := Option.some.inj he
  refine decodeWord_of _ _ hw ?_
  exact (at_1A _ (wordI_op ..)).trans (by simp)
theorem thrcfgWrite (cluster : Nat) (x : Word) : Statement (.thrcfgWrite cluster x) := by
  intro w _ he; cases he
theorem colstatWrite (core : Nat) (x : Word) : Statement (.colstatWrite core x) := by
  intro w _ he; cases he
theorem add (d : Operand) (a : Operand) (b : Operand) : Statement (.add d a b) := by
  intro w hw he
  obtain rfl := Option.some.inj he
  refine decodeWord_of _ _ hw ?_
  exact (at_20 _ (wordR_op ..)).trans (by simp)
theorem sub (d : Operand) (a : Operand) (b : Operand) : Statement (.sub d a b) := by
  intro w hw he
  obtain rfl := Option.some.inj he
  refine decodeWord_of _ _ hw ?_
  exact (at_21 _ (wordR_op ..)).trans (by simp)
theorem mul (d : Operand) (a : Operand) (b : Operand) : Statement (.mul d a b) := by
  intro w hw he
  obtain rfl := Option.some.inj he
  refine decodeWord_of _ _ hw ?_
  exact (at_22 _ (wordR_op ..)).trans (by simp)
theorem mulh (d : Operand) (a : Operand) (b : Operand) : Statement (.mulh d a b) := by
  intro w hw he
  obtain rfl := Option.some.inj he
  refine decodeWord_of _ _ hw ?_
  exact (at_23 _ (wordR_op ..)).trans (by simp)
theorem mad (d : Operand) (a : Operand) (b : Operand) : Statement (.mad d a b) := by
  intro w hw he
  obtain rfl := Option.some.inj he
  refine decodeWord_of _ _ hw ?_
  exact (at_24 _ (wordR_op ..)).trans (by simp)
theorem neg (d : Operand) (a : Operand) : Statement (.neg d a) := by
  intro w hw he
  obtain rfl := Option.some.inj he
  refine decodeWord_of _ _ hw ?_
  exact (at_25 _ (wordR_op ..)).trans (by simp)
theorem abs (d : Operand) (a : Operand) : Statement (.abs d a) := by
  intro w hw he
  obtain rfl := Option.some.inj he
  refine decodeWord_of _ _ hw ?_
  exact (at_26 _ (wordR_op ..)).trans (by simp)
theorem min (d : Operand) (a : Operand) (b : Operand) : Statement (.min d a b) := by
  intro w hw he
  obtain rfl := Option.some.inj he
  refine decodeWord_of _ _ hw ?_
  exact (at_27 _ (wordR_op ..)).trans (by simp)
theorem max (d : Operand) (a : Operand) (b : Operand) : Statement (.max d a b) := by
  intro w hw he
  obtain rfl := Option.some.inj he
  refine decodeWord_of _ _ hw ?_
  exact (at_28 _ (wordR_op ..)).trans (by simp)
theorem clz (d : Operand) (a : Operand) : Statement (.clz d a) := by
  intro w hw he
  obtain rfl := Option.some.inj he
  refine decodeWord_of _ _ hw ?_
  exact (at_29 _ (wordR_op ..)).trans (by simp)
theorem popc (d : Operand) (a : Operand) : Statement (.popc d a) := by
  intro w hw he
  obtain rfl := Option.some.inj he
  refine decodeWord_of _ _ hw ?_
  exact (at_2A _ (wordR_op ..)).trans (by simp)
theorem brev (d : Operand) (a : Operand) : Statement (.brev d a) := by
  intro w hw he
  obtain rfl := Option.some.inj he
  refine decodeWord_of _ _ hw ?_
  exact (at_2B _ (wordR_op ..)).trans (by simp)
theorem and (d : Operand) (a : Operand) (b : Operand) : Statement (.and d a b) := by
  intro w hw he
  obtain rfl := Option.some.inj he
  refine decodeWord_of _ _ hw ?_
  exact (at_30 _ (wordR_op ..)).trans (by simp)
theorem or (d : Operand) (a : Operand) (b : Operand) : Statement (.or d a b) := by
  intro w hw he
  obtain rfl := Option.some.inj he
  refine decodeWord_of _ _ hw ?_
  exact (at_31 _ (wordR_op ..)).trans (by simp)
theorem xor (d : Operand) (a : Operand) (b : Operand) : Statement (.xor d a b) := by
  intro w hw he
  obtain rfl := Option.some.inj he
  refine decodeWord_of _ _ hw ?_
  exact (at_32 _ (wordR_op ..)).trans (by simp)
theorem not (d : Operand) (a : Operand) : Statement (.not d a) := by
  intro w hw he
  obtain rfl := Option.some.inj he
  refine decodeWord_of _ _ hw ?_
  exact (at_33 _ (wordR_op ..)).trans (by simp)
theorem shl (d : Operand) (a : Operand) (b : Operand) : Statement (.shl d a b) := by
  intro w hw he
  obtain rfl := Option.some.inj he
  refine decodeWord_of _ _ hw ?_
  exact (at_34 _ (wordR_op ..)).trans (by simp)
theorem shr (d : Operand) (a : Operand) (b : Operand) : Statement (.shr d a b) := by
  intro w hw he
  obtain rfl := Option.some.inj he
  refine decodeWord_of _ _ hw ?_
  exact (at_35 _ (wordR_op ..)).trans (by simp)
theorem sar (d : Operand) (a : Operand) (b : Operand) : Statement (.sar d a b) := by
  intro w hw he
  obtain rfl := Option.some.inj he
  refine decodeWord_of _ _ hw ?_
  exact (at_36 _ (wordR_op ..)).trans (by simp)
theorem rot (d : Operand) (a : Operand) (b : Operand) : Statement (.rot d a b) := by
  intro w hw he
  obtain rfl := Option.some.inj he
  refine decodeWord_of _ _ hw ?_
  exact (at_37 _ (wordR_op ..)).trans (by simp)
theorem bfx (d : Operand) (a : Operand) (b : Operand) : Statement (.bfx d a b) := by
  intro w hw he
  obtain rfl := Option.some.inj he
  refine decodeWord_of _ _ hw ?_
  exact (at_38 _ (wordR_op ..)).trans (by simp)
theorem bfi (d : Operand) (a : Operand) (b : Operand) : Statement (.bfi d a b) := by
  intro w hw he
  obtain rfl := Option.some.inj he
  refine decodeWord_of _ _ hw ?_
  exact (at_39 _ (wordR_op ..)).trans (by simp)
theorem fadd (d : Operand) (a : Operand) (b : Operand) : Statement (.fadd d a b) := by
  intro w hw he
  obtain rfl := Option.some.inj he
  refine decodeWord_of _ _ hw ?_
  exact (at_40 _ (wordR_op ..)).trans (by simp)
theorem fsub (d : Operand) (a : Operand) (b : Operand) : Statement (.fsub d a b) := by
  intro w hw he
  obtain rfl := Option.some.inj he
  refine decodeWord_of _ _ hw ?_
  exact (at_41 _ (wordR_op ..)).trans (by simp)
theorem fmul (d : Operand) (a : Operand) (b : Operand) : Statement (.fmul d a b) := by
  intro w hw he
  obtain rfl := Option.some.inj he
  refine decodeWord_of _ _ hw ?_
  exact (at_42 _ (wordR_op ..)).trans (by simp)
theorem fma (d : Operand) (a : Operand) (b : Operand) : Statement (.fma d a b) := by
  intro w hw he
  obtain rfl := Option.some.inj he
  refine decodeWord_of _ _ hw ?_
  exact (at_43 _ (wordR_op ..)).trans (by simp)
theorem fmin (d : Operand) (a : Operand) (b : Operand) : Statement (.fmin d a b) := by
  intro w hw he
  obtain rfl := Option.some.inj he
  refine decodeWord_of _ _ hw ?_
  exact (at_44 _ (wordR_op ..)).trans (by simp)
theorem fmax (d : Operand) (a : Operand) (b : Operand) : Statement (.fmax d a b) := by
  intro w hw he
  obtain rfl := Option.some.inj he
  refine decodeWord_of _ _ hw ?_
  exact (at_45 _ (wordR_op ..)).trans (by simp)
theorem fabs (d : Operand) (a : Operand) : Statement (.fabs d a) := by
  intro w hw he
  obtain rfl := Option.some.inj he
  refine decodeWord_of _ _ hw ?_
  exact (at_46 _ (wordR_op ..)).trans (by simp)
theorem fneg (d : Operand) (a : Operand) : Statement (.fneg d a) := by
  intro w hw he
  obtain rfl := Option.some.inj he
  refine decodeWord_of _ _ hw ?_
  exact (at_47 _ (wordR_op ..)).trans (by simp)
theorem cmpEq (d : Operand) (a : Operand) (b : Operand) : Statement (.cmpEq d a b) := by
  intro w hw he
  obtain rfl := Option.some.inj he
  refine decodeWord_of _ _ hw ?_
  exact (at_50 _ (wordR_op ..)).trans (by simp)
theorem cmpNe (d : Operand) (a : Operand) (b : Operand) : Statement (.cmpNe d a b) := by
  intro w hw he
  obtain rfl := Option.some.inj he
  refine decodeWord_of _ _ hw ?_
  exact (at_51 _ (wordR_op ..)).trans (by simp)
theorem cmpLt (d : Operand) (a : Operand) (b : Operand) : Statement (.cmpLt d a b) := by
  intro w hw he
  obtain rfl := Option.some.inj he
  refine decodeWord_of _ _ hw ?_
  exact (at_52 _ (wordR_op ..)).trans (by simp)
theorem cmpLe (d : Operand) (a : Operand) (b : Operand) : Statement (.cmpLe d a b) := by
  intro w hw he
  obtain rfl := Option.some.inj he
  refine decodeWord_of _ _ hw ?_
  exact (at_53 _ (wordR_op ..)).trans (by simp)
theorem cmpGt (d : Operand) (a : Operand) (b : Operand) : Statement (.cmpGt d a b) := by
  intro w hw he
  obtain rfl := Option.some.inj he
  refine decodeWord_of _ _ hw ?_
  exact (at_54 _ (wordR_op ..)).trans (by simp)
theorem cmpGe (d : Operand) (a : Operand) (b : Operand) : Statement (.cmpGe d a b) := by
  intro w hw he
  obtain rfl := Option.some.inj he
  refine decodeWord_of _ _ hw ?_
  exact (at_55 _ (wordR_op ..)).trans (by simp)
theorem fcmpEq (d : Operand) (a : Operand) (b : Operand) : Statement (.fcmpEq d a b) := by
  intro w hw he
  obtain rfl := Option.some.inj he
  refine decodeWord_of _ _ hw ?_
  exact (at_58 _ (wordR_op ..)).trans (by simp)
theorem fcmpNe (d : Operand) (a : Operand) (b : Operand) : Statement (.fcmpNe d a b) := by
  intro w hw he
  obtain rfl := Option.some.inj he
  refine decodeWord_of _ _ hw ?_
  exact (at_59 _ (wordR_op ..)).trans (by simp)
theorem fcmpLt (d : Operand) (a : Operand) (b : Operand) : Statement (.fcmpLt d a b) := by
  intro w hw he
  obtain rfl := Option.some.inj he
  refine decodeWord_of _ _ hw ?_
  exact (at_5A _ (wordR_op ..)).trans (by simp)
theorem fcmpLe (d : Operand) (a : Operand) (b : Operand) : Statement (.fcmpLe d a b) := by
  intro w hw he
  obtain rfl := Option.some.inj he
  refine decodeWord_of _ _ hw ?_
  exact (at_5B _ (wordR_op ..)).trans (by simp)
theorem fcmpGt (d : Operand) (a : Operand) (b : Operand) : Statement (.fcmpGt d a b) := by
  intro w hw he
  obtain rfl := Option.some.inj he
  refine decodeWord_of _ _ hw ?_
  exact (at_5C _ (wordR_op ..)).trans (by simp)
theorem fcmpGe (d : Operand) (a : Operand) (b : Operand) : Statement (.fcmpGe d a b) := by
  intro w hw he
  obtain rfl := Option.some.inj he
  refine decodeWord_of _ _ hw ?_
  exact (at_5D _ (wordR_op ..)).trans (by simp)
theorem fcmpUn (d : Operand) (a : Operand) (b : Operand) : Statement (.fcmpUn d a b) := by
  intro w hw he
  obtain rfl := Option.some.inj he
  refine decodeWord_of _ _ hw ?_
  exact (at_5E _ (wordR_op ..)).trans (by simp)
theorem cvt (d : Operand) (a : Operand) (b : Operand) : Statement (.cvt d a b) := by
  intro w hw he
  obtain rfl := Option.some.inj he
  refine decodeWord_of _ _ hw ?_
  exact (at_60 _ (wordR_op ..)).trans (by simp)
theorem cvt8 (d : Operand) (a : Operand) (b : Operand) : Statement (.cvt8 d a b) := by
  intro w hw he
  obtain rfl := Option.some.inj he
  refine decodeWord_of _ _ hw ?_
  exact (at_61 _ (wordR_op ..)).trans (by simp)
theorem bsc (d : Operand) (a : Operand) : Statement (.bsc d a) := by
  intro w hw he
  obtain rfl := Option.some.inj he
  refine decodeWord_of _ _ hw ?_
  exact (at_62 _ (wordR_op ..)).trans (by simp)
theorem bsq (d : Operand) (a : Operand) (b : Operand) : Statement (.bsq d a b) := by
  intro w hw he
  obtain rfl := Option.some.inj he
  refine decodeWord_of _ _ hw ?_
  exact (at_63 _ (wordR_op ..)).trans (by simp)
theorem exp2 (d : Operand) (a : Operand) : Statement (.exp2 d a) := by
  intro w hw he
  obtain rfl := Option.some.inj he
  refine decodeWord_of _ _ hw ?_
  exact (at_70 _ (wordR_op ..)).trans (by simp)
theorem log2 (d : Operand) (a : Operand) : Statement (.log2 d a) := by
  intro w hw he
  obtain rfl := Option.some.inj he
  refine decodeWord_of _ _ hw ?_
  exact (at_71 _ (wordR_op ..)).trans (by simp)
theorem rcp (d : Operand) (a : Operand) : Statement (.rcp d a) := by
  intro w hw he
  obtain rfl := Option.some.inj he
  refine decodeWord_of _ _ hw ?_
  exact (at_72 _ (wordR_op ..)).trans (by simp)
theorem rsq (d : Operand) (a : Operand) : Statement (.rsq d a) := by
  intro w hw he
  obtain rfl := Option.some.inj he
  refine decodeWord_of _ _ hw ?_
  exact (at_73 _ (wordR_op ..)).trans (by simp)
theorem sqrt (d : Operand) (a : Operand) : Statement (.sqrt d a) := by
  intro w hw he
  obtain rfl := Option.some.inj he
  refine decodeWord_of _ _ hw ?_
  exact (at_74 _ (wordR_op ..)).trans (by simp)
theorem sin (d : Operand) (a : Operand) : Statement (.sin d a) := by
  intro w hw he
  obtain rfl := Option.some.inj he
  refine decodeWord_of _ _ hw ?_
  exact (at_75 _ (wordR_op ..)).trans (by simp)
theorem cos (d : Operand) (a : Operand) : Statement (.cos d a) := by
  intro w hw he
  obtain rfl := Option.some.inj he
  refine decodeWord_of _ _ hw ?_
  exact (at_76 _ (wordR_op ..)).trans (by simp)
theorem tanh (d : Operand) (a : Operand) : Statement (.tanh d a) := by
  intro w hw he
  obtain rfl := Option.some.inj he
  refine decodeWord_of _ _ hw ?_
  exact (at_77 _ (wordR_op ..)).trans (by simp)
theorem sigm (d : Operand) (a : Operand) : Statement (.sigm d a) := by
  intro w hw he
  obtain rfl := Option.some.inj he
  refine decodeWord_of _ _ hw ?_
  exact (at_78 _ (wordR_op ..)).trans (by simp)
theorem shflIdx (d : Operand) (a : Operand) (b : Operand) : Statement (.shflIdx d a b) := by
  intro w hw he
  obtain rfl := Option.some.inj he
  refine decodeWord_of _ _ hw ?_
  exact (at_80 _ (wordR_op ..)).trans (by simp)
theorem shflUp (d : Operand) (a : Operand) (b : Operand) : Statement (.shflUp d a b) := by
  intro w hw he
  obtain rfl := Option.some.inj he
  refine decodeWord_of _ _ hw ?_
  exact (at_81 _ (wordR_op ..)).trans (by simp)
theorem shflDn (d : Operand) (a : Operand) (b : Operand) : Statement (.shflDn d a b) := by
  intro w hw he
  obtain rfl := Option.some.inj he
  refine decodeWord_of _ _ hw ?_
  exact (at_82 _ (wordR_op ..)).trans (by simp)
theorem shflXor (d : Operand) (a : Operand) (b : Operand) : Statement (.shflXor d a b) := by
  intro w hw he
  obtain rfl := Option.some.inj he
  refine decodeWord_of _ _ hw ?_
  exact (at_83 _ (wordR_op ..)).trans (by simp)
theorem voteAny (d : Operand) (a : Operand) : Statement (.voteAny d a) := by
  intro w hw he
  obtain rfl := Option.some.inj he
  refine decodeWord_of _ _ hw ?_
  exact (at_84 _ (wordR_op ..)).trans (by simp)
theorem voteAll (d : Operand) (a : Operand) : Statement (.voteAll d a) := by
  intro w hw he
  obtain rfl := Option.some.inj he
  refine decodeWord_of _ _ hw ?_
  exact (at_85 _ (wordR_op ..)).trans (by simp)
theorem voteBal (d : Operand) (a : Operand) : Statement (.voteBal d a) := by
  intro w hw he
  obtain rfl := Option.some.inj he
  refine decodeWord_of _ _ hw ?_
  exact (at_86 _ (wordR_op ..)).trans (by simp)
theorem redAdd (d : Operand) (a : Operand) : Statement (.redAdd d a) := by
  intro w hw he
  obtain rfl := Option.some.inj he
  refine decodeWord_of _ _ hw ?_
  exact (at_87 _ (wordR_op ..)).trans (by simp)
theorem redMin (d : Operand) (a : Operand) : Statement (.redMin d a) := by
  intro w hw he
  obtain rfl := Option.some.inj he
  refine decodeWord_of _ _ hw ?_
  exact (at_88 _ (wordR_op ..)).trans (by simp)
theorem redMax (d : Operand) (a : Operand) : Statement (.redMax d a) := by
  intro w hw he
  obtain rfl := Option.some.inj he
  refine decodeWord_of _ _ hw ?_
  exact (at_89 _ (wordR_op ..)).trans (by simp)
theorem scan (d : Operand) (a : Operand) (b : Operand) : Statement (.scan d a b) := by
  intro w hw he
  obtain rfl := Option.some.inj he
  refine decodeWord_of _ _ hw ?_
  exact (at_8A _ (wordR_op ..)).trans (by simp)
theorem scanx (d : Operand) (a : Operand) (b : Operand) : Statement (.scanx d a b) := by
  intro w hw he
  obtain rfl := Option.some.inj he
  refine decodeWord_of _ _ hw ?_
  exact (at_8B _ (wordR_op ..)).trans (by simp)
theorem matchKey (d : Operand) (a : Operand) : Statement (.matchKey d a) := by
  intro w hw he
  obtain rfl := Option.some.inj he
  refine decodeWord_of _ _ hw ?_
  exact (at_8C _ (wordR_op ..)).trans (by simp)
theorem rdlane (d : Operand) (a : Operand) (b : Operand) : Statement (.rdlane d a b) := by
  intro w hw he
  obtain rfl := Option.some.inj he
  refine decodeWord_of _ _ hw ?_
  exact (at_8D _ (wordR_op ..)).trans (by simp)
theorem wrlane (d : Operand) (a : Operand) (b : Operand) : Statement (.wrlane d a b) := by
  intro w hw he
  obtain rfl := Option.some.inj he
  refine decodeWord_of _ _ hw ?_
  exact (at_8E _ (wordR_op ..)).trans (by simp)
theorem ld (d : Operand) (o : Operand) (b : Fin 8) (sz : BitVec 3) (sx : Bool) (nt : Bool) : Statement (.ld d o b sz sx nt) := by
  intro w hw he
  obtain rfl := Option.some.inj he
  refine decodeWord_of _ _ hw ?_
  exact (at_90 _ (wordM_op ..)).trans (by simp only [wordM_spec_d, wordM_spec_o, wordM_b, wordM_sz, wordM_nt, wordM_sx, decodeOperand_encodeOperand] <;> rfl)
theorem st (d : Operand) (o : Operand) (b : Fin 8) (sz : BitVec 3) (nt : Bool) : Statement (.st d o b sz nt) := by
  intro w hw he
  obtain rfl := Option.some.inj he
  refine decodeWord_of _ _ hw ?_
  exact (at_91 _ (wordM_op ..)).trans (by simp only [wordM_spec_d, wordM_spec_o, wordM_b, wordM_sz, wordM_nt, wordM_low, decodeOperand_encodeOperand] <;> rfl)
theorem ldu (d : Operand) (o : Operand) (b : Fin 8) (sz : BitVec 3) (sx : Bool) (nt : Bool) : Statement (.ldu d o b sz sx nt) := by
  intro w hw he
  obtain rfl := Option.some.inj he
  refine decodeWord_of _ _ hw ?_
  exact (at_92 _ (wordM_op ..)).trans (by simp only [wordM_spec_d, wordM_spec_o, wordM_b, wordM_sz, wordM_nt, wordM_sx, decodeOperand_encodeOperand] <;> rfl)
theorem stu (d : Operand) (o : Operand) (b : Fin 8) (sz : BitVec 3) (sx : Bool) (nt : Bool) : Statement (.stu d o b sz sx nt) := by
  intro w hw he
  obtain rfl := Option.some.inj he
  refine decodeWord_of _ _ hw ?_
  exact (at_93 _ (wordM_op ..)).trans (by simp only [wordM_spec_d, wordM_spec_o, wordM_b, wordM_sz, wordM_nt, wordM_sx, decodeOperand_encodeOperand] <;> rfl)
theorem pf (o : Operand) (b : Fin 8) (sz : BitVec 3) (nt : Bool) : Statement (.pf o b sz nt) := by
  intro w hw he
  obtain rfl := Option.some.inj he
  refine decodeWord_of _ _ hw ?_
  exact (at_94 _ (wordM_op ..)).trans (by simp only [wordM_spec_o, wordM_d, wordM_b, wordM_sz, wordM_nt, wordM_sx, decodeOperand_encodeOperand] <;> rfl)
theorem sectorReturn (w : Nat) (acc : Nat) (k : Nat) : Statement (.sectorReturn w acc k) := by
  intro w _ he; cases he
theorem lda (d : Operand) (o : Operand) (b : Fin 8) : Statement (.lda d o b) := by
  intro w hw he
  obtain rfl := Option.some.inj he
  refine decodeWord_of _ _ hw ?_
  exact (at_A0 _ (wordA_op ..)).trans (by simp only [wordA_spec_d, wordA_spec_o, wordA_b, wordA_r, decodeOperand_encodeOperand] <;> rfl)
theorem sta (d : Operand) (o : Operand) (b : Fin 8) : Statement (.sta d o b) := by
  intro w hw he
  obtain rfl := Option.some.inj he
  refine decodeWord_of _ _ hw ?_
  exact (at_A1 _ (wordA_op ..)).trans (by simp only [wordA_spec_d, wordA_spec_o, wordA_b, wordA_r, decodeOperand_encodeOperand] <;> rfl)
theorem atomAdd (d : Operand) (o : Operand) (b : Fin 8) (r : Fin 32) : Statement (.atomAdd d o b r) := by
  intro w hw he
  obtain rfl := Option.some.inj he
  refine decodeWord_of _ _ hw ?_
  exact (at_A2 _ (wordA_op ..)).trans (by simp only [wordA_spec_d, wordA_spec_o, wordA_b, wordA_r, fin_bits5, decodeOperand_encodeOperand] <;> rfl)
theorem atomMin (d : Operand) (o : Operand) (b : Fin 8) (r : Fin 32) : Statement (.atomMin d o b r) := by
  intro w hw he
  obtain rfl := Option.some.inj he
  refine decodeWord_of _ _ hw ?_
  exact (at_A3 _ (wordA_op ..)).trans (by simp only [wordA_spec_d, wordA_spec_o, wordA_b, wordA_r, fin_bits5, decodeOperand_encodeOperand] <;> rfl)
theorem atomMax (d : Operand) (o : Operand) (b : Fin 8) (r : Fin 32) : Statement (.atomMax d o b r) := by
  intro w hw he
  obtain rfl := Option.some.inj he
  refine decodeWord_of _ _ hw ?_
  exact (at_A4 _ (wordA_op ..)).trans (by simp only [wordA_spec_d, wordA_spec_o, wordA_b, wordA_r, fin_bits5, decodeOperand_encodeOperand] <;> rfl)
theorem atomAnd (d : Operand) (o : Operand) (b : Fin 8) (r : Fin 32) : Statement (.atomAnd d o b r) := by
  intro w hw he
  obtain rfl := Option.some.inj he
  refine decodeWord_of _ _ hw ?_
  exact (at_A5 _ (wordA_op ..)).trans (by simp only [wordA_spec_d, wordA_spec_o, wordA_b, wordA_r, fin_bits5, decodeOperand_encodeOperand] <;> rfl)
theorem atomOr (d : Operand) (o : Operand) (b : Fin 8) (r : Fin 32) : Statement (.atomOr d o b r) := by
  intro w hw he
  obtain rfl := Option.some.inj he
  refine decodeWord_of _ _ hw ?_
  exact (at_A6 _ (wordA_op ..)).trans (by simp only [wordA_spec_d, wordA_spec_o, wordA_b, wordA_r, fin_bits5, decodeOperand_encodeOperand] <;> rfl)
theorem atomXor (d : Operand) (o : Operand) (b : Fin 8) (r : Fin 32) : Statement (.atomXor d o b r) := by
  intro w hw he
  obtain rfl := Option.some.inj he
  refine decodeWord_of _ _ hw ?_
  exact (at_A7 _ (wordA_op ..)).trans (by simp only [wordA_spec_d, wordA_spec_o, wordA_b, wordA_r, fin_bits5, decodeOperand_encodeOperand] <;> rfl)
theorem atomXchg (d : Operand) (o : Operand) (b : Fin 8) (r : Fin 32) : Statement (.atomXchg d o b r) := by
  intro w hw he
  obtain rfl := Option.some.inj he
  refine decodeWord_of _ _ hw ?_
  exact (at_A8 _ (wordA_op ..)).trans (by simp only [wordA_spec_d, wordA_spec_o, wordA_b, wordA_r, fin_bits5, decodeOperand_encodeOperand] <;> rfl)
theorem atomCas (d : Operand) (o : Operand) (b : Fin 8) (r : Fin 32) : Statement (.atomCas d o b r) := by
  intro w hw he
  obtain rfl := Option.some.inj he
  refine decodeWord_of _ _ hw ?_
  exact (at_A9 _ (wordA_op ..)).trans (by simp only [wordA_spec_d, wordA_spec_o, wordA_b, wordA_r, fin_bits5, decodeOperand_encodeOperand] <;> rfl)
theorem atomFadd (d : Operand) (o : Operand) (b : Fin 8) (r : Fin 32) : Statement (.atomFadd d o b r) := by
  intro w hw he
  obtain rfl := Option.some.inj he
  refine decodeWord_of _ _ hw ?_
  exact (at_AA _ (wordA_op ..)).trans (by simp only [wordA_spec_d, wordA_spec_o, wordA_b, wordA_r, fin_bits5, decodeOperand_encodeOperand] <;> rfl)
theorem atomInc (d : Operand) (o : Operand) (b : Fin 8) (r : Fin 32) : Statement (.atomInc d o b r) := by
  intro w hw he
  obtain rfl := Option.some.inj he
  refine decodeWord_of _ _ hw ?_
  exact (at_AB _ (wordA_op ..)).trans (by simp only [wordA_spec_d, wordA_spec_o, wordA_b, wordA_r, fin_bits5, decodeOperand_encodeOperand] <;> rfl)
theorem cqPost (k : Fin 4) (q : Operand) (f : Fin 32) : Statement (.cqPost k q f) := by
  intro w hw he
  obtain rfl := Option.some.inj he
  refine decodeWord_of _ _ hw ?_
  exact (at_B0 _ (Q_op ..)).trans (by simp only [Q_k, Q_q, Q_f, Q_z, fin_bits2, fin_bits5, fixed_one, decodeOperand_encodeOperand])
theorem batClose (d : Operand) : Statement (.batClose d) := by
  intro w hw he
  obtain rfl := Option.some.inj he
  refine decodeWord_of _ _ hw ?_
  exact (at_B1 _ (wordR_op ..)).trans (by simp)
theorem waitBat (a : Operand) : Statement (.waitBat a) := by
  intro w hw he
  obtain rfl := Option.some.inj he
  refine decodeWord_of _ _ hw ?_
  exact (at_B2 _ (wordR_op ..)).trans (by simp)
theorem hbFill (a : Operand) : Statement (.hbFill a) := by
  intro w hw he
  obtain rfl := Option.some.inj he
  refine decodeWord_of _ _ hw ?_
  exact (at_B3 _ (wordR_op ..)).trans (by simp)
theorem hbAcq (a : Operand) : Statement (.hbAcq a) := by
  intro w hw he
  obtain rfl := Option.some.inj he
  refine decodeWord_of _ _ hw ?_
  exact (at_B4 _ (wordR_op ..)).trans (by simp)
theorem hbRel (a : Operand) : Statement (.hbRel a) := by
  intro w hw he
  obtain rfl := Option.some.inj he
  refine decodeWord_of _ _ hw ?_
  exact (at_B5 _ (wordR_op ..)).trans (by simp)
theorem hbState (d : Operand) (a : Operand) : Statement (.hbState d a) := by
  intro w hw he
  obtain rfl := Option.some.inj he
  refine decodeWord_of _ _ hw ?_
  exact (at_B6 _ (wordR_op ..)).trans (by simp)
theorem hbCfg (a : Operand) (b : Operand) : Statement (.hbCfg a b) := by
  intro w hw he
  obtain rfl := Option.some.inj he
  refine decodeWord_of _ _ hw ?_
  exact (at_B7 _ (wordR_op ..)).trans (by simp)
theorem mmaBi8 (c : Fin 32) (a : Fin 32) (w : Fin 4) (v : Fin 64) (s : Fin 4) (rows : Fin 4) (acc : Bool) : Statement (.mmaBi8 c a w v s rows acc) := by
  intro w hw he
  obtain rfl := Option.some.inj he
  refine decodeWord_of _ _ hw ?_
  exact (at_C0 _ (W_op ..)).trans (by simp only [W_c, W_a, W_wb, W_v, W_s, W_z, W_rows, bit_of_field _ 0 _ (W_acc ..), fin_bits2, fin_bits5, fin_bits6, fixed_one])
theorem mmaBi4 (c : Fin 32) (a : Fin 32) (w : Fin 4) (v : Fin 64) (s : Fin 4) (rows : Fin 4) (acc : Bool) : Statement (.mmaBi4 c a w v s rows acc) := by
  intro w hw he
  obtain rfl := Option.some.inj he
  refine decodeWord_of _ _ hw ?_
  exact (at_C1 _ (W_op ..)).trans (by simp only [W_c, W_a, W_wb, W_v, W_s, W_z, W_rows, bit_of_field _ 0 _ (W_acc ..), fin_bits2, fin_bits5, fin_bits6, fixed_one])
theorem mmaI8w (c : Fin 32) (a : Fin 32) (w : Fin 4) (v : Fin 64) (s : Fin 4) (rows : Fin 4) (acc : Bool) : Statement (.mmaI8w c a w v s rows acc) := by
  intro w hw he
  obtain rfl := Option.some.inj he
  refine decodeWord_of _ _ hw ?_
  exact (at_C2 _ (W_op ..)).trans (by simp only [W_c, W_a, W_wb, W_v, W_s, W_z, W_rows, bit_of_field _ 0 _ (W_acc ..), fin_bits2, fin_bits5, fin_bits6, fixed_one])
theorem mwait : Statement (.mwait) := by
  intro w hw he; obtain rfl := Option.some.inj he; exact decodeWord_of _ _ hw rfl
theorem mzero (a : Operand) : Statement (.mzero a) := by
  intro w hw he
  obtain rfl := Option.some.inj he
  refine decodeWord_of _ _ hw ?_
  exact (at_C4 _ (wordR_op ..)).trans (by simp)
theorem mnorm (d : Operand) (a : Operand) : Statement (.mnorm d a) := by
  intro w hw he
  obtain rfl := Option.some.inj he
  refine decodeWord_of _ _ hw ?_
  exact (at_C5 _ (wordR_op ..)).trans (by simp)
theorem mwsel (a : Operand) : Statement (.mwsel a) := by
  intro w hw he
  obtain rfl := Option.some.inj he
  refine decodeWord_of _ _ hw ?_
  exact (at_C6 _ (wordR_op ..)).trans (by simp)
theorem mfence : Statement (.mfence) := by
  intro w hw he; obtain rfl := Option.some.inj he; exact decodeWord_of _ _ hw rfl
theorem btonTake : Statement (.btonTake) := by
  intro w hw he; obtain rfl := Option.some.inj he; exact decodeWord_of _ _ hw rfl
theorem btonPass : Statement (.btonPass) := by
  intro w hw he; obtain rfl := Option.some.inj he; exact decodeWord_of _ _ hw rfl
theorem bankLoadStart (core : Nat) : Statement (.bankLoadStart core) := by
  intro w _ he; cases he
theorem bankLoadComplete (core : Nat) : Statement (.bankLoadComplete core) := by
  intro w _ he; cases he
theorem mmaWordStart (core : Nat) (half : Nat) : Statement (.mmaWordStart core half) := by
  intro w _ he; cases he
theorem mmaWordComplete (core : Nat) : Statement (.mmaWordComplete core) := by
  intro w _ he; cases he
theorem mzeroComplete (core : Nat) : Statement (.mzeroComplete core) := by
  intro w _ he; cases he
theorem mnormComplete (core : Nat) : Statement (.mnormComplete core) := by
  intro w _ he; cases he
theorem recRun (a : Operand) (b : Operand) : Statement (.recRun a b) := by
  intro w hw he
  obtain rfl := Option.some.inj he
  refine decodeWord_of _ _ hw ?_
  exact (at_D0 _ (wordR_op ..)).trans (by simp)
theorem recChild (d : Operand) : Statement (.recChild d) := by
  intro w hw he
  obtain rfl := Option.some.inj he
  refine decodeWord_of _ _ hw ?_
  exact (at_D1 _ (wordR_op ..)).trans (by simp)
theorem recRet (a : Operand) : Statement (.recRet a) := by
  intro w hw he
  obtain rfl := Option.some.inj he
  refine decodeWord_of _ _ hw ?_
  exact (at_D2 _ (wordR_op ..)).trans (by simp)
theorem recWait (d : Operand) : Statement (.recWait d) := by
  intro w hw he
  obtain rfl := Option.some.inj he
  refine decodeWord_of _ _ hw ?_
  exact (at_D3 _ (wordR_op ..)).trans (by simp)
theorem routineCall (core : Nat) (w : Nat) : Statement (.routineCall core w) := by
  intro w _ he; cases he
theorem spawn (d : Operand) (a : Operand) (b : Operand) : Statement (.spawn d a b) := by
  intro w hw he
  obtain rfl := Option.some.inj he
  refine decodeWord_of _ _ hw ?_
  exact (at_D4 _ (wordR_op ..)).trans (by simp)
theorem cjoin (d : Operand) : Statement (.cjoin d) := by
  intro w hw he
  obtain rfl := Option.some.inj he
  refine decodeWord_of _ _ hw ?_
  exact (at_D5 _ (wordR_op ..)).trans (by simp)
theorem barInit (b : Fin 32) (m : Operand) : Statement (.barInit b m) := by
  intro w hw he
  obtain rfl := Option.some.inj he
  refine decodeWord_of _ _ hw ?_
  exact (at_E0 _ (G_op ..)).trans (by simp only [G_b, G_m, G_z, fin_bits5, fixed_one, decodeOperand_encodeOperand])
theorem barArrive (b : Fin 32) (m : Operand) : Statement (.barArrive b m) := by
  intro w hw he
  obtain rfl := Option.some.inj he
  refine decodeWord_of _ _ hw ?_
  exact (at_E1 _ (G_op ..)).trans (by simp only [G_b, G_m, G_z, fin_bits5, fixed_one, decodeOperand_encodeOperand])
theorem barWait (b : Fin 32) (m : Operand) : Statement (.barWait b m) := by
  intro w hw he
  obtain rfl := Option.some.inj he
  refine decodeWord_of _ _ hw ?_
  exact (at_E2 _ (G_op ..)).trans (by simp only [G_b, G_m, G_z, fin_bits5, fixed_one, decodeOperand_encodeOperand])
theorem barSync (b : Fin 32) (m : Operand) : Statement (.barSync b m) := by
  intro w hw he
  obtain rfl := Option.some.inj he
  refine decodeWord_of _ _ hw ?_
  exact (at_E3 _ (G_op ..)).trans (by simp only [G_b, G_m, G_z, fin_bits5, fixed_one, decodeOperand_encodeOperand])
theorem barInval (b : Fin 32) (m : Operand) : Statement (.barInval b m) := by
  intro w hw he
  obtain rfl := Option.some.inj he
  refine decodeWord_of _ _ hw ?_
  exact (at_E4 _ (G_op ..)).trans (by simp only [G_b, G_m, G_z, fin_bits5, fixed_one, decodeOperand_encodeOperand])
theorem fenceAll (sc : Fin 8) : Statement (.fenceAll sc) := by
  intro w hw he
  obtain rfl := Option.some.inj he
  refine decodeWord_of _ _ hw ?_
  exact (at_E5 _ (F_op ..)).trans (by simp only [F_sc, F_k, F_z, fin_bits3] <;> rfl)
theorem fenceLoads (sc : Fin 8) : Statement (.fenceLoads sc) := by
  intro w hw he
  obtain rfl := Option.some.inj he
  refine decodeWord_of _ _ hw ?_
  exact (at_E5 _ (F_op ..)).trans (by simp only [F_sc, F_k, F_z, fin_bits3] <;> rfl)
theorem fenceStores (sc : Fin 8) : Statement (.fenceStores sc) := by
  intro w hw he
  obtain rfl := Option.some.inj he
  refine decodeWord_of _ _ hw ?_
  exact (at_E5 _ (F_op ..)).trans (by simp only [F_sc, F_k, F_z, fin_bits3] <;> rfl)
theorem fenceEngines (sc : Fin 8) : Statement (.fenceEngines sc) := by
  intro w hw he
  obtain rfl := Option.some.inj he
  refine decodeWord_of _ _ hw ?_
  exact (at_E5 _ (F_op ..)).trans (by simp only [F_sc, F_k, F_z, fin_bits3] <;> rfl)
theorem rgn : Statement (.rgn) := by
  intro w hw he; obtain rfl := Option.some.inj he; exact decodeWord_of _ _ hw rfl
theorem rgnI : Statement (.rgnI) := by
  intro w hw he; obtain rfl := Option.some.inj he; exact decodeWord_of _ _ hw rfl
theorem rgnE : Statement (.rgnE) := by
  intro w hw he; obtain rfl := Option.some.inj he; exact decodeWord_of _ _ hw rfl
theorem ckpt : Statement (.ckpt) := by
  intro w hw he; obtain rfl := Option.some.inj he; exact decodeWord_of _ _ hw rfl
theorem balBurn (a : Operand) (b : Operand) : Statement (.balBurn a b) := by
  intro w hw he
  obtain rfl := Option.some.inj he
  refine decodeWord_of _ _ hw ?_
  exact (at_E8 _ (wordR_op ..)).trans (by simp)
theorem balShunt (d : Operand) (a : Operand) : Statement (.balShunt d a) := by
  intro w hw he
  obtain rfl := Option.some.inj he
  refine decodeWord_of _ _ hw ?_
  exact (at_E9 _ (wordR_op ..)).trans (by simp)
theorem balStop : Statement (.balStop) := by
  intro w hw he; obtain rfl := Option.some.inj he; exact decodeWord_of _ _ hw rfl
theorem burnExpiry (w : Nat) : Statement (.burnExpiry w) := by
  intro w _ he; cases he
theorem eret : Statement (.eret) := by
  intro w hw he; obtain rfl := Option.some.inj he; exact decodeWord_of _ _ hw rfl
theorem hv (i : BitVec 24) : Statement (.hv i) := by
  intro w hw he
  obtain rfl := Option.some.inj he
  refine decodeWord_of _ _ hw ?_
  exact (at_F1 _ (J_op ..)).trans (by simp)
theorem mcsWr (a : Operand) (b : Operand) : Statement (.mcsWr a b) := by
  intro w hw he
  obtain rfl := Option.some.inj he
  refine decodeWord_of _ _ hw ?_
  exact (at_F2 _ (wordR_op ..)).trans (by simp)
theorem iinv : Statement (.iinv) := by
  intro w hw he; obtain rfl := Option.some.inj he; exact decodeWord_of _ _ hw rfl
theorem tlbinv (a : Operand) : Statement (.tlbinv a) := by
  intro w hw he
  obtain rfl := Option.some.inj he
  refine decodeWord_of _ _ hw ?_
  exact (at_F4 _ (wordR_op ..)).trans (by simp)
theorem starvationPriority (w : Nat) (sl : Nat) : Statement (.starvationPriority w sl) := by
  intro w _ he; cases he
theorem headerLineChange (q : Nat) : Statement (.headerLineChange q) := by
  intro w _ he; cases he
theorem copy (q : Nat) : Statement (.copy q) := by
  intro w _ he; cases he
theorem fill (q : Nat) : Statement (.fill q) := by
  intro w _ he; cases he
theorem reduceCopy (q : Nat) : Statement (.reduceCopy q) := by
  intro w _ he; cases he
theorem copySignal (q : Nat) : Statement (.copySignal q) := by
  intro w _ he; cases he
theorem copyVoid (q : Nat) : Statement (.copyVoid q) := by
  intro w _ he; cases he
theorem packetComplete (q : Nat) (idx : Word) : Statement (.packetComplete q idx) := by
  intro w _ he; cases he
theorem fillComplete (q : Nat) (idx : Word) : Statement (.fillComplete q idx) := by
  intro w _ he; cases he
theorem workQueueRead (q : Nat) : Statement (.workQueueRead q) := by
  intro w _ he; cases he
theorem launch (q : Nat) : Statement (.launch q) := by
  intro w _ he; cases he
theorem workSignal (q : Nat) : Statement (.workSignal q) := by
  intro w _ he; cases he
theorem gload (q : Nat) : Statement (.gload q) := by
  intro w _ he; cases he
theorem workVoid (q : Nat) : Statement (.workVoid q) := by
  intro w _ he; cases he
theorem forwardingQueuePacket (q : Nat) : Statement (.forwardingQueuePacket q) := by
  intro w _ he; cases he
theorem placementDecision : Statement (.placementDecision) := by
  intro w _ he; cases he
theorem coresidentReservation (launch : Nat) : Statement (.coresidentReservation launch) := by
  intro w _ he; cases he
theorem launchComplete (launch : Nat) : Statement (.launchComplete launch) := by
  intro w _ he; cases he
theorem trig (part : Nat) (x : DWord) : Statement (.trig part x) := by
  intro w _ he; cases he
theorem graphRunStart (part : Nat) (gid : Nat) : Statement (.graphRunStart part gid) := by
  intro w _ he; cases he
theorem graphNodeStart (part : Nat) (gid : Nat) (node : Nat) : Statement (.graphNodeStart part gid node) := by
  intro w _ he; cases he
theorem graphRunEnd (part : Nat) (gid : Nat) : Statement (.graphRunEnd part gid) := by
  intro w _ he; cases he
theorem qreg (q : Nat) : Statement (.qreg q) := by
  intro w _ he; cases he
theorem qset (q : Nat) : Statement (.qset q) := by
  intro w _ he; cases he
theorem peek (q : Nat) : Statement (.peek q) := by
  intro w _ he; cases he
theorem resolve (q : Nat) : Statement (.resolve q) := by
  intro w _ he; cases he
theorem kill (q : Nat) : Statement (.kill q) := by
  intro w _ he; cases he
theorem zero (q : Nat) : Statement (.zero q) := by
  intro w _ he; cases he
theorem zeroComplete (i : Nat) : Statement (.zeroComplete i) := by
  intro w _ he; cases he
theorem timeQuantumExpiry (part : Nat) : Statement (.timeQuantumExpiry part) := by
  intro w _ he; cases he
theorem cisternSwap (part : Nat) : Statement (.cisternSwap part) := by
  intro w _ he; cases he
theorem pinnedTimeout (part : Nat) : Statement (.pinnedTimeout part) := by
  intro w _ he; cases he
theorem takeOver : Statement (.takeOver) := by
  intro w _ he; cases he
theorem checkpointAttempt (core : Nat) : Statement (.checkpointAttempt core) := by
  intro w _ he; cases he
theorem checkpointAttemptTimeout (w : Nat) : Statement (.checkpointAttemptTimeout w) := by
  intro w _ he; cases he
theorem pinnedCheckpoint (w : Nat) : Statement (.pinnedCheckpoint w) := by
  intro w _ he; cases he
theorem uceConsumed (site : ErrSite) : Statement (.uceConsumed site) := by
  intro w _ he; cases he
theorem correctedError (b : Bucket) : Statement (.correctedError b) := by
  intro w _ he; cases he
theorem leak : Statement (.leak) := by
  intro w _ he; cases he
theorem auditReplay (cluster : Nat) (i : Nat) (err : DWord) (third : Option Nat) : Statement (.auditReplay cluster i err third) := by
  intro w _ he; cases he
theorem railReading (col : Nat) (rail : Nat) (r : Int) : Statement (.railReading col rail r) := by
  intro w _ he; cases he
theorem throttle (col : Nat) (rail : Nat) : Statement (.throttle col rail) := by
  intro w _ he; cases he
theorem columnRestart (col : Nat) : Statement (.columnRestart col) := by
  intro w _ he; cases he
theorem phaseFailure (col : Nat) (rail : Nat) : Statement (.phaseFailure col rail) := by
  intro w _ he; cases he
theorem columnGate (col : Nat) : Statement (.columnGate col) := by
  intro w _ he; cases he
theorem inrushGrant (col : Nat) : Statement (.inrushGrant col) := by
  intro w _ he; cases he
theorem wakeStepWait (col : Nat) : Statement (.wakeStepWait col) := by
  intro w _ he; cases he
theorem islpt (isl : Nat) (x : Word) : Statement (.islpt isl x) := by
  intro w _ he; cases he
theorem islptChangeDone (isl : Nat) : Statement (.islptChangeDone isl) := by
  intro w _ he; cases he
theorem laystg (x : Word) : Statement (.laystg x) := by
  intro w _ he; cases he
theorem laycmt (x : Word) : Statement (.laycmt x) := by
  intro w _ he; cases he
theorem basecampRestart : Statement (.basecampRestart) := by
  intro w _ he; cases he
theorem fabid (x : Word) : Statement (.fabid x) := by
  intro w _ he; cases he
theorem registerWrite (pa : Nat) (n : Nat) (x : DWord) : Statement (.registerWrite pa n x) := by
  intro w _ he; cases he
theorem selfTestDrain : Statement (.selfTestDrain) := by
  intro w _ he; cases he
theorem selfTestPreempt : Statement (.selfTestPreempt) := by
  intro w _ he; cases he
theorem scanSelfTestDone (pass : Bool) : Statement (.scanSelfTestDone pass) := by
  intro w _ he; cases he
theorem spareReplacement (x : Replaced) : Statement (.spareReplacement x) := by
  intro w _ he; cases he
theorem attestationReport (nonce : List Byte) : Statement (.attestationReport nonce) := by
  intro w _ he; cases he
theorem otpMinimumVersionRaise (version : Nat) : Statement (.otpMinimumVersionRaise version) := by
  intro w _ he; cases he
theorem packageReset (pass : List Nat) (slotA : ImgSlots) (slotB : ImgSlots) : Statement (.packageReset pass slotA slotB) := by
  intro w _ he; cases he
theorem islandPowerUp (isl : Nat) : Statement (.islandPowerUp isl) := by
  intro w _ he; cases he
theorem inboundRequest (req : Inbound) : Statement (.inboundRequest req) := by
  intro w _ he; cases he
theorem unreachable (w : Nat) (acc : Nat) : Statement (.unreachable w acc) := by
  intro w _ he; cases he
theorem unassignedOpcode (x : Word) : Statement (.unassignedOpcode x) := by
  intro w _ he; cases he
theorem fetchFault : Statement (.fetchFault) := by
  intro w _ he; cases he
theorem storePerformed (w : Nat) (acc : Nat) : Statement (.storePerformed w acc) := by
  intro w _ he; cases he
theorem rangeWalkComplete (cluster : Nat) (i : Nat) : Statement (.rangeWalkComplete cluster i) := by
  intro w _ he; cases he
theorem wakeStepEnd (col : Nat) : Statement (.wakeStepEnd col) := by
  intro w _ he; cases he
theorem coolingShortfall (isl : Nat) (point : Nat) : Statement (.coolingShortfall isl point) := by
  intro w _ he; cases he

end Sys2Proof.Laws.EncodeDecode
end

