-- ==== Sys2Proof/Laws/Trap.lean ====
section
/-! SUPPORT. What taking an exception and returning from one can change (R230 to R236), and what waiting and event records change. -/

namespace Sys2Proof.Machine

/-- A change of slices changes nothing but the slices. -/
theorem WaveCore.updSlices_eq (w : WaveCore) (g : List Nat) (f : Nat → Slice → Slice) :
    w.updSlices g f = { w with slices := (w.updSlices g f).slices } := rfl

/-- A wait changes nothing but the slices. -/
theorem WaveCore.setWait_eq (w : WaveCore) (sl : Nat) (x : Option Wait) :
    w.setWait sl x = { w with slices := (w.setWait sl x).slices } := rfl

/-- Entering a handler changes nothing but the slices. -/
theorem WaveCore.enterHandler_eq (w : WaveCore) (sl : Nat) :
    w.enterHandler sl = { w with slices := (w.enterHandler sl).slices } := rfl

/-- Delivery writes the record, the slices and the unresolved trap, and nothing else. -/
theorem WaveCore.deliver_eq (w : WaveCore) (sl : Nat) (t : TrapInfo) (r : Route) :
    ∃ sls tr, w.deliver sl t r = { w.setRecord sl t with slices := sls, trap := some tr } := by
  unfold WaveCore.deliver
  split
  · exact ⟨_, _, rfl⟩
  · dsimp only
    split
    · exact ⟨_, _, rfl⟩
    · exact ⟨_, _, rfl⟩

/-- A trap leaves the registers. -/
theorem WaveCore.deliver_regs (w : WaveCore) (sl : Nat) (t : TrapInfo) (r : Route) : (w.deliver sl t r).regs = w.regs := by
  obtain ⟨_, _, h⟩ := w.deliver_eq sl t r; rw [h]; rfl

/-- A trap leaves the live set. -/
theorem WaveCore.deliver_live (w : WaveCore) (sl : Nat) (t : TrapInfo) (r : Route) : (w.deliver sl t r).live = w.live := by
  obtain ⟨_, _, h⟩ := w.deliver_eq sl t r; rw [h]; rfl

/-- An event record changes memory, or waits for its ring. -/
theorem State.postEvent_eq (s : State) (o : Nat) (rec : List Byte) :
    s.postEvent o rec = { s with mem := (s.postEvent o rec).mem, heldRecs := (s.postEvent o rec).heldRecs } := by
  unfold State.postEvent
  split
  · rfl
  · split
    · rfl
    · split
      · rfl
      · simp only; split <;> rfl

/-- An event record keeps the canonical form of memory. -/
theorem State.postEvent_wf (s : State) (o : Nat) (rec : List Byte) (h : Memory.wf s.mem = true) : Memory.wf (s.postEvent o rec).mem = true := by
  unfold State.postEvent
  split
  · exact h
  · split
    · exact h
    · split
      · exact h
      · simp only
        split
        · exact Memory.wf_writeN _ _ _ _ h
        · exact Memory.wf_writeN _ _ _ _ (Memory.wf_writeBytes _ _ _ h)

/-- A hidden wave takes no exception: it ends. -/
theorem State.takeTrap_hidden {s : State} {u : Nat} {w : Wave} (h : s.wave? u = some w) (hid : w.hidden.isSome = true) (sl : Nat) (t : TrapInfo) :
    s.takeTrap u sl t = s.setWave u { w with ending := true } := by
  simp only [State.takeTrap, h, hid, if_true]

/-- Taking an exception changes the one wave, and, where an event ring is told, memory or the records that wait for their rings. -/
theorem State.takeTrap_eq {s : State} {u : Nat} {w : Wave} (h : s.wave? u = some w) (hid : w.hidden.isSome = false) (sl : Nat) (t : TrapInfo) :
    ∃ m l, s.takeTrap u sl t = { s.setWave u { w with st := w.st.deliver sl t (trapRoute w t) } with mem := m, heldRecs := l }
      ∧ (trapRoute w t = .w → m = s.mem ∧ l = s.heldRecs) ∧ (Memory.wf s.mem = true → Memory.wf m = true) := by
  unfold State.takeTrap
  simp only [h, hid, Bool.false_eq_true, if_false]
  generalize trapRoute w t = r
  cases r
  · exact ⟨s.mem, s.heldRecs, rfl, fun _ => ⟨rfl, rfl⟩, id⟩
  · exact ⟨_, _, State.postEvent_eq _ _ _, (fun e => (by cases e)), fun hm => State.postEvent_wf _ _ _ ((congrArg Memory.wf (State.setWave_mem s u _)).trans hm)⟩
  · exact ⟨_, _, State.postEvent_eq _ _ _, (fun e => (by cases e)), fun hm => State.postEvent_wf _ _ _ ((congrArg Memory.wf (State.setWave_mem s u _)).trans hm)⟩

/-- The return from an exception leaves registers, live set and trap record. -/
theorem WaveCore.resume_eq (w : WaveCore) (skip : Bool) :
    w.resume skip = { w with slices := (w.resume skip).slices, trap := none } := by
  unfold WaveCore.resume
  split
  · next h => cases w; simp only at h; subst h; rfl
  · simp only; rw [WaveCore.updSlices_eq]

/-- After the return no trap is unresolved. -/
theorem WaveCore.resume_trap (w : WaveCore) (skip : Bool) : (w.resume skip).trap = none := by rw [WaveCore.resume_eq]

/-- A wait leaves everything but the wave. -/
theorem State.block_eq {s : State} {u : Nat} {w : Wave} (h : s.wave? u = some w) (sl : Nat) (x : Wait) :
    s.block u sl x = s.setWave u { w with st := w.st.setWait sl (some x) } := by
  unfold State.block State.updWave; rw [h]

/-- A released gang moves past its instruction, now or after the trap that it has taken. -/
theorem State.release_eq {s : State} {u : Nat} {w : Wave} (h : s.wave? u = some w) (sl : Nat) (x : Wait) :
    s.release u sl x = s.setWave u (if w.st.waitsBehind sl x then { w with st := w.st.endBehind true } else w.advance sl) := by
  unfold State.release State.updWave; rw [h]

end Sys2Proof.Machine
end

