-- ==== Sys2Proof/Tests/Slice0.lean ====
section
/-! SUPPORT. Tests: ill-formed terms that `Instr.wf` refuses, words written out from the encodings of the spec, single instructions on a small
state with results worked by the spec, and for every statement a state that meets its hypotheses. -/

namespace Sys2Proof.Tests

set_option Elab.async false

open Sys2Proof Sys2Proof.Machine

/-! ### Ill-formed terms -/

theorem test_wf_operands :
    (Instr.add .zero (.v 1) (.v 2)).wf = false ∧ (Instr.add (.imm 3) (.v 1) (.v 2)).wf = false ∧ (Instr.mov .lane (.v 1)).wf = false
    ∧ (Instr.add .par1 (.v 1) (.v 2)).wf = false ∧ (Instr.add (.v 1) .par2 (.v 2)).wf = false ∧ (Instr.callr .par1).wf = false
    ∧ (Instr.ld .zero .zero 0 2 false false).wf = false ∧ (Instr.st .par2 .zero 0 2 false).wf = false ∧ (Instr.wrsr .par1 0).wf = false
    ∧ (Instr.cjoin (.imm 0)).wf = false ∧ (Instr.barSync 3 .par2).wf = false := by decide

theorem test_wf_fields :
    (Instr.bru 4 false 0).wf = false ∧ (Instr.brv ⟨true, 4, false⟩ 0).wf = false ∧ (Instr.mcall 64 .zero .zero).wf = false
    ∧ (Instr.mcall 0 .par1 .zero).wf = false ∧ (Instr.setb 0 5 .zero .zero).wf = false ∧ (Instr.cmpEq (.p 1) (.v 0) (.v 1)).wf = false
    ∧ (Instr.fcmpUn (.k 3) .zero .zero).wf = false ∧ (Instr.cvt (.v 0) (.v 1) (.imm 13)).wf = false ∧ (Instr.scan (.v 0) (.v 1) (.imm 3)).wf = false
    ∧ (Instr.scanx (.v 0) (.v 1) (.imm 0x7F)).wf = false ∧ (Instr.atomCas (.v 3) .zero 0 3).wf = false ∧ (Instr.cqPost 0 .zero 17).wf = false
    ∧ (Instr.mmaBi8 0 0 0 0 2 0 true).wf = false ∧ (Instr.mmaBi4 0 0 0 0 0 3 true).wf = false ∧ (Instr.mmaI8w 0 0 0 0 3 0 true).wf = false
    ∧ (Instr.fenceAll 5).wf = false ∧ (Instr.fenceLoads 6).wf = false ∧ (Instr.fenceStores 7).wf = false ∧ (Instr.fenceEngines 5).wf = false := by decide

theorem test_wf_accesses :
    (Instr.ld (.v 0) .zero 0 5 false false).wf = false ∧ (Instr.ld (.v 0) .zero 0 2 true false).wf = false
    ∧ (Instr.ld (.v 1) .zero 0 3 false false).wf = false ∧ (Instr.ld (.v 2) .zero 0 4 false false).wf = false
    ∧ (Instr.st (.v 3) .zero 0 3 false).wf = false ∧ (Instr.ldu (.s 6) .zero 0 4 false false).wf = false ∧ (Instr.ldu (.s 0) .zero 0 6 false false).wf = false
    ∧ (Instr.stu (.s 0) .zero 0 1 true false).wf = false ∧ (Instr.stu (.s 1) .zero 0 3 false false).wf = false ∧ (Instr.pf .zero 0 7 false).wf = false
    ∧ (Instr.ld (.v 0) .zero 0 1 true false).wf = true ∧ (Instr.ld (.v 4) .zero 0 4 false true).wf = true := by decide

/-! ### Words -/

/-- The words beside the formats (R59, R77) and words that R53 to R60 refuse. -/
theorem test_decode_worked_words :
    decodeWord 0x13441234 = .ok (.movi (.s 4) 0x1234) ∧ decodeWord 0x039FFFFB = .ok (.bru 1 true 0x7FFFB)
    ∧ decodeWord 0x90056228 = .ok (.ld (.v 5) (.a 2) 1 2 false false) ∧ decodeWord 0x90068845 = .ok (.ld (.v 6) (.imm 8) 2 1 true false)
    ∧ decodeWord 0x91056228 = .ok (.st (.v 5) (.a 2) 1 2 false) ∧ decodeWord 0x18A04647 = .ok (.setb 5 0 (.s 6) (.s 7))
    ∧ decodeWord 0xC0115245 = .ok (.mmaBi8 2 5 1 9 0 2 true) ∧ decodeWord 0xE31A3000 = .ok (.barSync 3 (.s 6))
    ∧ decodeWord 0xB0532000 = .ok (.cqPost 1 (.s 12) 16) ∧ decodeWord 0x0B000123 = .ok (.trap 0x123)
    ∧ decodeWord 0x0C030405 = .ok (.mcall 3 (.v 4) (.v 5)) ∧ decodeWord 0x04100003 = .ok (.brv ⟨false, 1, false⟩ 3)
    ∧ decodeWord 0x07004500 = .ok (.callr (.s 5)) ∧ decodeWord 0xA20A7CA8 = .ok (.atomAdd (.v 10) .zero 5 8) :=
  ⟨rfl, rfl, rfl, rfl, rfl, rfl, rfl, rfl, rfl, rfl, rfl, rfl, rfl, rfl⟩

theorem test_decode_control_flow :
    decodeWord 0x01000000 = .ok .nop
    ∧ decodeWord 0x0207FFFB = .ok (.br 0x7fffb)
    ∧ decodeWord 0x039FFFFB = .ok (.bru 1 true 0x7fffb)
    ∧ decodeWord 0x04280003 = .ok (.brv ⟨false, 2, true⟩ 0x3)
    ∧ decodeWord 0x05000000 = .ok .cnv
    ∧ decodeWord 0x06000005 = .ok (.call 0x5)
    ∧ decodeWord 0x07004800 = .ok (.callr (.s 8))
    ∧ decodeWord 0x08000000 = .ok .ret
    ∧ decodeWord 0x09000000 = .ok .exit
    ∧ decodeWord 0x0A0000F0 = .ok (.regang 0xf0)
    ∧ decodeWord 0x0BABC123 = .ok (.trap 0xabc123)
    ∧ decodeWord 0x0C3F4281 = .ok (.mcall 63 (.s 2) (.imm 1))
    ∧ decodeWord 0x0D008001 = .ok (.sleep 0x8001) :=
  ⟨rfl, rfl, rfl, rfl, rfl, rfl, rfl, rfl, rfl, rfl, rfl, rfl, rfl⟩

theorem test_decode_moves_and_system_registers :
    decodeWord 0x10DA62E0 = .ok (.modex 27 9 8 5 1 2)
    ∧ decodeWord 0x11B4E400 = .ok (.modem 11 2 3 4 1)
    ∧ decodeWord 0x12030500 = .ok (.mov (.v 3) (.v 5))
    ∧ decodeWord 0x13441234 = .ok (.movi (.s 4) 0x1234)
    ∧ decodeWord 0x14441234 = .ok (.movh (.s 4) 0x1234)
    ∧ decodeWord 0x150344FB = .ok (.sel (.v 3) (.s 4) (.imm 123))
    ∧ decodeWord 0x16036200 = .ok (.promo (.v 3) (.a 2))
    ∧ decodeWord 0x176944FB = .ok (.mkaff (.a 9) (.s 4) (.imm 123))
    ∧ decodeWord 0x18B04647 = .ok (.setb 5 4 (.s 6) (.s 7))
    ∧ decodeWord 0x19458001 = .ok (.rdsr (.s 5) 0x8001)
    ∧ decodeWord 0x1A450020 = .ok (.wrsr (.s 5) 0x20) :=
  ⟨rfl, rfl, rfl, rfl, rfl, rfl, rfl, rfl, rfl, rfl, rfl⟩

theorem test_decode_integer :
    decodeWord 0x200344FB = .ok (.add (.v 3) (.s 4) (.imm 123))
    ∧ decodeWord 0x210344FB = .ok (.sub (.v 3) (.s 4) (.imm 123))
    ∧ decodeWord 0x220344FB = .ok (.mul (.v 3) (.s 4) (.imm 123))
    ∧ decodeWord 0x230344FB = .ok (.mulh (.v 3) (.s 4) (.imm 123))
    ∧ decodeWord 0x240344FB = .ok (.mad (.v 3) (.s 4) (.imm 123))
    ∧ decodeWord 0x25030500 = .ok (.neg (.v 3) (.v 5))
    ∧ decodeWord 0x26030500 = .ok (.abs (.v 3) (.v 5))
    ∧ decodeWord 0x270344FB = .ok (.min (.v 3) (.s 4) (.imm 123))
    ∧ decodeWord 0x280344FB = .ok (.max (.v 3) (.s 4) (.imm 123))
    ∧ decodeWord 0x29030500 = .ok (.clz (.v 3) (.v 5))
    ∧ decodeWord 0x2A030500 = .ok (.popc (.v 3) (.v 5))
    ∧ decodeWord 0x2B030500 = .ok (.brev (.v 3) (.v 5)) :=
  ⟨rfl, rfl, rfl, rfl, rfl, rfl, rfl, rfl, rfl, rfl, rfl, rfl⟩

theorem test_decode_bits :
    decodeWord 0x300344FB = .ok (.and (.v 3) (.s 4) (.imm 123))
    ∧ decodeWord 0x310344FB = .ok (.or (.v 3) (.s 4) (.imm 123))
    ∧ decodeWord 0x320344FB = .ok (.xor (.v 3) (.s 4) (.imm 123))
    ∧ decodeWord 0x33030500 = .ok (.not (.v 3) (.v 5))
    ∧ decodeWord 0x340344FB = .ok (.shl (.v 3) (.s 4) (.imm 123))
    ∧ decodeWord 0x350344FB = .ok (.shr (.v 3) (.s 4) (.imm 123))
    ∧ decodeWord 0x360344FB = .ok (.sar (.v 3) (.s 4) (.imm 123))
    ∧ decodeWord 0x370344FB = .ok (.rot (.v 3) (.s 4) (.imm 123))
    ∧ decodeWord 0x380344FB = .ok (.bfx (.v 3) (.s 4) (.imm 123))
    ∧ decodeWord 0x390344FB = .ok (.bfi (.v 3) (.s 4) (.imm 123)) :=
  ⟨rfl, rfl, rfl, rfl, rfl, rfl, rfl, rfl, rfl, rfl⟩

theorem test_decode_float :
    decodeWord 0x400344FB = .ok (.fadd (.v 3) (.s 4) (.imm 123))
    ∧ decodeWord 0x410344FB = .ok (.fsub (.v 3) (.s 4) (.imm 123))
    ∧ decodeWord 0x420344FB = .ok (.fmul (.v 3) (.s 4) (.imm 123))
    ∧ decodeWord 0x430344FB = .ok (.fma (.v 3) (.s 4) (.imm 123))
    ∧ decodeWord 0x440344FB = .ok (.fmin (.v 3) (.s 4) (.imm 123))
    ∧ decodeWord 0x450344FB = .ok (.fmax (.v 3) (.s 4) (.imm 123))
    ∧ decodeWord 0x46030500 = .ok (.fabs (.v 3) (.v 5))
    ∧ decodeWord 0x47030500 = .ok (.fneg (.v 3) (.v 5)) :=
  ⟨rfl, rfl, rfl, rfl, rfl, rfl, rfl, rfl⟩

theorem test_decode_compares :
    decodeWord 0x507405C0 = .ok (.cmpEq (.p 4) (.v 5) (.imm 64))
    ∧ decodeWord 0x517405C0 = .ok (.cmpNe (.p 4) (.v 5) (.imm 64))
    ∧ decodeWord 0x527405C0 = .ok (.cmpLt (.p 4) (.v 5) (.imm 64))
    ∧ decodeWord 0x537405C0 = .ok (.cmpLe (.p 4) (.v 5) (.imm 64))
    ∧ decodeWord 0x547405C0 = .ok (.cmpGt (.p 4) (.v 5) (.imm 64))
    ∧ decodeWord 0x557405C0 = .ok (.cmpGe (.p 4) (.v 5) (.imm 64))
    ∧ decodeWord 0x587405C0 = .ok (.fcmpEq (.p 4) (.v 5) (.imm 64))
    ∧ decodeWord 0x597405C0 = .ok (.fcmpNe (.p 4) (.v 5) (.imm 64))
    ∧ decodeWord 0x5A7405C0 = .ok (.fcmpLt (.p 4) (.v 5) (.imm 64))
    ∧ decodeWord 0x5B7405C0 = .ok (.fcmpLe (.p 4) (.v 5) (.imm 64))
    ∧ decodeWord 0x5C7405C0 = .ok (.fcmpGt (.p 4) (.v 5) (.imm 64))
    ∧ decodeWord 0x5D7405C0 = .ok (.fcmpGe (.p 4) (.v 5) (.imm 64))
    ∧ decodeWord 0x5E7405C0 = .ok (.fcmpUn (.p 4) (.v 5) (.imm 64)) :=
  ⟨rfl, rfl, rfl, rfl, rfl, rfl, rfl, rfl, rfl, rfl, rfl, rfl, rfl⟩

theorem test_decode_conversions :
    decodeWord 0x60070983 = .ok (.cvt (.v 7) (.v 9) (.imm 3))
    ∧ decodeWord 0x61080A80 = .ok (.cvt8 (.v 8) (.v 10) (.imm 0))
    ∧ decodeWord 0x62030500 = .ok (.bsc (.v 3) (.v 5))
    ∧ decodeWord 0x63070983 = .ok (.bsq (.v 7) (.v 9) (.imm 3)) :=
  ⟨rfl, rfl, rfl, rfl⟩

theorem test_decode_special_functions :
    decodeWord 0x70030500 = .ok (.exp2 (.v 3) (.v 5))
    ∧ decodeWord 0x71030500 = .ok (.log2 (.v 3) (.v 5))
    ∧ decodeWord 0x72030500 = .ok (.rcp (.v 3) (.v 5))
    ∧ decodeWord 0x73030500 = .ok (.rsq (.v 3) (.v 5))
    ∧ decodeWord 0x74030500 = .ok (.sqrt (.v 3) (.v 5))
    ∧ decodeWord 0x75030500 = .ok (.sin (.v 3) (.v 5))
    ∧ decodeWord 0x76030500 = .ok (.cos (.v 3) (.v 5))
    ∧ decodeWord 0x77030500 = .ok (.tanh (.v 3) (.v 5))
    ∧ decodeWord 0x78030500 = .ok (.sigm (.v 3) (.v 5)) :=
  ⟨rfl, rfl, rfl, rfl, rfl, rfl, rfl, rfl, rfl⟩

theorem test_decode_cross_lane :
    decodeWord 0x800344FB = .ok (.shflIdx (.v 3) (.s 4) (.imm 123))
    ∧ decodeWord 0x810344FB = .ok (.shflUp (.v 3) (.s 4) (.imm 123))
    ∧ decodeWord 0x820344FB = .ok (.shflDn (.v 3) (.s 4) (.imm 123))
    ∧ decodeWord 0x830344FB = .ok (.shflXor (.v 3) (.s 4) (.imm 123))
    ∧ decodeWord 0x84797300 = .ok (.voteAny (.k 1) (.p 3))
    ∧ decodeWord 0x85797300 = .ok (.voteAll (.k 1) (.p 3))
    ∧ decodeWord 0x865F7300 = .ok (.voteBal (.s 31) (.p 3))
    ∧ decodeWord 0x875E3F00 = .ok (.redAdd (.s 30) (.v 63))
    ∧ decodeWord 0x885E3F00 = .ok (.redMin (.s 30) (.v 63))
    ∧ decodeWord 0x895E3F00 = .ok (.redMax (.s 30) (.v 63))
    ∧ decodeWord 0x8A3E3F82 = .ok (.scan (.v 62) (.v 63) (.imm 2))
    ∧ decodeWord 0x8B3E3F82 = .ok (.scanx (.v 62) (.v 63) (.imm 2))
    ∧ decodeWord 0x8C030500 = .ok (.matchKey (.v 3) (.v 5))
    ∧ decodeWord 0x8D43219F = .ok (.rdlane (.s 3) (.v 33) (.imm 31))
    ∧ decodeWord 0x8E21439F = .ok (.wrlane (.v 33) (.s 3) (.imm 31)) :=
  ⟨rfl, rfl, rfl, rfl, rfl, rfl, rfl, rfl, rfl, rfl, rfl, rfl, rfl, rfl, rfl⟩

theorem test_decode_memory :
    decodeWord 0x90068845 = .ok (.ld (.v 6) (.imm 8) 2 1 true false)
    ∧ decodeWord 0x910862F2 = .ok (.st (.v 8) (.a 2) 7 4 true)
    ∧ decodeWord 0x9244FF2E = .ok (.ldu (.s 4) (.imm 127) 1 3 false true)
    ∧ decodeWord 0x9345466A = .ok (.stu (.s 5) (.s 6) 3 2 false true)
    ∧ decodeWord 0x940005C2 = .ok (.pf (.v 5) 6 0 true) :=
  ⟨rfl, rfl, rfl, rfl, rfl⟩

theorem test_decode_async_and_atomics :
    decodeWord 0xA0097CA0 = .ok (.lda (.v 9) .zero 5)
    ∧ decodeWord 0xA1097CA0 = .ok (.sta (.v 9) .zero 5)
    ∧ decodeWord 0xA20A057F = .ok (.atomAdd (.v 10) (.v 5) 3 31)
    ∧ decodeWord 0xA30A057F = .ok (.atomMin (.v 10) (.v 5) 3 31)
    ∧ decodeWord 0xA40A057F = .ok (.atomMax (.v 10) (.v 5) 3 31)
    ∧ decodeWord 0xA50A057F = .ok (.atomAnd (.v 10) (.v 5) 3 31)
    ∧ decodeWord 0xA60A057F = .ok (.atomOr (.v 10) (.v 5) 3 31)
    ∧ decodeWord 0xA70A057F = .ok (.atomXor (.v 10) (.v 5) 3 31)
    ∧ decodeWord 0xA80A057F = .ok (.atomXchg (.v 10) (.v 5) 3 31)
    ∧ decodeWord 0xA94A447E = .ok (.atomCas (.s 10) (.s 4) 3 30)
    ∧ decodeWord 0xAA0A057F = .ok (.atomFadd (.v 10) (.v 5) 3 31)
    ∧ decodeWord 0xAB0A057F = .ok (.atomInc (.v 10) (.v 5) 3 31) :=
  ⟨rfl, rfl, rfl, rfl, rfl, rfl, rfl, rfl, rfl, rfl, rfl, rfl⟩

theorem test_decode_queues_and_handles :
    decodeWord 0xB0532000 = .ok (.cqPost 1 (.s 12) 16)
    ∧ decodeWord 0xB1440000 = .ok (.batClose (.s 4))
    ∧ decodeWord 0xB2004800 = .ok (.waitBat (.s 8))
    ∧ decodeWord 0xB3004800 = .ok (.hbFill (.s 8))
    ∧ decodeWord 0xB4004800 = .ok (.hbAcq (.s 8))
    ∧ decodeWord 0xB5004800 = .ok (.hbRel (.s 8))
    ∧ decodeWord 0xB6459F00 = .ok (.hbState (.s 5) (.imm 31))
    ∧ decodeWord 0xB7004485 = .ok (.hbCfg (.s 4) (.imm 5)) :=
  ⟨rfl, rfl, rfl, rfl, rfl, rfl, rfl, rfl⟩

theorem test_decode_matrix :
    decodeWord 0xC0115255 = .ok (.mmaBi8 2 5 1 9 1 2 true)
    ∧ decodeWord 0xC1115255 = .ok (.mmaBi4 2 5 1 9 1 2 true)
    ∧ decodeWord 0xC2115255 = .ok (.mmaI8w 2 5 1 9 1 2 true)
    ∧ decodeWord 0xC3000000 = .ok .mwait
    ∧ decodeWord 0xC4004800 = .ok (.mzero (.s 8))
    ∧ decodeWord 0xC5089F00 = .ok (.mnorm (.v 8) (.imm 31))
    ∧ decodeWord 0xC6004800 = .ok (.mwsel (.s 8))
    ∧ decodeWord 0xC7000000 = .ok .mfence
    ∧ decodeWord 0xC8000000 = .ok .btonTake
    ∧ decodeWord 0xC9000000 = .ok .btonPass :=
  ⟨rfl, rfl, rfl, rfl, rfl, rfl, rfl, rfl, rfl, rfl⟩

theorem test_decode_recursion :
    decodeWord 0xD0004485 = .ok (.recRun (.s 4) (.imm 5))
    ∧ decodeWord 0xD1440000 = .ok (.recChild (.s 4))
    ∧ decodeWord 0xD2004800 = .ok (.recRet (.s 8))
    ∧ decodeWord 0xD3790000 = .ok (.recWait (.k 1))
    ∧ decodeWord 0xD47A4C4D = .ok (.spawn (.k 2) (.s 12) (.s 13))
    ∧ decodeWord 0xD5440000 = .ok (.cjoin (.s 4)) :=
  ⟨rfl, rfl, rfl, rfl, rfl, rfl⟩

theorem test_decode_barriers_and_fences :
    decodeWord 0xE01A3000 = .ok (.barInit 3 (.s 6))
    ∧ decodeWord 0xE11A3000 = .ok (.barArrive 3 (.s 6))
    ∧ decodeWord 0xE21A3000 = .ok (.barWait 3 (.s 6))
    ∧ decodeWord 0xE31A3000 = .ok (.barSync 3 (.s 6))
    ∧ decodeWord 0xE41A3000 = .ok (.barInval 3 (.s 6))
    ∧ decodeWord 0xE5800000 = .ok (.fenceAll 4)
    ∧ decodeWord 0xE5880000 = .ok (.fenceLoads 4)
    ∧ decodeWord 0xE5900000 = .ok (.fenceStores 4)
    ∧ decodeWord 0xE5980000 = .ok (.fenceEngines 4)
    ∧ decodeWord 0xE6000000 = .ok .rgn
    ∧ decodeWord 0xE6000001 = .ok .rgnI
    ∧ decodeWord 0xE6000002 = .ok .rgnE
    ∧ decodeWord 0xE7000000 = .ok .ckpt
    ∧ decodeWord 0xE8004485 = .ok (.balBurn (.s 4) (.imm 5))
    ∧ decodeWord 0xE94B4C00 = .ok (.balShunt (.s 11) (.s 12))
    ∧ decodeWord 0xEA000000 = .ok .balStop :=
  ⟨rfl, rfl, rfl, rfl, rfl, rfl, rfl, rfl, rfl, rfl, rfl, rfl, rfl, rfl, rfl, rfl⟩

theorem test_decode_privileged :
    decodeWord 0xF0000000 = .ok .eret
    ∧ decodeWord 0xF1ABC123 = .ok (.hv 0xabc123)
    ∧ decodeWord 0xF2004485 = .ok (.mcsWr (.s 4) (.imm 5))
    ∧ decodeWord 0xF3000000 = .ok .iinv
    ∧ decodeWord 0xF4004800 = .ok (.tlbinv (.s 8)) :=
  ⟨rfl, rfl, rfl, rfl, rfl⟩

/-! ### Single instructions -/

/-- The loaded wave, whose slice 0 acts. -/
def st : State := { State.reset.loadWave with act := some (2, 0) }
/-- The same, after a change of the wave. -/
def stW (f : Wave → Wave) : State := st.updWave 2 f
/-- What the instruction of slice `sl` sees. -/
def cx (s : State) (sl : Nat) : Ctx := { s, u := 2, w := (s.wave? 2).getD default, sl }

/-- Changes every slice. -/
def onSlices (f : Slice → Slice) (w : Wave) : Wave := { w with st := w.st.updSlices (List.range 8) (fun _ x => f x) }
/-- MODE.X with a guard, a type, a rounding mode and SAT. -/
def mode (g t rm sat : Nat) : Wave → Wave :=
  onSlices (fun x => { x with modex := BitVec.ofNat 32 (g * 1024 + t * 64 + rm * 8 + sat * 4) })
/-- The guard that is always true (R62). -/
def always : Nat := 0b01110
/-- A v register, the same in every thread. -/
def setV (n : Nat) (x : Word) (w : Wave) : Wave := w.setRegs (w.st.regs.setV n (BitVec.allOnes 32) (fun _ => x))
/-- A v register by thread. -/
def setVs (n : Nat) (x : List Word) (w : Wave) : Wave := w.setRegs (w.st.regs.setV n (BitVec.allOnes 32) (fun t => x.getD t 0))
/-- An s register. -/
def setS (n : Nat) (x : Word) (w : Wave) : Wave := w.putS n x
/-- A p register. -/
def setP (n : Nat) (x : Lanes) (w : Wave) : Wave := w.putP n (BitVec.allOnes 32) x
/-- The live set, with the masks that go with it. -/
def setLive (x : Lanes) (w : Wave) : Wave :=
  { w with st := { (w.st.updSlices (List.range 8) (fun i y => { y with mask := sliceBits x i })) with live := x } }
/-- Two changes, the first first. -/
def andThen (f g : Wave → Wave) (w : Wave) : Wave := g (f w)

/-- What the wave holds after an instruction of slice 0. -/
def after {α : Type} (f : Wave → Wave) (i : Instr) (g : WaveCore → α) : Option α :=
  match exec i (stW f) with
  | .next t => (t.wave? 2).map (fun w => g w.st)
  | .fault _ => none
  | .refused _ => none
/-- A thread's v register. -/
def v (n t : Nat) (w : WaveCore) : Word := (w.regs.v.getD n (Vector.replicate 32 0)).getD t 0
/-- The v register of threads 0 to 7. -/
def v8 (n : Nat) (w : WaveCore) : List Word := (List.range 8).map (fun t => v n t w)
/-- An s register. -/
def s' (n : Nat) (w : WaveCore) : Word := w.regs.s.getD n 0
/-- Base, stride and OV of an a register. -/
def a (n : Nat) (w : WaveCore) : Word × Word × Bool := let x := w.regs.a.getD n ⟨0, 0, false⟩; (x.base, x.stride, x.ov)
/-- Code of the trap that an instruction raised. -/
def cause (w : WaveCore) : Nat := (w.trcause.extractLsb' 0 8).toNat

/-- Two v sources, and the result in v4. -/
def two (g t rm sat : Nat) (x y : Word) (i : Instr) : Option Word :=
  after (fun w => mode g t rm sat (setV 2 x (setV 3 y w))) i (v 4 0)

theorem test_nop_moves_on : after id .nop (fun w => (w.slice 0).pc) = some 0x10004 := by decide
theorem test_add_by_element :
    two always 9 0 1 0x7F01FF80 0x01010180 (.add (.v 4) (.v 2) (.v 3)) = some 0x7F020080
    ∧ two always 9 0 0 0x7F01FF80 0x01010180 (.add (.v 4) (.v 2) (.v 3)) = some 0x80020000 := by decide
theorem test_add_affine_overflow :
    after (fun w => w.putA 1 ⟨0x7FFFFFC0, 2, false⟩) (.add (.a 2) (.a 1) (.imm 32)) (a 2) = some (0x7FFFFFE0, 2, true) := by decide
theorem test_sub_unsigned_clamps :
    two always 1 0 1 3 5 (.sub (.v 4) (.v 2) (.v 3)) = some 0 ∧ two always 1 0 0 3 5 (.sub (.v 4) (.v 2) (.v 3)) = some 0xFFFFFFFE := by decide
theorem test_mul :
    two always 7 0 1 0x7FFF0003 0x00020003 (.mul (.v 4) (.v 2) (.v 3)) = some 0x7FFF0009
    ∧ two always 7 0 0 0x7FFF0003 0x00020003 (.mul (.v 4) (.v 2) (.v 3)) = some 0xFFFE0009 := by decide
theorem test_mulh :
    two always 1 0 0 0xFFFFFFFF 2 (.mulh (.v 4) (.v 2) (.v 3)) = some 1
    ∧ two always 0 0 0 0xFFFFFFFF 2 (.mulh (.v 4) (.v 2) (.v 3)) = some 0xFFFFFFFF := by decide
theorem test_mad_reads_destination :
    after (fun w => setV 4 5 (setV 2 7 w)) (.mad (.v 4) (.v 2) (.imm 0x7D)) (v 4 9) = some 0xFFFFFFF0 := by decide
theorem test_neg :
    two always 0 0 1 0x80000000 0 (.neg (.v 4) (.v 2)) = some 0x7FFFFFFF ∧ two always 1 0 0 5 0 (.neg (.v 4) (.v 2)) = some 0xFFFFFFFB := by decide
theorem test_abs :
    two always 0 0 0 0x80000000 0 (.abs (.v 4) (.v 2)) = some 0x80000000 ∧ two always 0 0 1 0x80000000 0 (.abs (.v 4) (.v 2)) = some 0x7FFFFFFF := by decide
theorem test_min_max_signedness :
    two always 0 0 0 0xFFFFFFFF 1 (.min (.v 4) (.v 2) (.v 3)) = some 0xFFFFFFFF ∧ two always 1 0 0 0xFFFFFFFF 1 (.max (.v 4) (.v 2) (.v 3)) = some 0xFFFFFFFF
    ∧ two always 10 0 0 0x01FF0280 0x02010380 (.min (.v 4) (.v 2) (.v 3)) = some 0x01010280 := by decide
theorem test_bit_counts :
    two always 0 0 0 0x00010000 0 (.clz (.v 4) (.v 2)) = some 15 ∧ two always 0 0 0 0 0 (.clz (.v 4) (.v 2)) = some 32
    ∧ two always 0 0 0 0xF0F00001 0 (.popc (.v 4) (.v 2)) = some 9 ∧ two always 0 0 0 0x0000F00D 0 (.brev (.v 4) (.v 2)) = some 0xB00F0000 := by decide
theorem test_bit_fields :
    two always 0 0 0 0x0000F3A0 0x00008304 (.bfx (.v 4) (.v 2) (.v 3)) = some 0xFFFFFFFA
    ∧ two always 0 0 0 0x0000F3A0 0x00000304 (.bfx (.v 4) (.v 2) (.v 3)) = some 0x0000000A
    ∧ after (fun w => setV 4 0x12345678 (setV 2 0xC (setS 10 0x308 w))) (.bfi (.v 4) (.v 2) (.s 10)) (v 4 31) = some 0x12345C78 := by decide
theorem test_shifts_by_width_and_more :
    two always 0 0 0 0x80000001 32 (.shl (.v 4) (.v 2) (.v 3)) = some 0 ∧ two always 0 0 0 0x80000001 33 (.sar (.v 4) (.v 2) (.v 3)) = some 0xFFFFFFFF
    ∧ two always 0 0 0 0x80000001 33 (.rot (.v 4) (.v 2) (.v 3)) = some 3 ∧ two always 0 0 0 0x80000001 31 (.shr (.v 4) (.v 2) (.v 3)) = some 1 := by decide
theorem test_shl_affine :
    after (fun w => setS 5 29 (w.putA 2 ⟨3, 1, false⟩)) (.shl (.a 3) (.a 2) (.s 5)) (a 3) = some (0x60000000, 0x20000000, true) := by decide
theorem test_logic :
    two always 0 0 0 0x0F0F 0x00FF (.xor (.v 4) (.v 2) (.v 3)) = some 0x0FF0 ∧ two always 0 0 0 0x0F0F 0 (.not (.v 4) (.v 2)) = some 0xFFFFF0F0
    ∧ two always 0 0 0 0x0F0F 0x00FF (.and (.v 4) (.v 2) (.v 3)) = some 0x000F ∧ two always 0 0 0 0x0F0F 0x00FF (.or (.v 4) (.v 2) (.v 3)) = some 0x0FFF := by decide
theorem test_moves :
    after id (.movi (.s 4) 0x8000) (s' 4) = some 0x00008000 ∧ after (setS 4 0x8000) (.movh (.s 4) 0xFFFF) (s' 4) = some 0xFFFF8000
    ∧ after id (.mov (.v 4) .lane) (v 4 7) = some 7 ∧ after id (.add .par1 (.v 0) (.v 0)) cause = some 1 := by decide
theorem test_mkaff :
    after (fun w => setS 4 0x7FFFFF00 (setS 5 16 w)) (.mkaff (.a 2) (.s 4) (.s 5)) (a 2) = some (0x7FFFFF00, 16, true) := by decide
theorem test_setb :
    after (fun w => setS 6 0x40 (setS 7 3 w)) (.setb 5 1 (.s 6) (.s 7)) (fun w => (w.regs.b.getD 5 ⟨0, 0⟩).base) = some 0x300000040 := by decide
theorem test_sel_under_guard :
    after (fun w => setP 1 1 (mode 0b00010 0 0 0 (setV 2 7 (setV 3 9 w)))) (.sel (.v 4) (.v 2) (.v 3)) (fun w => (v 4 0 w, v 4 1 w)) = some (7, 9) := by decide
theorem test_guard_keeps_destination :
    after (fun w => setP 1 2 (mode 0b00010 0 0 0 (setV 4 1 w))) (.movi (.v 4) 5) (fun w => (v 4 0 w, v 4 1 w)) = some (1, 5) := by decide

theorem test_float_fma_is_fused :
    after (fun w => mode always 3 0 0 (setV 4 0x3C01 (setV 5 0x3C01 (setV 6 0xBC02 w)))) (.fma (.v 6) (.v 4) (.v 5)) (v 6 0) = some 0x0010
    ∧ after (fun w => mode always 3 0 0 (setV 4 0x3C01 (setV 5 0x3C01 w))) (.fmul (.v 7) (.v 4) (.v 5)) (v 7 0) = some 0x3C02 := by decide
theorem test_float_add_sub :
    two always 3 0 0 0x3C02 0xBC02 (.fadd (.v 4) (.v 2) (.v 3)) = some 0 ∧ two always 3 3 0 0x3C02 0xBC02 (.fadd (.v 4) (.v 2) (.v 3)) = some 0x8000
    ∧ two always 2 0 0 0x40400000 0x3F800000 (.fsub (.v 4) (.v 2) (.v 3)) = some 0x40000000 := by decide
theorem test_float_minimum_number :
    two always 3 0 0 0x7E00 0x3C00 (.fmin (.v 4) (.v 2) (.v 3)) = some 0x3C00 ∧ two always 3 0 0 0x8000 0x0000 (.fmax (.v 4) (.v 2) (.v 3)) = some 0 := by decide
theorem test_float_sign :
    two always 2 0 0 0xBF800000 0 (.fabs (.v 4) (.v 2)) = some 0x3F800000 ∧ two always 5 0 0 0x3C00BC00 0 (.fneg (.v 4) (.v 2)) = some 0xBC003C00 := by decide
theorem test_compare_packed :
    after (fun w => mode always 9 0 0 (setV 2 0x01020304 (setV 3 0x01020305 w))) (.cmpEq (.p 0) (.v 2) (.v 3)) (fun w => w.regs.pred 0) = some 0
    ∧ after (fun w => mode always 9 0 0 (setV 2 0x01020304 (setV 3 0x01020305 w))) (.cmpNe (.p 0) (.v 2) (.v 3)) (fun w => w.regs.pred 0) = some 0 := by decide
theorem test_float_compare :
    after (fun w => mode always 3 0 0 (setV 2 0xFC00 (setV 3 0xFBFF w))) (.fcmpLt (.p 2) (.v 2) (.v 3)) (fun w => (w.regs.pred 2, w.regs.pred 3))
      = some (0xFFFFFFFF, 0)
    ∧ after (fun w => mode always 2 0 0 (setS 2 0x7FC00000 (setS 3 0x3F800000 w))) (.fcmpNe (.k 0) (.s 2) (.s 3)) (fun w => (w.regs.kpred 0, w.regs.kpred 1))
      = some (true, false) := by decide
theorem test_cvt :
    two always 0 0 1 0x4F32D05E 0 (.cvt (.v 4) (.v 2) (.imm 2)) = some 0x7FFFFFFF ∧ two always 0 0 0 0x4F32D05E 0 (.cvt (.v 4) (.v 2) (.imm 2)) = some 0xB2D05E00
    ∧ two always 0 4 0 0xC0200000 0 (.cvt (.v 4) (.v 2) (.imm 2)) = some 0xFFFFFFFD ∧ two always 3 0 0 0x477FF000 0 (.cvt (.v 4) (.v 2) (.imm 2)) = some 0x7C00 := by decide
theorem test_cvt8 :
    two always 11 0 1 0x43FA0000 0 (.cvt8 (.v 4) (.v 2) (.imm 0x7F)) = some 0x7F
    ∧ after (fun w => mode always 11 0 0 (setV 2 0xC0200000 (setS 4 127 w))) (.cvt8 (.v 4) (.v 2) (.s 4)) (v 4 0) = some 0xC2
    ∧ after (fun w => mode always 11 0 1 (setV 2 0x43FA0000 (setS 4 127 w))) (.cvt8 (.v 4) (.v 2) (.s 4)) (v 4 0) = some 0x7E := by decide
theorem test_block_scale :
    after (fun w => mode always 9 0 0 (setVs 2 (0x40400000 :: 0xBF333333 :: List.replicate 30 0x3F000000) w)) (.bsc (.s 9) (.v 2)) (s' 9) = some 0x80
    ∧ after (fun w => mode always 9 0 0 (setVs 2 (0x40400000 :: 0xBF333333 :: List.replicate 30 0x3F000000) (setS 9 0x80 w))) (.bsq (.v 4) (.v 2) (.s 9))
      (fun w => [v 4 0 w, v 4 1 w, v 4 31 w]) = some [0x60, 0xEA, 0x10] := by decide +kernel
theorem test_sqrt_rounds :
    two always 2 0 0 0x40000000 0 (.sqrt (.v 4) (.v 2)) = some 0x3FB504F3 ∧ two always 2 2 0 0x40000000 0 (.sqrt (.v 4) (.v 2)) = some 0x3FB504F4 := by decide +kernel
theorem test_special_inputs :
    two always 2 0 0 0xFF800000 0 (.exp2 (.v 4) (.v 2)) = some 0 ∧ two always 2 0 0 0x40400000 0 (.exp2 (.v 4) (.v 2)) = some 0x41000000
    ∧ two always 2 0 0 0x3F800000 0 (.log2 (.v 4) (.v 2)) = some 0 ∧ two always 2 0 0 0x80000000 0 (.rcp (.v 4) (.v 2)) = some 0xFF800000
    ∧ two always 2 0 0 0x7F800000 0 (.rsq (.v 4) (.v 2)) = some 0 ∧ two always 2 0 0 0x80000000 0 (.sin (.v 4) (.v 2)) = some 0x80000000
    ∧ two always 2 0 0 0 0 (.cos (.v 4) (.v 2)) = some 0x3F800000 ∧ two always 2 0 0 0xFF800000 0 (.tanh (.v 4) (.v 2)) = some 0xBF800000
    ∧ two always 2 0 0 0 0 (.sigm (.v 4) (.v 2)) = some 0x3F000000 := by decide +kernel
/-- Threads 0 to 7 with v4 = 10t. -/
def tens (w : Wave) : Wave := setLive 0xFF (setVs 4 ((List.range 8).map (fun t => BitVec.ofNat 32 (10 * t))) w)
theorem test_shuffles :
    after tens (.shflUp (.v 5) (.v 4) (.imm 1)) (v8 5) = some [0, 0, 10, 20, 30, 40, 50, 60]
    ∧ after tens (.shflDn (.v 5) (.v 4) (.imm 3)) (v8 5) = some [30, 40, 50, 60, 70, 50, 60, 70]
    ∧ after tens (.shflXor (.v 5) (.v 4) (.imm 2)) (v8 5) = some [20, 30, 0, 10, 60, 70, 40, 50]
    ∧ after tens (.shflIdx (.v 5) (.v 4) (.imm 35)) (v8 5) = some [30, 30, 30, 30, 30, 30, 30, 30] := by decide
theorem test_scans :
    let f (w : Wave) := setP 1 0xFB (mode 0b00010 0 0 0 (setLive 0xFF (setVs 2 [3, 1, 9, 1, 5, 9, 2, 6] w)))
    after f (.scan (.v 3) (.v 2) (.imm 0)) (v8 3) = some [3, 4, 0, 5, 10, 19, 21, 27]
    ∧ after f (.scanx (.v 4) (.v 2) (.imm 0)) (v8 4) = some [0, 3, 0, 4, 5, 10, 19, 21] := by decide
theorem test_reductions :
    after (fun w => setP 1 0xF (mode 0b00010 3 0 0 (setVs 2 [0x6800, 0x3C00, 0x3C00, 0x3C00] w))) (.redAdd (.s 6) (.v 2)) (s' 6) = some 0x6801
    ∧ after (fun w => setVs 2 [3, 0xFFFFFFFF, 9] w) (.redMin (.s 6) (.v 2)) (s' 6) = some 0xFFFFFFFF
    ∧ after (fun w => setVs 2 [3, 0xFFFFFFFF, 9] w) (.redMax (.s 6) (.v 2)) (s' 6) = some 9 := by decide
theorem test_match :
    let f (g t : Nat) (w : Wave) := setP 1 7 (mode g t 0 0 (setLive 0xF (setVs 2 [0, 0x8000, 0x7E00, 0x7E55] w)))
    after (f always 3) (.matchKey (.v 3) (.v 2)) (fun w => (v8 3 w).take 4) = some [3, 3, 0xC, 0xC]
    ∧ after (f always 0) (.matchKey (.v 3) (.v 2)) (fun w => (v8 3 w).take 4) = some [1, 2, 4, 8]
    ∧ after (f 0b00010 3) (.matchKey (.v 3) (.v 2)) (fun w => (v8 3 w).take 4) = some [3, 3, 4, 0] := by decide
theorem test_votes :
    after (setP 1 0x10) (.voteAny (.k 1) (.p 1)) (fun w => w.regs.kpred 1) = some true ∧ after (setP 1 0x10) (.voteAll (.k 1) (.p 1)) (fun w => w.regs.kpred 1) = some false
    ∧ after (setP 1 0x10) (.voteBal (.s 3) (.p 1)) (s' 3) = some 0x10 := by decide
theorem test_one_lane :
    after tens (.rdlane (.s 3) (.v 4) (.imm 37)) (s' 3) = some 50
    ∧ after tens (.wrlane (.v 4) (.imm 3) (.imm 37)) (v8 4) = some [0, 10, 20, 30, 40, 3, 60, 70] := by decide
theorem test_calls :
    after (setS 5 0x40) (.callr (.s 5)) (fun w => ((w.slice 3).pc, (w.slice 3).stack)) = some (0x10040, [⟨0x10004, 0xF, true⟩])
    ∧ after id (.call 0x7FFFF) (fun w => (w.slice 3).pc) = some 0xFFFC ∧ after (setS 5 2) (.callr (.s 5)) cause = some 0x12
    ∧ after id .ret cause = some 8 := by decide
/-- Threads 0 to 15, where thread 1 alone has p3. -/
def half (w : Wave) : Wave := setP 3 2 (setLive 0xFFFF w)
theorem test_brv :
    after half (.brv ⟨false, 3, true⟩ 5) (fun w => ((w.slice 0).pc, (w.slice 0).mask, (w.slice 0).stack, (w.slice 1).stack, (w.slice 3).gang))
      = some (0x10014, 0b1101, [⟨0x10004, 0b0010, false⟩], [⟨0x10004, 0, false⟩], 0) := by decide
theorem test_cnv :
    after (onSlices (fun x => { x with mask := 0b1101, stack := [⟨0x20000, 0b0010, false⟩] })) .cnv
      (fun w => ((w.slice 0).pc, (w.slice 0).mask, (w.slice 0).stack)) = some (0x20000, 0b0010, [⟨0x10004, 0b1111, true⟩]) := by decide
theorem test_bru_and_br :
    after (fun w => w.putK 1 false) (.bru 1 true 0x7FFFB) (fun w => (w.slice 0).pc) = some 0xFFEC ∧ after id (.br 2) (fun w => (w.slice 7).pc) = some 0x10008 := by decide
theorem test_exit_and_regang :
    after (onSlices (fun x => { x with mask := 3 })) .exit (fun w => w.live) = some 0xCCCCCCCC
    ∧ after id (.regang 0xFF) (fun w => ((w.slice 5).pc, (w.slice 5).gang)) = some (0x10004, 0) := by decide
theorem test_trap_record :
    after id (.trap 0x123) (fun w => (cause w, w.trpc, w.trfalo, w.trmask)) = some (0x50, 4, 0x123, 0xFFFFFFFF)
    ∧ after id (.add (.p 0) (.v 0) (.v 1)) (fun w => (cause w, w.trpc)) = some (2, 0) ∧ after id (.add (.imm 0) (.v 0) (.v 1)) cause = some 1
    ∧ after id .eret cause = some 0x60 ∧ after id (.mcsWr (.s 0) (.s 1)) cause = some 0x60 := by decide
theorem test_mode_writes :
    after id (.modex 0b10001 9 3 0 0 2) (fun w => (w.slice 4).modex) = some 0x2402 ∧ after id (.modem 0b0100 0 3 0 0) (fun w => (w.slice 4).modem) = some 0xB0 := by decide
theorem test_sleep : after id (.sleep 5) (fun w => ((w.slice 2).sleep, (w.slice 2).pc)) = some (5, 0x10004) := by decide
theorem test_rdsr : after id (.rdsr (.s 3) 2) (s' 3) = some 0x3800 ∧ after id (.rdsr (.v 3) 2) cause = some 2 := by decide
theorem test_uniform_write_needs_the_live_set : after (onSlices (fun x => { x with mask := 3 })) (.movi (.s 20) 5) (fun w => (s' 20 w, cause w)) = some (0, 3)
    ∧ after (fun w => { w with st := w.st.updSlices [0] (fun _ x => { x with mask := 3 }) }) (.movi (.s 3) 5) cause = some 3 := by decide

/-! ### States that meet the hypotheses of the statements -/

theorem issues_cx {s : State} {sl : Nat} (h : (s.wave? 2).isSome = true) (ha : s.act = some (2, sl)) : Issues s (cx s sl) := by
  refine ⟨rfl, ha, ?_⟩
  show s.wave? 2 = some ((s.wave? 2).getD default)
  cases hw : s.wave? 2 with
  | none => simp [hw] at h
  | some w => rfl

/-- `Ctx.Full`, computed. -/
def fullB (c : Ctx) (ops : List Operand) : Bool := ops.all (fun o => (dstOf o).all (fun r => !c.r.empty r))
theorem full_of {c : Ctx} {ops : List Operand} (h : fullB c ops = true) : c.Full ops := by
  intro o ho r hr
  simp only [fullB, List.all_eq_true] at h
  simpa [hr] using h o ho

/-- `Ctx.Allocated`, computed. -/
def allocatedB (c : Ctx) (ops : List Operand) : Bool := ops.all (fun o => match o with
  | .v n => decide (n.val < c.w.valloc)
  | .s _ | .a _ | .p _ | .k _ | .zero | .lane | .par1 | .par2 | .imm _ => true)
theorem allocated_of {c : Ctx} {ops : List Operand} (h : allocatedB c ops = true) : c.Allocated ops := by
  intro n hn
  simp only [allocatedB, List.all_eq_true] at h
  simpa using h _ hn

/-- `Ctx.Allowed`, computed. -/
def allowedB (c : Ctx) (i : Instr) (uniform : Bool) (ops : List Operand) : Bool :=
  i.wf && (c.w.tp.isNone || (uniform && ops.all (fun o => clsOf o = .uni || clsOf o = .upred)))
theorem allowed_of {c : Ctx} {i : Instr} {uniform : Bool} {ops : List Operand} (h : allowedB c i uniform ops = true) : c.Allowed i uniform ops := by
  simpa [allowedB, Ctx.Allowed] using h

/-- `Ready`, computed. -/
def readyB (c : Ctx) (i : Instr) (uniform : Bool) (d : Operand) (srcs : List Operand) : Bool :=
  allowedB c i uniform (d :: srcs) && !guardReserved c.mx && allocatedB c (d :: srcs) &&
    (decide (clsOf d = .vary) || decide (clsOf d = .vpred) || (!guardIsP c.mx && decide (c.act = c.live))) && fullB c (d :: srcs)
theorem ready_of {c : Ctx} {i : Instr} {uniform : Bool} {d : Operand} {srcs : List Operand} (h : readyB c i uniform d srcs = true) :
    Ready c i uniform d srcs := by
  simp only [readyB, Bool.and_eq_true, Bool.or_eq_true, Bool.not_eq_true', decide_eq_true_eq] at h
  obtain ⟨⟨⟨⟨h1, h2⟩, h3⟩, h4⟩, h5⟩ := h
  refine ⟨allowed_of h1, h2, allocated_of h3, fun ha hb => ?_, fun _ => full_of h5⟩
  rcases h4 with (h4 | h4) | h4
  · exact absurd h4 ha
  · exact absurd h4 hb
  · exact h4

/-- `Gathers`, computed. -/
def gathersB (c : Ctx) (i : Instr) (ops : List Operand) : Bool :=
  allowedB c i false ops && !guardReserved c.mx && allocatedB c ops && c.w.st.fullMember c.sl && (!guardIsK c.mx || c.kOn) && fullB c ops
theorem gathers_of {c : Ctx} {i : Instr} {ops : List Operand} (h : gathersB c i ops = true) : Gathers c i ops := by
  simp only [gathersB, Bool.and_eq_true, Bool.or_eq_true, Bool.not_eq_true'] at h
  obtain ⟨⟨⟨⟨⟨h1, h2⟩, h3⟩, h4⟩, h5⟩, h6⟩ := h
  refine ⟨allowed_of h1, h2, allocated_of h3, h4, fun hk => ?_, full_of h6⟩
  rcases h5 with h5 | h5
  · rw [h5] at hk; cases hk
  · exact h5

/-- Every instruction of a list, with the operands that it names, is ready. -/
def allReady (c : Ctx) (uniform : Bool) (l : List (Instr × Operand × List Operand)) : Bool := l.all (fun e => readyB c e.1 uniform e.2.1 e.2.2)
theorem ready_all {c : Ctx} {uniform : Bool} {l : List (Instr × Operand × List Operand)} (h : allReady c uniform l = true) :
    ∀ e ∈ l, Ready c e.1 uniform e.2.1 e.2.2 := by
  simp only [allReady, List.all_eq_true] at h
  exact fun e he => ready_of (h e he)

theorem varyingOrUniform_of {d : Operand} {srcs : List Operand}
    (h : (decide (clsOf d = .vary) && srcs.all (fun o => decide (clsOf o = .vary) || decide (clsOf o = .uni)) ||
      isS d && srcs.all (fun o => decide (clsOf o = .uni))) = true) : VaryingOrUniform d srcs := by
  simpa [VaryingOrUniform] using h

/-- The context of the loaded wave. -/
def c0 : Ctx := cx st 0

theorem issues_c0 : Issues st c0 := issues_cx rfl rfl

/-- A context of the loaded wave after a change. -/
abbrev cW (f : Wave → Wave) : Ctx := cx (stW f) 0

theorem witness_IntegerArithmeticByElement :
    Issues st c0 ∧ IntType (modeT c0.mx) 32 true ∧ Issues (stW (mode always 10 0 1)) (cW (mode always 10 0 1)) ∧
    IntType (modeT (cW (mode always 10 0 1)).mx) 8 false ∧
    ∀ c ∈ [c0, cW (mode always 10 0 1)], ∀ d ∈ [(Operand.v 63, Operand.v 0, Operand.s 31), (.s 0, .imm 0x40, .zero)],
      VaryingOrUniform d.1 [d.2.1, d.2.2, d.1] ∧
      ∀ e ∈ [(Instr.add d.1 d.2.1 d.2.2, d.1, [d.2.1, d.2.2]), (.sub d.1 d.2.1 d.2.2, d.1, [d.2.1, d.2.2]), (.mul d.1 d.2.1 d.2.2, d.1, [d.2.1, d.2.2]),
        (.mulh d.1 d.2.1 d.2.2, d.1, [d.2.1, d.2.2]), (.mad d.1 d.2.1 d.2.2, d.1, [d.2.1, d.2.2, d.1]), (.neg d.1 d.2.1, d.1, [d.2.1]),
        (.abs d.1 d.2.1, d.1, [d.2.1]), (.min d.1 d.2.1 d.2.2, d.1, [d.2.1, d.2.2]), (.max d.1 d.2.1 d.2.2, d.1, [d.2.1, d.2.2])],
        Ready c e.1 true e.2.1 e.2.2 :=
  ⟨issues_c0, by unfold IntType; decide, issues_cx rfl rfl, by unfold IntType; decide, fun c hc d hd =>
    ⟨varyingOrUniform_of (by revert d; decide), ready_all (by revert d; revert c; decide +kernel)⟩⟩

theorem witness_BitInstructionsOnThirtyTwoBits :
    Issues st c0 ∧ ∀ d ∈ [(Operand.v 63, Operand.v 0, Operand.imm 0x7F), (.s 31, .s 0, .zero)], VaryingOrUniform d.1 [d.2.1, d.2.2] ∧
      ∀ e ∈ [(Instr.and d.1 d.2.1 d.2.2, d.1, [d.2.1, d.2.2]), (.or d.1 d.2.1 d.2.2, d.1, [d.2.1, d.2.2]), (.xor d.1 d.2.1 d.2.2, d.1, [d.2.1, d.2.2]),
        (.not d.1 d.2.1, d.1, [d.2.1]), (.shl d.1 d.2.1 d.2.2, d.1, [d.2.1, d.2.2]), (.shr d.1 d.2.1 d.2.2, d.1, [d.2.1, d.2.2]),
        (.sar d.1 d.2.1 d.2.2, d.1, [d.2.1, d.2.2]), (.rot d.1 d.2.1 d.2.2, d.1, [d.2.1, d.2.2]), (.brev d.1 d.2.1, d.1, [d.2.1])],
        Ready c0 e.1 true e.2.1 e.2.2 :=
  ⟨issues_c0, fun d hd => ⟨varyingOrUniform_of (by revert d; decide), ready_all (by revert d; decide +kernel)⟩⟩

/-- Fields that end at bit 31 and past it, in both classes. -/
theorem witness_BitFieldsAndCounts :
    Issues st c0 ∧ ∀ d ∈ [(Operand.v 0, Operand.v 0, Operand.imm 31), (.s 31, .s 0, .imm 0x40)], VaryingOrUniform d.1 [d.2.1, d.2.2, d.1] ∧
      ∀ e ∈ [(Instr.clz d.1 d.2.1, d.1, [d.2.1]), (.popc d.1 d.2.1, d.1, [d.2.1]), (.bfx d.1 d.2.1 d.2.2, d.1, [d.2.1, d.2.2]),
        (.bfi d.1 d.2.1 d.2.2, d.1, [d.2.1, d.2.2, d.1])], Ready c0 e.1 true e.2.1 e.2.2 :=
  ⟨issues_c0, fun d hd => ⟨varyingOrUniform_of (by revert d; decide), ready_all (by revert d; decide +kernel)⟩⟩

theorem witness_MovesAndSelection :
    Issues st c0 ∧ (∀ d ∈ [(Operand.v 5, Operand.s 1), (.s 5, .imm 3)], VaryingOrUniform d.1 [d.2, d.1] ∧
      ∀ e ∈ [(Instr.mov d.1 d.2, d.1, [d.2]), (.movi d.1 0xFFFF, d.1, []), (.movh d.1 0x8000, d.1, [d.1])], Ready c0 e.1 true e.2.1 e.2.2) ∧
    c0.Allowed (.sel (.v 3) (.v 1) .zero) true [.v 3, .v 1, .zero] ∧ c0.Allowed (.sel (.s 3) (.s 1) .zero) true [.s 3, .s 1, .zero] ∧
    guardReserved c0.mx = false ∧ guardIsP c0.mx = false ∧ c0.act = c0.live ∧ c0.Allocated [.v 3, .v 1, .zero] ∧ c0.Full [.v 3, .v 1, .zero, .s 3, .s 1] :=
  ⟨issues_c0, fun d hd => ⟨varyingOrUniform_of (by revert d; decide), ready_all (by revert d; decide +kernel)⟩, allowed_of rfl, allowed_of rfl,
    by decide, by decide, by decide, allocated_of rfl, full_of rfl⟩

/-- a1 with OV, MODE.AOT = 1. -/
def ovW : Wave → Wave := fun w => onSlices (fun x => { x with modem := 0x91 }) (w.putA 1 ⟨0x7FFFFFC0, 2, true⟩)
theorem witness_AffineRegisters :
    Issues st c0 ∧ Issues (stW ovW) (cW ovW) ∧
    (∀ c ∈ [c0, cW ovW], ∀ i ∈ [Instr.mov (.v 63) (.a 1), .promo (.v 63) (.a 1)], c.Allowed i false [.v 63, .a 1]) ∧
    guardReserved (cW ovW).mx = false ∧ 63 < (cW ovW).w.valloc ∧ (cW ovW).hit ≠ 0 ∧ modeAOT (cW ovW).mm = true ∧ (cW ovW).r.a[1].ov = true ∧
    guardReserved c0.mx = false ∧ 63 < c0.w.valloc ∧ c0.hit ≠ 0 ∧ modeAOT c0.mm = false ∧ c0.r.vEmpty.getLsbD 63 = false ∧
    ∀ e ∈ [(Instr.add (.a 15) (.a 1) .lane, Operand.a 15, [.a 1, .lane]), (.sub (.a 15) .zero (.s 3), .a 15, [.zero, .s 3]), (.neg (.a 15) (.a 0), .a 15, [.a 0]),
      (.mul (.a 15) (.a 0) (.s 1), .a 15, [.a 0, .s 1]), (.mul (.a 15) (.s 1) .lane, .a 15, [.s 1, .lane]), (.mov (.a 15) (.s 1), .a 15, [.s 1]),
      (.shl (.a 15) (.a 0) (.imm 31), .a 15, [.a 0, .imm 31]), (.mkaff (.a 15) (.s 0) (.s 1), .a 15, [.s 0, .s 1])], Ready c0 e.1 false e.2.1 e.2.2 :=
  ⟨issues_c0, issues_cx rfl rfl, fun c hc i hi => allowed_of (by revert i; revert c; decide +kernel), by decide, by decide, by decide, by decide, by decide,
    by decide, by decide, by decide, by decide, by decide, ready_all (by decide +kernel)⟩

theorem witness_PredicatesAndBases :
    Issues st c0 ∧ (∀ d ∈ [(Operand.p 6, Operand.p 7, Operand.k 3), (.p 7, .p 0, .k 0), (.k 2, .k 3, .k 0)],
      (∀ o ∈ [d.2.1, d.2.2], isPred o = true) ∧
      ∀ e ∈ [(Instr.and d.1 d.2.1 d.2.2, d.1, [d.2.1, d.2.2]), (.or d.1 d.2.1 d.2.2, d.1, [d.2.1, d.2.2]), (.xor d.1 d.2.1 d.2.2, d.1, [d.2.1, d.2.2]),
        (.not d.1 d.2.1, d.1, [d.2.1]), (.mov d.1 d.2.1, d.1, [d.2.1])], Ready c0 e.1 true e.2.1 e.2.2) ∧
    c0.Allowed (.setb 7 4 (.s 3) (.imm 0x7F)) true [.s 3, .imm 0x7F] ∧ guardReserved c0.mx = false ∧ guardIsP c0.mx = false ∧ c0.act = c0.live ∧
    c0.Full [.s 3, .imm 0x7F] :=
  ⟨issues_c0, fun d hd => ⟨by revert d; decide, ready_all (by revert d; decide +kernel)⟩, allowed_of rfl, by decide, by decide, by decide, full_of rfl⟩

theorem witness_Compares :
    Issues st c0 ∧ IntType (modeT c0.mx) 32 true ∧ Issues (stW (mode always 5 0 0)) (cW (mode always 5 0 0)) ∧
    floatType (modeT (cW (mode always 5 0 0)).mx) = some (f16, 16, 2) ∧
    (∀ d ∈ [(Operand.p 6, Operand.v 0, Operand.s 31), (.k 0, .s 1, .zero)],
      ∀ e ∈ [(Instr.cmpEq d.1 d.2.1 d.2.2, d.1, [d.2.1, d.2.2]), (.cmpNe d.1 d.2.1 d.2.2, d.1, [d.2.1, d.2.2]), (.cmpLt d.1 d.2.1 d.2.2, d.1, [d.2.1, d.2.2]),
        (.cmpLe d.1 d.2.1 d.2.2, d.1, [d.2.1, d.2.2]), (.cmpGt d.1 d.2.1 d.2.2, d.1, [d.2.1, d.2.2]), (.cmpGe d.1 d.2.1 d.2.2, d.1, [d.2.1, d.2.2])],
        Ready c0 e.1 true e.2.1 e.2.2) ∧
    (∀ d ∈ [(Operand.p 6, Operand.v 0, Operand.s 31), (.k 2, .s 1, .zero)],
      ∀ e ∈ [(Instr.fcmpEq d.1 d.2.1 d.2.2, d.1, [d.2.1, d.2.2]), (.fcmpNe d.1 d.2.1 d.2.2, d.1, [d.2.1, d.2.2]), (.fcmpLt d.1 d.2.1 d.2.2, d.1, [d.2.1, d.2.2]),
        (.fcmpLe d.1 d.2.1 d.2.2, d.1, [d.2.1, d.2.2]), (.fcmpGt d.1 d.2.1 d.2.2, d.1, [d.2.1, d.2.2]), (.fcmpGe d.1 d.2.1 d.2.2, d.1, [d.2.1, d.2.2]),
        (.fcmpUn d.1 d.2.1 d.2.2, d.1, [d.2.1, d.2.2])],
        Ready (cW (mode always 5 0 0)) e.1 true e.2.1 e.2.2) :=
  ⟨issues_c0, by unfold IntType; decide, issues_cx rfl rfl, by decide, fun d hd => ready_all (by revert d; decide +kernel),
    fun d hd => ready_all (by revert d; decide +kernel)⟩

theorem witness_ResultFrames : Issues st c0 ∧ c0.w.st.slices = c0.w.st.slices ∧ c0.sl ∈ c0.w.st.gangOf c0.sl ∧ (c0.w.st.slice c0.sl).mac = none :=
  ⟨issues_c0, rfl, by decide, by decide⟩

theorem witness_FloatInstructions :
    ∀ y ∈ [(2, 5, f32, 32, 1), (6, 0, bf16, 16, 2)], Issues (stW (mode always y.1 y.2.1 0)) (cW (mode always y.1 y.2.1 0)) ∧
      floatType (modeT (cW (mode always y.1 y.2.1 0)).mx) = some y.2.2 ∧ modeRM (cW (mode always y.1 y.2.1 0)).mx ≤ 5 ∧
      ∀ d ∈ [(Operand.v 63, Operand.v 0, Operand.s 31), (.s 0, .imm 0x40, .zero)], VaryingOrUniform d.1 [d.2.1, d.2.2, d.1] ∧
        ∀ e ∈ [(Instr.fadd d.1 d.2.1 d.2.2, d.1, [d.2.1, d.2.2]), (.fsub d.1 d.2.1 d.2.2, d.1, [d.2.1, d.2.2]), (.fmul d.1 d.2.1 d.2.2, d.1, [d.2.1, d.2.2]),
          (.fma d.1 d.2.1 d.2.2, d.1, [d.2.1, d.2.2, d.1]), (.fmin d.1 d.2.1 d.2.2, d.1, [d.2.1, d.2.2]), (.fmax d.1 d.2.1 d.2.2, d.1, [d.2.1, d.2.2]),
          (.fabs d.1 d.2.1, d.1, [d.2.1]), (.fneg d.1 d.2.1, d.1, [d.2.1])], Ready (cW (mode always y.1 y.2.1 0)) e.1 true e.2.1 e.2.2 :=
  fun y hy => ⟨issues_cx (by revert y; decide +kernel) rfl, by revert y; decide +kernel, by revert y; decide +kernel, fun d hd =>
    ⟨varyingOrUniform_of (by revert d; decide), ready_all (by revert d; revert y; decide +kernel)⟩⟩

/-- `cvt` of each kind of pair of types, and the values of codes that its clauses tell apart. -/
theorem witness_EachConversion :
    ∀ y ∈ [(7, 6), (6, 6), (2, 0), (1, 0), (12, 11), (9, 10)], ∃ n m cnt, typeShape y.2 = some (n, cnt) ∧ typeShape y.1 = some (m, cnt) ∧
      Issues (stW (mode always y.1 5 0)) (cW (mode always y.1 5 0)) ∧ modeT (cW (mode always y.1 5 0)).mx = y.1 ∧
      (∀ d ∈ [(Operand.v 63, Operand.v 0), (.s 0, .s 31)],
        Ready (cW (mode always y.1 5 0)) (.cvt d.1 d.2 (.imm (BitVec.ofNat 7 y.2))) true d.1 [d.2] ∧ VaryingOrUniform d.1 [d.2]) ∧
      [floatVal 6 0x7FC0, floatVal 6 0xFF80, floatVal 2 0xC0200000, floatVal 11 0x7F, floatVal 12 0x7C] =
        [.nan, .inf true, .fin true 0xA00000 (-22), .nan, .inf false] ∧
      ((f32.val 0x40400000).over 130 6) = .fin false 0xC00000 (-19) := by
  intro y hy
  refine ⟨((typeShape y.2).getD (0, 0)).1, ((typeShape y.1).getD (0, 0)).1, ((typeShape y.1).getD (0, 0)).2, by revert y; decide, by revert y; decide,
    issues_cx (by revert y; decide +kernel) rfl, by revert y; decide +kernel, fun d hd => ⟨ready_of ?_, varyingOrUniform_of (by revert d; decide)⟩, by decide, by decide⟩
  revert d; revert y; decide +kernel

/-- `cvt` between packed types, `cvt8` under e5m2, `bsq` and `bsc` under u8x4; `bsc` under a false k guard and with a thread missing. -/
def bscOff : Wave → Wave := fun w => mode 0b10000 10 0 0 (w.putK 0 false)
/-- One thread short. -/
def bscShort : Wave → Wave := fun w => mode always 9 0 0 (setLive 0x7FFFFFFF w)
theorem witness_ConversionsAndScales :
    (∀ y ∈ [7, 10, 12], Issues (stW (mode always y 5 1)) (cW (mode always y 5 1)) ∧ modeRM (cW (mode always y 5 1)).mx ≤ 5) ∧
    typeShape 6 = some (16, 2) ∧ typeShape (modeT (cW (mode always 7 5 1)).mx) = some (16, 2) ∧
    Ready (cW (mode always 7 5 1)) (.cvt (.v 63) (.v 0) (.imm 6)) true (.v 63) [.v 0] ∧ Ready (cW (mode always 7 5 1)) (.cvt (.s 0) (.s 31) (.imm 6)) true (.s 0) [.s 31] ∧
    VaryingOrUniform (.v 63) [.v 0] ∧ VaryingOrUniform (.s 0) [.s 31] ∧
    modeT (cW (mode always 12 5 1)).mx = 12 ∧ Ready (cW (mode always 12 5 1)) (.cvt8 (.v 1) (.v 2) (.imm 0x7F)) false (.v 1) [.v 2, .imm 0x7F] ∧
    modeT (cW (mode always 10 5 1)).mx = 10 ∧ Ready (cW (mode always 10 5 1)) (.bsq (.v 1) (.v 2) (.s 3)) false (.v 1) [.v 2, .s 3] ∧
    (∀ f ∈ [mode always 10 5 1, bscOff, bscShort], Issues (stW f) (cW f) ∧ modeT (cW f).mx ∈ [9, 10, 11, 12] ∧
      (cW f).Allowed (.bsc (.s 31) (.v 63)) false [.s 31, .v 63] ∧ guardReserved (cW f).mx = false ∧ 63 < (cW f).w.valloc) ∧
    (∀ f ∈ [mode always 10 5 1, bscOff], (cW f).w.st.fullMember 0 = true ∧ (cW f).w.st.live = BitVec.allOnes 32) ∧
    guardIsK (cW bscOff).mx = true ∧ (cW bscOff).kOn = false ∧ guardIsK (cW (mode always 10 5 1)).mx = false ∧ (cW (mode always 10 5 1)).Full [.s 31, .v 63] ∧
    (cW bscShort).w.st.live ≠ BitVec.allOnes 32 :=
  ⟨fun y hy => ⟨issues_cx (by revert y; decide +kernel) rfl, by revert y; decide +kernel⟩, rfl, rfl, ready_of rfl, ready_of rfl,
    varyingOrUniform_of rfl, varyingOrUniform_of rfl, rfl, ready_of rfl, rfl, ready_of rfl,
    fun f hf => by
      simp only [List.mem_cons, List.not_mem_nil, or_false] at hf
      rcases hf with rfl | rfl | rfl
      all_goals exact ⟨issues_cx rfl rfl, by decide +kernel, allowed_of rfl, by decide +kernel, by decide +kernel⟩,
    fun f hf => by
      simp only [List.mem_cons, List.not_mem_nil, or_false] at hf
      rcases hf with rfl | rfl
      all_goals exact ⟨by decide +kernel, by decide +kernel⟩,
    by decide +kernel, by decide +kernel, by decide +kernel, full_of rfl, by decide +kernel⟩

theorem witness_SpecialFunctions :
    Issues (stW (mode always 2 5 0)) (cW (mode always 2 5 0)) ∧ floatType (modeT (cW (mode always 2 5 0)).mx) = some (f32, 32, 1) ∧
    modeRM (cW (mode always 2 5 0)).mx ≤ 5 ∧ ∀ d ∈ [(Operand.v 63, Operand.v 0), (.s 0, .imm 0x40)], VaryingOrUniform d.1 [d.2] ∧
      ∀ e ∈ [(Instr.exp2 d.1 d.2, d.1, [d.2]), (.log2 d.1 d.2, d.1, [d.2]), (.rcp d.1 d.2, d.1, [d.2]), (.rsq d.1 d.2, d.1, [d.2]), (.sin d.1 d.2, d.1, [d.2]),
        (.cos d.1 d.2, d.1, [d.2]), (.tanh d.1 d.2, d.1, [d.2]), (.sigm d.1 d.2, d.1, [d.2]), (.sqrt d.1 d.2, d.1, [d.2])],
        Ready (cW (mode always 2 5 0)) e.1 true e.2.1 e.2.2 :=
  ⟨issues_cx rfl rfl, rfl, by decide, fun d hd => ⟨varyingOrUniform_of (by revert d; decide), ready_all (by revert d; decide +kernel)⟩⟩

/-- Codes of every row of the table of special functions, with an integer and a power of two. -/
theorem witness_SpecialRows :
    [0x7FC00000, 0xFF800000, 0x7F800000, 0x80000000, 0, 0xC0400000, 0x41000000].map (fun x => f32.val x) =
      [.nan, .inf true, .inf false, .fin true 0 (-149), .fin false 0 (-149), .fin true 0xC00000 (-22), .fin false 0x800000 (-20)] ∧
    ((-22 : Int) + 1000).toNat + 22 = 1000 ∧ f32.val 0x41000000 = .fin false (2 ^ 23) (-20) ∧ (∀ n, (3 * 2 ^ 22) * 2 ^ n = 3 * 2 ^ (22 + n)) ∧ (0xC00000 : Nat) = 3 * 2 ^ 22 ∧ (0x800000 : Nat) = 2 ^ 23 ∧
    f32.emin ≤ -3 ∧ (-3 : Int) < f32.emin + f32.infBits / 2 ^ f32.fb + f32.fb - 1 :=
  ⟨by decide, rfl, by decide, fun n => by rw [Nat.mul_assoc, ← Nat.pow_add], by decide, by decide, by decide, by decide⟩

theorem witness_Shuffles :
    Issues st c0 ∧ ∀ e ∈ [(Instr.shflIdx (.v 63) (.v 0) (.v 1), Operand.v 63, [Operand.v 0, .v 1]), (.shflIdx (.v 63) (.v 0) (.imm 0x7F), .v 63, [.v 0, .imm 0x7F]),
      (.shflUp (.v 63) (.v 63) (.imm 31), .v 63, [.v 63, .imm 31]), (.shflDn (.v 0) (.v 1) (.imm 32), .v 0, [.v 1, .imm 32]),
      (.shflXor (.v 0) (.v 1) (.s 31), .v 0, [.v 1, .s 31])], Ready c0 e.1 false e.2.1 e.2.2 :=
  ⟨issues_c0, ready_all (by decide +kernel)⟩

/-- A false k guard, and one thread of slice 7 off. -/
def voteOff : Wave → Wave := fun w => mode 0b10000 0 0 0 (w.putK 0 false)
/-- Slice 7 runs with a thread fewer than live. -/
def voteShort (w : Wave) : Wave := { w with st := w.st.updSlices [7] (fun _ x => { x with mask := 7 }) }
theorem witness_Votes :
    (∀ f ∈ [id, voteOff, voteShort], Issues (stW f) (cW f) ∧ (cW f).w.tp = none ∧ guardReserved (cW f).mx = false) ∧
    c0.w.st.fullMember 0 = true ∧ guardIsK c0.mx = false ∧ c0.Full [.s 31] ∧ (cW voteOff).w.st.fullMember 0 = true ∧
    guardIsK (cW voteOff).mx = true ∧ (cW voteOff).kOn = false ∧ (cW voteShort).w.st.fullMember 0 = false := by
  refine ⟨fun f hf => ?_, by decide, by decide, full_of rfl, by decide, by decide, by decide, by decide⟩
  simp only [List.mem_cons, List.not_mem_nil, or_false] at hf
  rcases hf with rfl | rfl | rfl
  all_goals exact ⟨issues_cx rfl rfl, by decide, by decide⟩

/-- No thread contributes. -/
def noHit : Wave → Wave := fun w => setP 0 0 (mode 0 7 0 0 w)
/-- Floating-point numbers under stochastic rounding, and integers that saturate. -/
def flt : Wave → Wave := mode always 2 5 0
def satInt : Wave → Wave := mode always 0 0 1
theorem witness_ReductionsAndScans :
    (Issues st c0 ∧ IntType (modeT c0.mx) 32 true ∧ modeSAT c0.mx = false ∧ c0.hit ≠ 0 ∧ threadsOf c0.hit ≠ [] ∧
    Issues (stW noHit) (cW noHit) ∧ IntType (modeT (cW noHit).mx) 16 true ∧ threadsOf (cW noHit).hit = [] ∧
    (∀ c ∈ [c0, cW noHit], ∀ i ∈ [Instr.redAdd (.s 31) (.v 63), .redMin (.s 31) (.v 63), .redMax (.s 31) (.v 63)], Gathers c i [.s 31, .v 63]) ∧
    Gathers c0 (.scan (.v 0) (.v 0) (.imm 0)) [.v 0, .v 0, .imm 0] ∧ Gathers c0 (.scanx (.v 63) (.v 0) (.imm 0)) [.v 63, .v 0, .imm 0]) ∧
    (∀ f ∈ [flt, satInt], Issues (stW f) (cW f) ∧ (cW f).hit ≠ 0 ∧
      (∀ i ∈ [Instr.redAdd (.s 31) (.v 63), .redMin (.s 31) (.v 63), .redMax (.s 31) (.v 63)], Gathers (cW f) i [.s 31, .v 63]) ∧
      ∀ i ∈ [Instr.scan (.v 0) (.v 63) (.imm 2), .scanx (.v 0) (.v 63) (.imm 2)], Gathers (cW f) i [.v 0, .v 63, .imm 2]) ∧
    (∃ y, floatType (modeT (cW flt).mx) = some y) ∧ modeRM (cW flt).mx ≤ 5 ∧ IntType (modeT (cW satInt).mx) 32 true ∧ modeSAT (cW satInt).mx = true ∧
    (∀ f ∈ [voteOff, voteShort], IntType (modeT (cW f).mx) 32 true ∧ (cW f).Allowed (.redAdd (.s 31) (.v 63)) false [.s 31, .v 63] ∧
      (cW f).Allowed (.scan (.v 0) (.v 63) (.imm 1)) false [.v 0, .v 63, .imm 1] ∧ (cW f).Allocated [.v 0, .v 63]) ∧ (cW voteOff).hit = 0 :=
  ⟨⟨issues_c0, by unfold IntType; decide, by decide, by decide, by decide, issues_cx rfl rfl, by unfold IntType; decide, by decide,
    fun c hc i hi => gathers_of (by revert i; revert c; decide +kernel), gathers_of rfl, gathers_of rfl⟩,
    fun f hf => by
      simp only [List.mem_cons, List.not_mem_nil, or_false] at hf
      rcases hf with rfl | rfl
      all_goals exact ⟨issues_cx rfl rfl, by decide, fun i hi => gathers_of (by revert i; decide +kernel), fun i hi => gathers_of (by revert i; decide +kernel)⟩,
    ⟨_, rfl⟩, by decide, by unfold IntType; decide, by decide, fun f hf => by
      simp only [List.mem_cons, List.not_mem_nil, or_false] at hf
      rcases hf with rfl | rfl
      all_goals exact ⟨by unfold IntType; decide, allowed_of rfl, allowed_of rfl, allocated_of rfl⟩, by decide⟩

/-- Slices 0 to 3 gang alone. -/
def parted (w : Wave) : Wave := { w with st := w.st.updSlices [4, 5, 6, 7] (fun _ x => { x with gang := 4 }) }
theorem witness_MatchAndOneLane :
    Issues st c0 ∧ modeT c0.mx ≤ 12 ∧ IntType (modeT c0.mx) 32 true ∧ c0.Allowed (.matchKey (.v 63) (.v 0)) false [.v 63, .v 0] ∧ guardReserved c0.mx = false ∧
    c0.Allocated [.v 63, .v 0] ∧ c0.Full [.v 63, .v 0] ∧ c0.act ≠ 0 ∧ Ready c0 (.rdlane (.s 0) (.v 63) (.imm 0x7F)) false (.s 0) [.v 63, .imm 0x7F] ∧
    Issues (stW parted) (cW parted) ∧ guardReserved (cW parted).mx = false ∧ (cW parted).Allowed (.wrlane (.v 63) (.s 0) (.imm 15)) false [.v 63, .s 0, .imm 15] ∧
    (cW parted).Allowed (.wrlane (.v 63) (.s 0) (.imm 16)) false [.v 63, .s 0, .imm 16] ∧ 63 < (cW parted).w.valloc ∧ (cW parted).Full [.v 63, .s 0, .imm 16] ∧
    15 / 4 ∈ (cW parted).w.st.gangOf 0 ∧ 16 / 4 ∉ (cW parted).w.st.gangOf 0 :=
  ⟨issues_c0, by decide, by unfold IntType; decide, allowed_of rfl, by decide, allocated_of rfl, full_of rfl, by decide, ready_of rfl, issues_cx rfl rfl,
    by decide, allowed_of rfl, allowed_of rfl, by decide, full_of rfl, by decide, by decide⟩

/-- `match` under f16x2, e4m3 and e5m2; two zeros, two NaNs, and 1 beside them, of f16. -/
theorem witness_MatchKeysOfFloats :
    (∀ y ∈ [5, 11, 12], let f := mode always y 0 0
      Issues (stW f) (cW f) ∧ modeT (cW f).mx = y ∧ (cW f).Allowed (.matchKey (.v 63) (.v 0)) false [.v 63, .v 0] ∧ guardReserved (cW f).mx = false ∧
      (cW f).Allocated [.v 63, .v 0] ∧ (cW f).Full [.v 63, .v 0] ∧ (cW f).act ≠ 0) ∧
    floatType 5 = some (f16, 16, 2) ∧ f16.val 0 = .fin false 0 (-24) ∧ f16.val 0x8000 = .fin true 0 (-24) ∧ f16.val 0x7E00 = .nan ∧ f16.val 0x7E55 = .nan ∧
    (0x7E00 : Nat) ≠ 0x7E55 ∧ f16.val 0x3C00 = .fin false 1024 (-10) :=
  ⟨fun y hy => by
      simp only [List.mem_cons, List.not_mem_nil, or_false] at hy
      rcases hy with rfl | rfl | rfl
      all_goals exact ⟨issues_cx rfl rfl, rfl, allowed_of rfl, by decide, allocated_of rfl, full_of rfl, by decide⟩,
    rfl, by decide, by decide, by decide, by decide, by decide, by decide⟩

/-- Every stack holds these entries. -/
def withStack (l : List StackEnt) : Wave → Wave := onSlices (fun x => { x with stack := l })
/-- A full stack. -/
def fullStack : List StackEnt := List.replicate 8 ⟨0x10000, 0xF, true⟩
theorem witness_Jumps :
    Issues st c0 ∧ Issues (stW (withStack fullStack.tail)) (cW (withStack fullStack.tail)) ∧ Issues (stW (withStack fullStack)) (cW (withStack fullStack)) ∧
    (∀ i ∈ (cW (withStack fullStack.tail)).w.st.gangOf 0, ((cW (withStack fullStack.tail)).w.st.slice i).stack.length < 8) ∧
    ¬ (∀ i ∈ (cW (withStack fullStack)).w.st.gangOf 0, ((cW (withStack fullStack)).w.st.slice i).stack.length < 8) ∧
    (∀ o ∈ [Operand.imm 0x7C, .imm 0x7D, .s 0], c0.Allowed (.callr o) true [o] ∧ c0.Full [o]) ∧
    (c0.r.uni (.imm 0x7C)).toNat % 4 = 0 ∧ (c0.r.uni (.imm 0x7D)).toNat % 4 ≠ 0 := by
  refine ⟨issues_c0, issues_cx rfl rfl, issues_cx rfl rfl, by decide, by decide, fun o ho => ⟨?_, ?_⟩, by decide, by decide⟩
  · exact allowed_of (by revert o; decide +kernel)
  · exact full_of (by revert o; decide +kernel)

/-- The last member of the gang has no thread in its mask; and no thread finds p3 true. -/
def emptied (w : Wave) : Wave := (fun w : Wave => { w with st := w.st.updSlices [3] (fun _ x => { x with mask := 0 }) }) (half w)
def noneTaken (w : Wave) : Wave := setP 3 0 (emptied w)
theorem witness_DivergentBranch :
    Issues (stW half) (cW half) ∧ (cW half).Allowed (.brv ⟨false, 3, true⟩ 0x3FFFF) false [] ∧ (cW half).Allowed (.brv ⟨true, 3, false⟩ 0x40000) false [] ∧
    (∀ i ∈ (cW half).w.st.gangOf 0, ((cW half).w.st.slice i).stack.length < 8) ∧
    Issues (stW (withStack fullStack)) (cW (withStack fullStack)) ∧ (∃ i ∈ (cW (withStack fullStack)).w.st.gangOf 0, ((cW (withStack fullStack)).w.st.slice i).stack.length ≥ 8) ∧
    ((cW half).w.st.slice 0).mask ≠ 0 ∧
    ((cW half).w.st.slice 0).mask &&& (cW half).w.st.liveBits 0 &&& sliceBits (condOf ⟨false, 3, false⟩ (cW half).r) 0 ≠ 0 ∧
    ((cW half).w.st.slice 1).mask &&& (cW half).w.st.liveBits 1 &&& sliceBits (condOf ⟨false, 3, false⟩ (cW half).r) 1 = 0 ∧
    (∀ f ∈ [emptied, noneTaken], Issues (stW f) (cW f) ∧ (cW f).Allowed (.brv ⟨false, 3, true⟩ 0x3FFFF) false [] ∧
      (∀ i ∈ (cW f).w.st.gangOf 0, ((cW f).w.st.slice i).stack.length < 8) ∧ 3 ∈ (cW f).w.st.gangOf 0 ∧ ((cW f).w.st.slice 3).mask = 0) ∧
    (∃ j ∈ (cW emptied).w.st.gangOf 0, ((cW emptied).w.st.slice j).mask ≠ 0 ∧
      ((cW emptied).w.st.slice j).mask &&& (cW emptied).w.st.liveBits j &&& sliceBits (condOf ⟨false, 3, false⟩ (cW emptied).r) j ≠ 0) ∧
    (∃ j ∈ (cW noneTaken).w.st.gangOf 0, ((cW noneTaken).w.st.slice j).mask ≠ 0) ∧
    ∀ j ∈ (cW noneTaken).w.st.gangOf 0, ((cW noneTaken).w.st.slice j).mask &&& (cW noneTaken).w.st.liveBits j &&&
      sliceBits (condOf ⟨false, 3, false⟩ (cW noneTaken).r) j = 0 :=
  ⟨issues_cx rfl rfl, allowed_of rfl, allowed_of rfl, by decide, issues_cx rfl rfl, ⟨0, by decide, by decide⟩, by decide, by decide, by decide,
    fun f hf => by
      simp only [List.mem_cons, List.not_mem_nil, or_false] at hf
      rcases hf with rfl | rfl
      all_goals exact ⟨issues_cx rfl rfl, allowed_of rfl, by decide, by decide, by decide⟩, ⟨0, by decide⟩, ⟨0, by decide⟩, by decide⟩

theorem witness_Convergence :
    Issues st c0 ∧ c0.Allowed .cnv false [] ∧ (∀ i ∈ c0.w.st.gangOf 0, (c0.w.st.slice i).stack = []) ∧
    (∀ l ∈ [[⟨0x10000, 1, false⟩], [⟨0x10000, 0, false⟩], [⟨0x10000, 1, true⟩]], Issues (stW (withStack l)) (cW (withStack l)) ∧ (cW (withStack l)).Allowed .cnv false [] ∧
      ∀ i ∈ (cW (withStack l)).w.st.gangOf 0, ((cW (withStack l)).w.st.slice i).stack = l) := by
  refine ⟨issues_c0, allowed_of rfl, by decide, fun l hl => ?_⟩
  simp only [List.mem_cons, List.not_mem_nil, or_false] at hl
  rcases hl with rfl | rfl | rfl
  all_goals exact ⟨issues_cx rfl rfl, allowed_of rfl, by decide⟩

theorem witness_ReturnsUnwind :
    Issues st c0 ∧ (∃ i ∈ c0.w.st.gangOf 0, ∀ pc m r, (c0.w.st.slice i).stack ≠ ⟨pc, m, true⟩ :: r) ∧
    (∀ l ∈ [[⟨0x20000, 1, true⟩], [⟨0x20000, 0, true⟩, ⟨0x10000, 3, false⟩]], Issues (stW (withStack l)) (cW (withStack l)) ∧
      (∀ i ∈ (cW (withStack l)).w.st.gangOf 0, ((cW (withStack l)).w.st.slice i).stack = l ∧ ∃ pc m r, l = ⟨pc, m, true⟩ :: r)) ∧
    (∀ i ∈ (cW (withStack fullStack)).w.st.gangOf 0, i < 8 ∧ ((cW (withStack fullStack)).w.st.slice i).stack.length ≤ 8) := by
  refine ⟨issues_c0, ⟨0, by decide, ?_⟩, fun l hl => ?_, by decide⟩
  · intro pc m r h; exact absurd h (by show ([] : List StackEnt) ≠ _; simp)
  · simp only [List.mem_cons, List.not_mem_nil, or_false] at hl
    rcases hl with rfl | rfl
    · exact ⟨issues_cx rfl rfl, fun i hi => ⟨by revert i; decide, _, _, _, rfl⟩⟩
    · exact ⟨issues_cx rfl rfl, fun i hi => ⟨by revert i; decide, _, _, _, rfl⟩⟩

/-- Slices 0 to 3 issue; the others wait at a `regang` of a mask, the highest changed. -/
def regangs (m : BitVec 8) (f : Slice → Slice) (w : Wave) : Wave :=
  { parted w with st := ((parted w).st.updSlices [4, 5, 6, 7] (fun _ x => { x with wait := some (.regang m) })).updSlices [7] (fun _ x => f x) }
/-- At another PC; and in another MODE. -/
def elsewhere (x : Slice) : Slice := { x with pc := 0x30000 }
def otherMode (x : Slice) : Slice := { x with modem := 1 }
theorem witness_ExitAndRegang :
    (Issues st c0 ∧ c0.w.tp = none ∧ c0.w.st.inHandler = false ∧ c0.core.inCall 2 = false ∧ c0.w.ending = false ∧ c0.w.st.trap = none ∧
    (∀ i, i < 8 → (c0.w.st.slice i).regangMask = none) ∧ 0 ∈ c0.w.st.gangOf 0 ∧ c0.w.st.named 0xFF = c0.w.st.gangOf 0 ∧
    (∃ i ∈ c0.w.st.gangOf 0, (0x7F : BitVec 8).getLsbD i = false) ∧
    (∀ i ∈ c0.w.st.gangOf 0, (c0.w.st.slice i).pc = (c0.w.st.slice 0).pc ∧ (c0.w.st.slice i).stack.length = (c0.w.st.slice 0).stack.length ∧
      (c0.w.st.slice i).modex = c0.mx ∧ (c0.w.st.slice i).modem = c0.mm)) ∧
    (∀ i ∈ c0.w.st.gangOf 0, (c0.w.st.slice i).stack = []) ∧
    (let c := cW (withStack [⟨0x20000, 0xF, true⟩]);
      Issues (stW (withStack [⟨0x20000, 0xF, true⟩])) c ∧ c.w.tp = none ∧ c.w.st.inHandler = false ∧ c.core.inCall 2 = false ∧
      (∀ i, i < 8 → (c.w.st.slice i).regangMask = none) ∧ (∃ i ∈ c.w.st.gangOf 0, (c.w.st.slice i).stack ≠ []) ∧
      ∀ i ∈ c.w.st.gangOf 0, (c.w.st.slice i).mask &&& ~~~(sliceBits c.act i) = 0) ∧
    (∀ f ∈ [parted, regangs 0xFF id, regangs 0xFE id, regangs 0xFF elsewhere, regangs 0xFF otherMode], let c := cW f;
      Issues (stW f) c ∧ c.w.tp = none ∧ c.w.st.trap = none ∧ 0 ∈ c.w.st.gangOf 0 ∧ (∀ i ∈ c.w.st.gangOf 0, (0xFF : BitVec 8).getLsbD i = true) ∧
      c.w.st.named 0xFF = [0, 1, 2, 3, 4, 5, 6, 7] ∧ c.w.st.gangOf 0 = [0, 1, 2, 3]) ∧
    (∀ i, i < 8 → i ∉ [0, 1, 2, 3] → ((cW parted).w.st.slice i).regangMask = none) ∧
    (∀ f ∈ [regangs 0xFF id, regangs 0xFF elsewhere, regangs 0xFF otherMode], ∀ i ∈ [4, 5, 6, 7],
      ∃ k, ((cW f).w.st.slice i).regangMask = some k ∧ (cW f).w.st.named k = (cW f).w.st.named 0xFF) ∧
    ((cW (regangs 0xFF elsewhere)).w.st.slice 7).pc ≠ ((cW (regangs 0xFF elsewhere)).w.st.slice 0).pc ∧
    ((cW (regangs 0xFF otherMode)).w.st.slice 7).modem ≠ ((cW (regangs 0xFF otherMode)).w.st.slice 0).modem := by
  refine ⟨⟨issues_c0, by decide +kernel⟩, by decide, ⟨issues_cx rfl rfl, by decide, by decide, by decide, by decide, ⟨0, by decide⟩, by decide⟩,
    fun f hf => ?_, by decide, ?_, by decide, by decide⟩
  · simp only [List.mem_cons, List.not_mem_nil, or_false] at hf
    rcases hf with rfl | rfl | rfl | rfl | rfl
    all_goals exact ⟨issues_cx rfl rfl, by decide, by decide, by decide, by decide, by decide, by decide⟩
  · intro f hf i hi
    refine ⟨0xFF, ?_⟩
    simp only [List.mem_cons, List.not_mem_nil, or_false] at hf hi
    rcases hf with rfl | rfl | rfl <;> rcases hi with rfl | rfl | rfl | rfl <;> exact ⟨by decide, by decide⟩

theorem witness_ModesMacrosAndSleep :
    Issues st c0 ∧ c0.Allowed (.mcall 63 (.v 0) (.imm 0x7F)) false [] ∧ ∃ w, st.wave? 2 = some w ∧ w.core < 512 ∧ w.tp = none ∧
      (st.col (colOf w.core)).power = .on ∧ (st.col (colOf w.core)).stopped = false :=
  ⟨issues_c0, allowed_of rfl, _, rfl, by decide, by decide, by decide, by decide⟩

/-- A wave with a handler at 0x2000. -/
def withHandler (w : Wave) : Wave := { w with st := { w.st with tveclo := 0x2000 } }
/-- A software trap. -/
def swt : TrapInfo := { cause := .swt, mask := 0xFFFFFFFF, fa := 0, s2 := false, asy := false, unr := false }
/-- The loaded wave in its handler. -/
def hs : State := (stW withHandler).takeTrap 2 0 swt
/-- Its context. -/
def hc : Ctx := cx hs 0
/-- Its handler's ACT. -/
def act (n : Nat) (w : Wave) : Wave := { w with st := { w.st with trcause := w.st.trcause ||| (BitVec.ofNat 32 n <<< 30) } }

/-- The gang inside `mcall` at an operation. -/
def inMac (i : Nat) : Wave → Wave := onSlices (fun x => { x with mac := some { m := 3, p1 := 4, p2 := 5, i := i } })
/-- The wave on a Trailhead processor. -/
def onTp (w : Wave) : Wave := { w with tp := some 5 }
theorem witness_TrapEntersHandler :
    (∀ f ∈ [withHandler, andThen withHandler (inMac 31), onTp], ∃ w, (stW f).wave? 2 = some w ∧ 0 ∈ w.st.gangOf 0 ∧ w.st.trap = none ∧ w.hidden = none ∧
      (w.tp ≠ none ∨ (w.tp = none ∧ routeOf swt.cause swt.s2 = .w ∧ w.st.tvec ≠ 0))) ∧
    (((cW (andThen withHandler (inMac 31))).w.st.slice 0).mac.isSome = true) := by
  refine ⟨fun f hf => ?_, by decide⟩
  simp only [List.mem_cons, List.not_mem_nil, or_false] at hf
  rcases hf with rfl | rfl | rfl
  all_goals exact ⟨_, rfl, by decide⟩

theorem witness_TrapParksTheWave :
    (∃ w, st.wave? 2 = some w ∧ w.tp = none ∧ w.hidden = none ∧ w.st.trap = none ∧ w.st.tvec = 0) ∧
    (∃ w, hs.wave? 2 = some w ∧ w.tp = none ∧ w.hidden = none ∧ w.st.inHandler = true ∧ ∃ old, w.st.trap = some old) ∧
    (∃ w, (stW withHandler).wave? 2 = some w ∧ w.tp = none ∧ w.hidden = none ∧ w.st.trap = none ∧ routeOf .trf true ≠ .w) :=
  ⟨⟨_, rfl, by decide⟩, ⟨_, rfl, by decide, by decide, by decide, _, rfl⟩, ⟨_, rfl, by decide⟩⟩

/-- The handler at another stack depth. -/
def deep : State := hs.updWave 2 (onSlices (fun x => { x with stack := [⟨0, 0, true⟩] }))
/-- The handler of a trap inside `mcall`, at its last operation, with an ACT. -/
def hsMac (n : Nat) : State := (((stW (andThen withHandler (inMac 31))).takeTrap 2 0 { swt with cause := .afo })).updWave 2 (act n)
theorem witness_ReturnFromHandler :
    Issues st c0 ∧ c0.w.st.inHandler = false ∧
    (∀ n ∈ [0, 1, 2], Issues (hs.updWave 2 (act n)) (cx (hs.updWave 2 (act n)) 0)) ∧
    (∀ n ∈ [0, 1, 2], let c := cx (hs.updWave 2 (act n)) 0
      c.w.st.inHandler = true ∧ c.w.st.gangOf 0 = c.w.st.scopeSlices ∧ c.w.st.atEntryDepth = true ∧ c.core.run = none ∧ c.w.st.trcause.getLsbD 26 = false ∧
      c.w.st.trcause.extractLsb' 30 2 = BitVec.ofNat 2 n ∧ c.w.st.trap.isSome = true) ∧
    Issues deep (cx deep 0) ∧ (cx deep 0).w.st.inHandler = true ∧ (cx deep 0).w.st.atEntryDepth = false ∧
    (∀ n ∈ [0, 1], Issues (hsMac n) (cx (hsMac n) 0) ∧ (cx (hsMac n) 0).w.st.inHandler = true ∧
      (cx (hsMac n) 0).w.st.gangOf 0 = (cx (hsMac n) 0).w.st.scopeSlices ∧ (cx (hsMac n) 0).w.st.atEntryDepth = true ∧ (cx (hsMac n) 0).core.run = none ∧
      (cx (hsMac n) 0).w.st.trcause.getLsbD 26 = true ∧ (cx (hsMac n) 0).w.st.trcause.getLsbD 28 = false ∧
      (cx (hsMac n) 0).w.st.trcause.extractLsb' 30 2 = BitVec.ofNat 2 n ∧ ((cx (hsMac n) 0).w.st.trcause.extractLsb' 21 5).toNat = 31 ∧
      ∃ tr, (cx (hsMac n) 0).w.st.trap = some tr ∧ ∀ y ∈ tr.saved, y.past = false ∧ y.mac.isSome = true) := by
  refine ⟨issues_c0, by decide, fun n hn => ?_, by decide +kernel, issues_cx rfl rfl, by decide, by decide, fun n hn =>
    ⟨issues_cx (by revert n; decide +kernel) rfl, ?_, ?_, ?_, ?_, ?_, ?_, ?_, ?_, ((cx (hsMac n) 0).w.st.trap).getD default, ?_, ?_⟩⟩
  rotate_left
  all_goals first
    | (revert n; decide +kernel)
    | skip
  simp only [List.mem_cons, List.not_mem_nil, or_false] at hn
  rcases hn with rfl | rfl | rfl
  all_goals exact issues_cx rfl rfl

/-- The loaded wave at an address. -/
def at' (pc : DWord) : Wave → Wave := onSlices (fun x => { x with pc := pc })
/-- The loaded wave, whose text lies in a poisoned sector. -/
def poisoned : State := { st with poison := [sectorOf 0x10000] }
theorem witness_TrapsAndUnrunnableWords :
    Issues st c0 ∧ Issues (stW (at' 0x10002)) (cW (at' 0x10002)) ∧ ((cW (at' 0x10002)).w.st.slice 0).pc.toNat % 4 ≠ 0 ∧
    (∃ t, (stW (at' 0x10002)).fetch (cW (at' 0x10002)).w 0 = .fault t ∧ t.asy = false) ∧
    Issues poisoned (cx poisoned 0) ∧ ∃ t, poisoned.fetch (cx poisoned 0).w 0 = .fault t ∧ t.asy = true :=
  ⟨issues_c0, issues_cx rfl rfl, by decide, ⟨_, rfl, rfl⟩, issues_cx rfl rfl, _, rfl, rfl⟩

theorem witness_PrivilegedInstructions :
    Issues st c0 ∧ c0.w.tp = none ∧ c0.w.st.inHandler = false ∧ guardReserved c0.mx = false ∧
    (∀ i ∈ [Instr.eret, .hv 0xFFFFFF, .mcsWr (.s 0) (.imm 0), .iinv, .tlbinv (.s 0)], i.wf = true) ∧
    Issues hs hc ∧ hc.w.tp = none ∧ hc.w.st.inHandler = true ∧ guardReserved hc.mx = false ∧ guardIsP hc.mx = false ∧ hc.kOn = true ∧
    hc.Full [.s 0, .imm 0, .zero] ∧ hc.w.inflight = [] ∧ hc.w.st.gangOf 0 = hc.w.st.scopeSlices ∧
    (∀ x ∈ [2047, 2048], Issues (hs.updWave 2 (setS 20 x)) (cx (hs.updWave 2 (setS 20 x)) 0)) ∧
    (cx (hs.updWave 2 (setS 20 2047)) 0).r.uni (.s 20) = 2047 ∧ (hs.updWave 2 (setS 20 2047)).insideMac 0 (2047 / 32) = false ∧
    (cx (hs.updWave 2 (setS 20 2048)) 0).r.uni (.s 20) = 2048 ∧
    (0x0DFFFFFF#32).toNat / 2 ^ 24 = 0x0D ∧ (0x0E000000#32).toNat / 2 ^ 24 = 0x0E ∧ (0xEFFFFFFF#32).toNat / 2 ^ 24 = 0xEF ∧ (0xF5000000#32).toNat / 2 ^ 24 = 0xF5 ∧
    hc.r.uni .zero = 0 ∧ hc.r.uni (.imm 1) = 1 ∧ hs.noWalks [0] [0] = true ∧ hs.noWalks [0] [] = true := by
  have h : ∀ x ∈ [2047, 2048], Issues (hs.updWave 2 (setS 20 x)) (cx (hs.updWave 2 (setS 20 x)) 0) := fun x hx => by
    simp only [List.mem_cons, List.not_mem_nil, or_false] at hx
    rcases hx with rfl | rfl
    all_goals exact issues_cx rfl rfl
  and_intros <;> first | exact h | exact issues_cx rfl rfl | exact full_of rfl | decide +kernel

theorem witness_SystemRegisters :
    Issues st c0 ∧ c0.w.tp = none ∧ guardReserved c0.mx = false ∧ guardIsP c0.mx = false ∧ c0.act = c0.live ∧ c0.kOn = true ∧ c0.Full [.s 31] ∧
    c0.w.st.inHandler = false ∧ Issues hs hc ∧ hc.w.tp = none ∧ guardReserved hc.mx = false ∧ guardIsP hc.mx = false ∧ hc.act = hc.live ∧ hc.kOn = true ∧
    hc.Full [.s 31] ∧ hc.w.st.inHandler = true ∧ (0x01 : BitVec 16).toNat ∈ (List.range 0x17).drop 1 ∧ (0x16 : BitVec 16).toNat ∈ (List.range 0x17).drop 1 := by
  and_intros <;> first | exact issues_cx rfl rfl | exact full_of rfl | decide +kernel

/-- v5 is empty, under a policy of MODE.FE. -/
def emptyV (fe : Word) : Wave → Wave := fun w => onSlices (fun x => { x with modex := 0x3800 ||| fe }) (w.setRegs { w.st.regs with vEmpty := 1#64 <<< 5 })
theorem witness_SharedRefusals :
    (∀ f ∈ [mode 0b11000 0 0 0, mode 0 0 0 0, voteShort], Issues (stW f) (cW f) ∧ (cW f).Allowed (.mov (.s 0) (.imm 1)) true [.s 0, .imm 1]) ∧
    guardReserved (cW (mode 0b11000 0 0 0)).mx = true ∧ guardReserved (cW (mode 0 0 0 0)).mx = false ∧ guardIsP (cW (mode 0 0 0 0)).mx = true ∧
    guardReserved (cW voteShort).mx = false ∧ guardIsP (cW voteShort).mx = false ∧ (cW voteShort).act ≠ (cW voteShort).live ∧
    (∀ fe ∈ [0, 1, 2, 3], Issues (stW (emptyV fe)) (cW (emptyV fe)) ∧
      (∀ e ∈ [(5, 6), (6, 5), (5, 5)], (cW (emptyV fe)).Allowed (.and (.v 1) (.v e.1) (.v e.2)) false [.v 1, .v e.1, .v e.2]) ∧
      guardReserved (cW (emptyV fe)).mx = false ∧ (cW (emptyV fe)).Allocated [.v 1, .v 5, .v 6] ∧ (cW (emptyV fe)).hit ≠ 0 ∧
      (cW (emptyV fe)).r.vEmpty.getLsbD 5 = true ∧ (cW (emptyV fe)).mx.getLsbD 0 = fe.getLsbD 0 ∧ (cW (emptyV fe)).mx.getLsbD 1 = fe.getLsbD 1) := by
  refine ⟨fun f hf => ?_, by decide, by decide, by decide, by decide, by decide, by decide, fun fe hfe => ?_⟩
  · simp only [List.mem_cons, List.not_mem_nil, or_false] at hf
    rcases hf with rfl | rfl | rfl
    all_goals exact ⟨issues_cx rfl rfl, allowed_of rfl⟩
  · simp only [List.mem_cons, List.not_mem_nil, or_false] at hfe
    rcases hfe with rfl | rfl | rfl | rfl
    all_goals exact ⟨issues_cx rfl rfl, fun e he => by
      simp only [List.mem_cons, List.not_mem_nil, or_false] at he
      rcases he with rfl | rfl | rfl <;> exact allowed_of rfl, by decide, allocated_of rfl, by decide, by decide, by decide, by decide⟩

/-- A location for each thread: what the access finds when it may. -/
def locOf (c : Ctx) (need : BitVec 4) (b : Fin 8) (addr : Nat → DWord) (t : Nat) : XRes :=
  if (c.base b).tag = 0 then match c.s.xlateWave c.w (addr t).toNat need with
    | .ok r => r
    | .error _ => { loc := 0, cache := false, found := [] }
  else { loc := bufLoc c.w.core (c.base b).tag (addr t).toNat, cache := false, found := [] }
/-- `Ctx.Hidden`, computed. -/
def hiddenB (c : Ctx) (loc n : Nat) : Bool := c.w.tp.isNone && !c.w.st.privileged && apPrivate loc n
theorem hidden_iff {c : Ctx} {loc n : Nat} : c.Hidden loc n ↔ hiddenB c loc n = true := by
  simp [Ctx.Hidden, hiddenB, and_assoc]

/-- `Ctx.Reaches` with those locations, computed. -/
def reachesB (c : Ctx) (k : AccKind) (need : BitVec 4) (b : Fin 8) (n : Nat) (ts : List Nat) (addr : Nat → DWord) : Bool :=
  ts.all (fun t => decide ((addr t).toNat % n = 0) &&
    if (c.base b).tag = 0 then match c.s.xlateWave c.w (addr t).toNat need with
      | .ok r => !hiddenB c r.loc n
      | .error _ => false
    else match c.s.group? c.w.group with
      | some g => inAlloc g (c.base b).tag (addr t).toNat n && viewOk k (c.base b).tag n
      | none => false)
theorem reaches_of {c : Ctx} {k : AccKind} {need : BitVec 4} {b : Fin 8} {n : Nat} {ts : List Nat} {addr : Nat → DWord}
    (h : reachesB c k need b n ts addr = true) : c.Reaches k need b n ts addr (locOf c need b addr) := by
  intro t ht
  simp only [reachesB, List.all_eq_true] at h
  have h := h t ht
  simp only [Bool.and_eq_true, decide_eq_true_eq] at h
  refine ⟨h.1, ?_⟩
  have h2 := h.2
  unfold locOf
  split
  · rename_i hb
    rw [if_pos hb] at h2
    split at h2
    · rename_i r hr; rw [hr]
      exact ⟨rfl, fun hx => by rw [hidden_iff.mp hx] at h2; cases h2⟩
    · cases h2
  · rename_i hb
    rw [if_neg hb] at h2
    split at h2
    · rename_i g hg
      simp only [Bool.and_eq_true] at h2
      exact ⟨rfl, g, hg, h2.1, h2.2⟩
    · cases h2

/-- `Ctx.Meets`, computed. -/
def meetsB (c : Ctx) (k : AccKind) (need : BitVec 4) (b : Fin 8) (n : Nat) (addr : DWord) (x : Cause) (s2 : Bool) : Bool :=
  let tag := (c.base b).tag
  let xl := c.s.xlateWave c.w addr.toNat need
  (decide (x = .spf) && !s2 && decide (tag ≠ 0) && (match c.s.group? c.w.group with
    | some g => !inAlloc g tag addr.toNat n || !viewOk k tag n
    | none => true))
  || (decide (x = .alf) && !s2 && decide (addr.toNat % n ≠ 0))
  || (decide (x = .trf) && decide (tag = 0) && (match xl with
    | .error (.mk p z) => !p && z == s2
    | .error .undef | .ok _ => false))
  || (decide (x = .pmf) && decide (tag = 0) && (match xl with
    | .error (.mk p z) => p && z == s2
    | .error .undef | .ok _ => false))
  || (decide (x = .prv) && !s2 && decide (tag = 0) && (match xl with
    | .ok r => hiddenB c r.loc n
    | .error _ => false))
theorem meets_iff {c : Ctx} {k : AccKind} {need : BitVec 4} {b : Fin 8} {n : Nat} {addr : DWord} {x : Cause} {s2 : Bool} :
    c.Meets k need b n addr x s2 ↔ meetsB c k need b n addr x s2 = true := by
  unfold Ctx.Meets meetsB
  simp only [Bool.or_eq_true, Bool.and_eq_true, decide_eq_true_eq, Bool.not_eq_true', or_assoc, and_assoc]
  refine or_congr ?_ (or_congr (by simp) (or_congr ?_ (or_congr ?_ ?_)))
  · cases c.s.group? c.w.group with
    | none => simp
    | some g => rcases Bool.eq_false_or_eq_true (inAlloc g (c.base b).tag addr.toNat n) with h | h <;> simp [h]
  · rcases c.s.xlateWave c.w addr.toNat need with (⟨p, z⟩ | _) | r <;> simp
  · rcases c.s.xlateWave c.w addr.toNat need with (⟨p, z⟩ | _) | r <;> simp
  · rcases h : c.s.xlateWave c.w addr.toNat need with e | r
    · simp
    · simp [hidden_iff]

/-- `Ctx.Raises`, computed. -/
def raisesB (c : Ctx) (k : AccKind) (need : BitVec 4) (b : Fin 8) (n : Nat) (ts : List Nat) (addr : Nat → DWord) (x : Cause) (t : Nat)
    (s2 : Bool) (mask : Lanes) : Bool :=
  let m (u : Nat) (y : Cause) : Bool := [false, true].any (meetsB c k need b n (addr u) y)
  ts.contains t && meetsB c k need b n (addr t) x s2 && ts.all (fun u => !decide (u < t) || !m u x)
  && ([Cause.spf, .alf, .trf, .pmf, .prv].takeWhile (fun y => decide (y ≠ x))).all (fun y => ts.all (fun u => !m u y))
  && (List.range 32).all (fun j => mask.getLsbD j == (ts.contains j && m j x))
theorem raises_of {c : Ctx} {k : AccKind} {need : BitVec 4} {b : Fin 8} {n : Nat} {ts : List Nat} {addr : Nat → DWord} {x : Cause} {t : Nat}
    {s2 : Bool} {mask : Lanes} (h : raisesB c k need b n ts addr x t s2 mask = true) : c.Raises k need b n ts addr x t s2 mask := by
  have any (u : Nat) (y : Cause) : (∃ z, c.Meets k need b n (addr u) y z) ↔ [false, true].any (meetsB c k need b n (addr u) y) = true := by
    simp [meets_iff]
  simp only [raisesB, Bool.and_eq_true, List.all_eq_true, Bool.or_eq_true, Bool.not_eq_true', decide_eq_false_iff_not, beq_iff_eq, List.mem_range] at h
  obtain ⟨⟨⟨⟨h1, h2⟩, h3⟩, h4⟩, h5⟩ := h
  refine ⟨by simpa using h1, meets_iff.mpr h2, fun u hu hl z hz => ?_, fun y hy u hu z hz => ?_, fun j hj => ?_⟩
  · rcases h3 u hu with h | h
    · exact h hl
    · exact Bool.noConfusion (h.symm.trans ((any u x).mp ⟨z, hz⟩))
  · exact Bool.noConfusion ((h4 y hy u hu).symm.trans ((any u y).mp ⟨z, hz⟩))
  · rw [h5 j hj, Bool.and_eq_true, any, List.contains_iff_mem]

/-- b1 is the S base and b0 a global one; a2 is base 0x40 and stride 4; p2 is false in threads 8 to 15; k0 is false. -/
def memW (w : Wave) : Wave := setP 2 0xFFFF00FF ((((w.putB 1 ⟨0, 1⟩).putB 0 ⟨0x100000, 0⟩).putA 2 ⟨0x40, 4, false⟩).putK 0 false)
/-- Under the guard p2. -/
def memP : Wave → Wave := fun w => mode 0b00100 0 0 0 (memW w)
/-- Under a k guard, which is false. -/
def memK : Wave → Wave := fun w => mode 0b10000 0 0 0 (memW w)
/-- Under a p guard true in no thread. -/
def memN : Wave → Wave := fun w => setP 2 0 (memP w)
/-- Under the guard p2, for an acquire of scope `.home`, and for a release. -/
def memO (ord : Nat) : Wave → Wave := fun w => onSlices (fun x => { x with modem := BitVec.ofNat 32 (0x180 + 16 * ord) }) (memP w)

theorem issues_memW : Issues (stW memW) (cW memW) := issues_cx rfl rfl
theorem issues_memP : Issues (stW memP) (cW memP) := issues_cx rfl rfl
theorem issues_memK : Issues (stW memK) (cW memK) := issues_cx rfl rfl
theorem issues_memN : Issues (stW memN) (cW memN) := issues_cx rfl rfl
theorem issues_memO : ∀ o ∈ [0, 1, 2, 3, 5], Issues (stW (memO o)) (cW (memO o)) := by
  intro o ho
  simp only [List.mem_cons, List.not_mem_nil, or_false] at ho
  rcases ho with rfl | rfl | rfl | rfl | rfl
  all_goals exact issues_cx rfl rfl
theorem noOverflow_a2 {c : Ctx} (h : (c.r.a.getD 2 ⟨0, 0, false⟩).ov = false) : c.NoOverflow (.a 2) := by
  intro n hn; cases hn; exact Or.inl h
theorem noOverflow_zero {c : Ctx} : c.NoOverflow .zero := by intro n hn; cases hn

/-- Loads of every size from both spaces, with no thread, and under a false k guard. -/
theorem witness_LoadsGoInFlight :
    Issues (stW memP) (cW memP) ∧ Issues (stW memN) (cW memN) ∧ Issues (stW memW) (cW memW) ∧ Issues (stW memK) (cW memK) ∧
    (∀ o ∈ [0, 1, 2, 3, 5], Issues (stW (memO o)) (cW (memO o))) ∧
    guardReserved (cW memP).mx = false ∧ (cW memP).hit ≠ 0 ∧ (cW memN).hit = 0 ∧ (cW memP).NoOverflow (.a 2) ∧
    (∀ b ∈ [(0 : Fin 8), 1], (cW memP).Allowed (.ld (.v 5) (.a 2) b 2 false true) false [.v 5, .a 2] ∧
      (cW memP).Reaches .load needRead b 4 (threadsOf (cW memP).hit) ((cW memP).ea b (.a 2)) (locOf (cW memP) needRead b ((cW memP).ea b (.a 2)))) ∧
    (cW memP).Allocated (.a 2 :: regSpan (.v 5) 1) ∧ (cW memP).Full (.a 2 :: regSpan (.v 5) 1) ∧
    (cW memN).Allowed (.ld (.v 60) (.a 2) 1 4 false true) false [.v 60, .a 2] ∧ (cW memN).Allocated (.a 2 :: regSpan (.v 60) 4) ∧
    (∀ c ∈ [cW memW, cW memK], c.Allowed (.ldu (.s 28) .zero 1 4 false false) true [.s 28, .zero] ∧ guardIsP c.mx = false ∧ c.act = c.live) ∧
    (cW memW).kOn = true ∧ (cW memK).kOn = false ∧ (cW memW).Full (.zero :: regSpan (.s 28) 4) ∧
    (cW memW).Reaches .load needRead 1 16 [0] ((cW memW).ea 1 .zero) (locOf (cW memW) needRead 1 ((cW memW).ea 1 .zero)) ∧
    (∀ o ∈ [0, 2, 5], modemReserved (cW (memO o)).mm = false ∧ modeORD (cW (memO o)).mm = o ∧ (cW (memO o)).hit ≠ 0) ∧
    (cW (memO 2)).Allowed (.lda (.v 5) (.a 2) 0) true [.v 5, .a 2] ∧ (cW (memO 2)).Allocated [.v 5, .a 2] ∧ (cW (memO 2)).Full [.v 5, .a 2] ∧
    (cW (memO 2)).NoOverflow (.a 2) ∧
    (cW (memO 2)).Reaches .atomic needAtomic 0 4 (threadsOf (cW (memO 2)).hit) ((cW (memO 2)).ea 0 (.a 2)) (locOf (cW (memO 2)) needAtomic 0 ((cW (memO 2)).ea 0 (.a 2))) ∧
    (cW memW).Allowed (.lda (.s 6) .zero 1) true [.s 6, .zero] ∧ modemReserved (cW memW).mm = false ∧
    (cW memW).Reaches .atomic needAtomic 1 4 [0] ((cW memW).ea 1 .zero) (locOf (cW memW) needAtomic 1 ((cW memW).ea 1 .zero)) ∧
    (cW memP).Allowed (.pf (.a 2) 0 2 true) false [.a 2] ∧
    (cW (memO 0)).Allowed (.lda (.v 5) (.a 2) 0) true [.v 5, .a 2] ∧ (cW (memO 0)).Allocated [.v 5, .a 2] ∧ (cW (memO 0)).Full [.v 5, .a 2] ∧
    (cW (memO 0)).NoOverflow (.a 2) ∧
    (cW (memO 0)).Reaches .atomic needRead 0 4 (threadsOf (cW (memO 0)).hit) ((cW (memO 0)).ea 0 (.a 2)) (locOf (cW (memO 0)) needRead 0 ((cW (memO 0)).ea 0 (.a 2))) :=
  ⟨issues_memP, issues_memN, issues_memW, issues_memK, issues_memO, by decide, by decide, by decide, noOverflow_a2 rfl,
    fun b hb => ⟨allowed_of (by revert b; decide +kernel), reaches_of (by revert b; decide +kernel)⟩, allocated_of rfl, full_of rfl, allowed_of rfl, allocated_of rfl,
    fun c hc => ⟨allowed_of (by revert c; decide +kernel), by revert c; decide +kernel, by revert c; decide +kernel⟩, by decide, by decide, full_of rfl,
    reaches_of (by decide +kernel), by decide +kernel, allowed_of rfl, allocated_of rfl, full_of rfl, noOverflow_a2 rfl,
    reaches_of (by decide +kernel), allowed_of rfl, by decide, reaches_of (by decide +kernel), allowed_of rfl,
    allowed_of rfl, allocated_of rfl, full_of rfl, noOverflow_a2 rfl, reaches_of (by decide +kernel)⟩

theorem witness_StoresGoInFlight :
    Issues (stW memP) (cW memP) ∧ Issues (stW memN) (cW memN) ∧ Issues (stW memW) (cW memW) ∧ Issues (stW memK) (cW memK) ∧
    (∀ o ∈ [0, 1, 2, 3, 5], Issues (stW (memO o)) (cW (memO o))) ∧
    guardReserved (cW memP).mx = false ∧ (cW memP).hit ≠ 0 ∧ (cW memN).hit = 0 ∧ (cW memP).NoOverflow (.a 2) ∧
    (∀ b ∈ [(0 : Fin 8), 1], (cW memP).Allowed (.st (.v 5) (.a 2) b 0 true) false [.v 5, .a 2] ∧
      (cW memP).Reaches .store needWrite b 1 (threadsOf (cW memP).hit) ((cW memP).ea b (.a 2)) (locOf (cW memP) needWrite b ((cW memP).ea b (.a 2)))) ∧
    (cW memP).Allocated (.a 2 :: regSpan (.v 5) 1) ∧ (cW memP).Full (.a 2 :: regSpan (.v 5) 1) ∧
    (cW memN).Allowed (.st (.v 60) (.a 2) 1 4 true) false [.v 60, .a 2] ∧ (cW memN).Allocated (.a 2 :: regSpan (.v 60) 4) ∧
    (∀ c ∈ [cW memW, cW memK], c.Allowed (.stu (.s 28) .zero 1 4 false false) true [.s 28, .zero] ∧ guardIsP c.mx = false) ∧
    (cW memW).kOn = true ∧ (cW memK).kOn = false ∧ (cW memW).Full (.zero :: regSpan (.s 28) 4) ∧
    (cW memW).Reaches .store needWrite 1 16 [0] ((cW memW).ea 1 .zero) (locOf (cW memW) needWrite 1 ((cW memW).ea 1 .zero)) ∧
    (∀ o ∈ [0, 3, 5], modemReserved (cW (memO o)).mm = false ∧ modeORD (cW (memO o)).mm = o) ∧
    (cW (memO 3)).Allowed (.sta (.v 5) (.a 2) 0) true [.v 5, .a 2, .v 5] ∧ (cW (memO 3)).Allocated [.v 5, .a 2, .v 5] ∧ (cW (memO 3)).Full [.v 5, .a 2] ∧
    (cW (memO 3)).NoOverflow (.a 2) ∧
    (cW (memO 3)).Reaches .atomic needAtomic 0 4 (threadsOf (cW (memO 3)).hit) ((cW (memO 3)).ea 0 (.a 2)) (locOf (cW (memO 3)) needAtomic 0 ((cW (memO 3)).ea 0 (.a 2))) ∧
    (cW memW).Allowed (.sta (.s 5) .zero 1) true [.s 5, .zero, .s 5] ∧
    (cW memW).Reaches .atomic needAtomic 1 4 [0] ((cW memW).ea 1 .zero) (locOf (cW memW) needAtomic 1 ((cW memW).ea 1 .zero)) ∧
    (cW memN).Allowed (.sta (.v 5) (.a 2) 0) true [.v 5, .a 2, .v 5] ∧ (cW memN).Allocated [.v 5, .a 2, .v 5] ∧ modemReserved (cW memN).mm = false ∧
    (cW memK).Allowed (.sta (.s 5) .zero 1) true [.s 5, .zero, .s 5] ∧ (cW memK).Allocated [.s 5, .zero, .s 5] ∧ modemReserved (cW memK).mm = false ∧
    (cW (memO 0)).Allowed (.sta (.v 5) (.a 2) 0) true [.v 5, .a 2, .v 5] ∧ (cW (memO 0)).Full [.v 5, .a 2] ∧ (cW (memO 0)).NoOverflow (.a 2) ∧
    (cW (memO 0)).Reaches .atomic needWrite 0 4 (threadsOf (cW (memO 0)).hit) ((cW (memO 0)).ea 0 (.a 2)) (locOf (cW (memO 0)) needWrite 0 ((cW (memO 0)).ea 0 (.a 2))) :=
  ⟨issues_memP, issues_memN, issues_memW, issues_memK, issues_memO, by decide, by decide, by decide, noOverflow_a2 rfl,
    fun b hb => ⟨allowed_of (by revert b; decide +kernel), reaches_of (by revert b; decide +kernel)⟩, allocated_of rfl, full_of rfl, allowed_of rfl, allocated_of rfl,
    fun c hc => ⟨allowed_of (by revert c; decide +kernel), by revert c; decide +kernel⟩, by decide, by decide, full_of rfl, reaches_of (by decide +kernel),
    by decide +kernel, allowed_of rfl, allocated_of rfl, full_of rfl, noOverflow_a2 rfl, reaches_of (by decide +kernel),
    allowed_of rfl, reaches_of (by decide +kernel), allowed_of rfl, allocated_of rfl, by decide, allowed_of rfl, allocated_of rfl, by decide, allowed_of rfl,
    full_of rfl, noOverflow_a2 rfl, reaches_of (by decide +kernel)⟩

/-- Atomics under i32, and `atom.fadd` under bf16x2, in both forms, at register field 31 and 30. -/
def memF : Wave → Wave := fun w => mode always 6 0 0 (memW w)
theorem witness_AtomicsGoInFlight :
    (∀ f ∈ [memP, memW, memF, memN, memK], Issues (stW f) (cW f) ∧ guardReserved (cW f).mx = false ∧ modemReserved (cW f).mm = false) ∧
    IntType (modeT (cW memP).mx) 32 true ∧ IntType (modeT (cW memW).mx) 32 true ∧ modeT (cW memF).mx = 6 ∧
    (∀ i ∈ [Instr.atomAdd (.v 63) (.a 2) 1 31, .atomMin (.v 63) (.a 2) 1 31, .atomMax (.v 63) (.a 2) 1 31, .atomAnd (.v 63) (.a 2) 1 31, .atomOr (.v 63) (.a 2) 1 31,
        .atomXor (.v 63) (.a 2) 1 31, .atomXchg (.v 63) (.a 2) 1 31, .atomInc (.v 63) (.a 2) 1 31, .atomCas (.v 63) (.a 2) 1 30],
      (cW memP).Allowed i true [.v 63, .a 2, .v 31, .v 30] ∧ (cW memN).Allowed i true [.v 63, .a 2, .v 31, .v 30]) ∧
    (cW memN).Allocated [.v 63, .a 2, .v 31, .v 30] ∧ (cW memP).core.runWave 2 = false ∧
    (cW memP).Allocated [.v 63, .a 2, .v 31, .v 30] ∧ (cW memP).Full [.v 63, .a 2, .v 31, .v 30] ∧ (cW memP).NoOverflow (.a 2) ∧
    (cW memP).hit ≠ 0 ∧
    (cW memP).Reaches .atomic needAtomic 1 4 (threadsOf (cW memP).hit) ((cW memP).ea 1 (.a 2)) (locOf (cW memP) needAtomic 1 ((cW memP).ea 1 (.a 2))) ∧
    (∀ i ∈ [Instr.atomAdd (.s 0) .zero 0 31, .atomMin (.s 0) .zero 0 31, .atomMax (.s 0) .zero 0 31, .atomAnd (.s 0) .zero 0 31, .atomOr (.s 0) .zero 0 31,
        .atomXor (.s 0) .zero 0 31, .atomXchg (.s 0) .zero 0 31, .atomInc (.s 0) .zero 0 31, .atomCas (.s 0) .zero 0 30],
      (cW memW).Allowed i true [.s 0, .zero, .s 31, .s 30] ∧ (cW memK).Allowed i true [.s 0, .zero, .s 31, .s 30]) ∧
    guardIsP (cW memK).mx = false ∧ (cW memK).act = (cW memK).live ∧
    (cW memW).Full [.s 0, .zero, .s 31, .s 30] ∧ guardIsP (cW memW).mx = false ∧ (cW memW).act = (cW memW).live ∧ (cW memW).kOn = true ∧ (cW memW).NoOverflow .zero ∧
    (cW memW).Reaches .atomic needAtomic 0 4 [0] ((cW memW).ea 0 .zero) (locOf (cW memW) needAtomic 0 ((cW memW).ea 0 .zero)) ∧
    (cW memF).Allowed (.atomFadd (.v 63) (.a 2) 1 31) true [.v 63, .a 2, .v 31] ∧ (cW memF).hit ≠ 0 ∧
    (cW memF).Reaches .atomic needAtomic 1 4 (threadsOf (cW memF).hit) ((cW memF).ea 1 (.a 2)) (locOf (cW memF) needAtomic 1 ((cW memF).ea 1 (.a 2))) := by
  refine ⟨fun f hf => ?_, by unfold IntType; decide, by unfold IntType; decide, by decide,
    fun i hi => ⟨allowed_of (by revert i; decide +kernel), allowed_of (by revert i; decide +kernel)⟩, allocated_of rfl, by decide, allocated_of rfl,
    full_of rfl, noOverflow_a2 rfl, by decide, reaches_of (by decide +kernel),
    fun i hi => ⟨allowed_of (by revert i; decide +kernel), allowed_of (by revert i; decide +kernel)⟩, by decide, by decide, full_of rfl,
    by decide, by decide, by decide, noOverflow_zero, reaches_of (by decide +kernel), allowed_of rfl, by decide, reaches_of (by decide +kernel)⟩
  simp only [List.mem_cons, List.not_mem_nil, or_false] at hf
  rcases hf with rfl | rfl | rfl | rfl | rfl
  all_goals exact ⟨issues_cx rfl rfl, by decide, by decide⟩

/-- The global base at an address, under the guard p2. -/
def memAt (base : Nat) : Wave → Wave := fun w => (memP w).putB 0 ⟨BitVec.ofNat 64 base, 0⟩
/-- The same, under the guard that is always true. -/
def memUni (base : Nat) : Wave → Wave := fun w => (memW w).putB 0 ⟨BitVec.ofNat 64 base, 0⟩
/-- a2 near the end of the core group's allocation in S, so that threads 8 and on lie beyond it. -/
def memSpf : Wave → Wave := fun w => (memP w).putA 2 ⟨0x3FFE0, 4, false⟩
/-- a2 with OV, under MODE.AOT = 1. -/
def memOv : Wave → Wave := fun w => onSlices (fun x => { x with modem := x.modem ||| 1 }) ((memP w).putA 2 ⟨0x40, 4, true⟩)
/-- A machine whose range cache maps the register apertures. -/
def apertures (s : State) : State := s.updCore 0 (fun k => { k with rc := [{ loadRange 1 with nc := true }, { loadRange 2 with nc := true }] })
/-- A machine whose stage 1 grants reading alone. -/
def readable (s : State) : State := s.updCore 0 (fun k => { k with rc := [{ loadRange 1 with perm := needRead }, loadRange 2] })

/-- Traps of accesses of four bytes per thread at `[b + a2]`: state, base register, cause, lowest thread, stage 2 and mask. -/
abbrev TrapCase := State × Fin 8 × Cause × Nat × Bool × Lanes
/-- SPF, ALF, TRF and PRV. -/
def trapCases : List TrapCase :=
  [(stW memSpf, 1, .spf, 16, false, 0xFFFF0000), (stW (memAt 0x100001), 0, .alf, 0, false, 0xFFFF00FF), (stW (memAt (2 ^ 40)), 0, .trf, 0, true, 0xFFFF00FF),
   (apertures (stW (memAt (apBase + 0x14 - 0x40))), 0, .prv, 0, false, 0x00000001)]
/-- PMF beside them. -/
def storeCases : List TrapCase := (readable (stW (memAt 0x100000)), 0, .pmf, 0, false, 0xFFFF00FF) :: trapCases
/-- A case meets what is said of a varying access of a kind. -/
def caseB (k : AccKind) (need : BitVec 4) (full : List Operand) (i : Fin 8 → Instr) (uniform : Bool) (ops : List Operand) (e : TrapCase) : Bool :=
  let c := cx e.1 0
  (e.1.wave? 2).isSome && decide (e.1.act = some (2, 0)) && decide (c.hit ≠ 0) && !(c.r.a.getD 2 ⟨0, 0, false⟩).ov && fullB c full
  && allowedB c (i e.2.1) uniform ops && allocatedB c ops && !guardReserved c.mx && !modemReserved c.mm
  && raisesB c k need e.2.1 4 (threadsOf c.hit) (c.ea e.2.1 (.a 2)) e.2.2.1 e.2.2.2.1 e.2.2.2.2.1 e.2.2.2.2.2
/-- What such a case meets. -/
def Case (k : AccKind) (need : BitVec 4) (full : List Operand) (i : Fin 8 → Instr) (uniform : Bool) (ops : List Operand) (e : TrapCase) : Prop :=
  let c := cx e.1 0
  Issues e.1 c ∧ c.hit ≠ 0 ∧ c.NoOverflow (.a 2) ∧ c.Full full ∧ c.Allowed (i e.2.1) uniform ops ∧ c.Allocated ops ∧
    guardReserved c.mx = false ∧ modemReserved c.mm = false ∧
    c.Raises k need e.2.1 4 (threadsOf c.hit) (c.ea e.2.1 (.a 2)) e.2.2.1 e.2.2.2.1 e.2.2.2.2.1 e.2.2.2.2.2
theorem case_of {k : AccKind} {need : BitVec 4} {full : List Operand} {i : Fin 8 → Instr} {uniform : Bool} {ops : List Operand} {e : TrapCase}
    (h : caseB k need full i uniform ops e = true) : Case k need full i uniform ops e := by
  simp only [caseB, Bool.and_eq_true, decide_eq_true_eq, Bool.not_eq_true'] at h
  obtain ⟨⟨⟨⟨⟨⟨⟨⟨⟨h1, h2⟩, h3⟩, h4⟩, h5⟩, h6⟩, h7⟩, h8⟩, h9⟩, h10⟩ := h
  exact ⟨issues_cx h1 h2, h3, noOverflow_a2 h4, full_of h5, allowed_of h6, allocated_of h7, h8, h9, raises_of h10⟩

theorem witness_LoadsTrap :
    (∀ e ∈ trapCases, Case .load needRead [.a 2] (fun b => .ld (.v 5) (.a 2) b 2 false false) false [.v 5, .a 2] e ∧
      Case .atomic needRead [.a 2] (fun b => .lda (.v 5) (.a 2) b) true [.v 5, .a 2] e) ∧
    Issues (stW memOv) (cW memOv) ∧ (cW memOv).hit ≠ 0 ∧ (cW memOv).Overflows (.a 2) ∧
    (cW memOv).Allowed (.ld (.v 5) (.a 2) 1 2 false false) false [.v 5, .a 2] ∧ (cW memOv).Allowed (.lda (.v 5) (.a 2) 1) true [.v 5, .a 2] ∧
    (∀ y ∈ [(0x100001, Cause.alf, false), (2 ^ 40, .trf, true)], let c := cW (memUni y.1)
      Issues (stW (memUni y.1)) c ∧ c.Allowed (.ldu (.s 28) .zero 0 2 false false) true [.s 28, .zero] ∧ guardIsP c.mx = false ∧ c.act = c.live ∧
      c.kOn = true ∧ c.Full [.zero] ∧ c.Raises .load needRead 0 4 [0] (c.ea 0 .zero) y.2.1 0 y.2.2 1 ∧
      c.Allowed (.lda (.s 28) .zero 0) true [.s 28, .zero] ∧ modemReserved c.mm = false ∧ c.Raises .atomic needRead 0 4 [0] (c.ea 0 .zero) y.2.1 0 y.2.2 1) :=
  ⟨fun e he => ⟨case_of (by revert e; decide +kernel), case_of (by revert e; decide +kernel)⟩, issues_cx rfl rfl, by decide, ⟨2, rfl, by decide, by decide⟩,
    allowed_of rfl, allowed_of rfl, fun y hy => ⟨issues_cx (by revert y; decide +kernel) (by revert y; decide +kernel), allowed_of (by revert y; decide +kernel),
      by revert y; decide +kernel, by revert y; decide +kernel, by revert y; decide +kernel, full_of (by revert y; decide +kernel),
      raises_of (by revert y; decide +kernel), allowed_of (by revert y; decide +kernel), by revert y; decide +kernel, raises_of (by revert y; decide +kernel)⟩⟩

theorem witness_StoresTrap :
    (∀ e ∈ storeCases, Case .store needWrite [.a 2, .v 5] (fun b => .st (.v 5) (.a 2) b 2 false) false [.v 5, .a 2] e ∧
      Case .atomic needWrite [.v 5, .a 2] (fun b => .sta (.v 5) (.a 2) b) true [.v 5, .a 2, .v 5] e) ∧
    (cW memOv).Allowed (.st (.v 5) (.a 2) 1 2 false) false [.v 5, .a 2] ∧ (cW memOv).Allowed (.sta (.v 5) (.a 2) 1) true [.v 5, .a 2, .v 5] ∧
    (∀ y ∈ [(0x100001, Cause.alf, false), (2 ^ 40, .trf, true)], let c := cW (memUni y.1)
      c.Allowed (.stu (.s 28) .zero 0 2 false false) true [.s 28, .zero] ∧ c.kOn = true ∧ c.Full [.zero, .s 28] ∧
      c.Raises .store needWrite 0 4 [0] (c.ea 0 .zero) y.2.1 0 y.2.2 1 ∧ c.Allowed (.sta (.s 28) .zero 0) true [.s 28, .zero, .s 28] ∧
      c.Raises .atomic needWrite 0 4 [0] (c.ea 0 .zero) y.2.1 0 y.2.2 1) :=
  ⟨fun e he => ⟨case_of (by revert e; decide +kernel), case_of (by revert e; decide +kernel)⟩, allowed_of rfl, allowed_of rfl,
    fun y hy => ⟨allowed_of (by revert y; decide +kernel), by revert y; decide +kernel, full_of (by revert y; decide +kernel),
      raises_of (by revert y; decide +kernel), allowed_of (by revert y; decide +kernel), raises_of (by revert y; decide +kernel)⟩⟩

theorem witness_AtomicsTrap :
    (∀ e ∈ storeCases, Case .atomic needAtomic [.a 2, .v 31, .v 30] (fun b => .atomAdd (.v 63) (.a 2) b 31) true [.v 63, .a 2, .v 31] e ∧
      Case .atomic needAtomic [.a 2, .v 31, .v 30] (fun b => .atomCas (.v 63) (.a 2) b 30) true [.v 63, .a 2, .v 30, .v 31] e) ∧
    (cW memOv).Allowed (.atomXor (.v 63) (.a 2) 1 31) true [.v 63, .a 2, .v 31] ∧
    (∀ y ∈ [(0x100001, Cause.alf, false), (2 ^ 40, .trf, true)], let c := cW (memUni y.1)
      c.Allowed (.atomInc (.s 28) .zero 0 31) true [.s 28, .zero, .s 31] ∧ c.Full [.zero, .s 31] ∧
      c.Raises .atomic needAtomic 0 4 [0] (c.ea 0 .zero) y.2.1 0 y.2.2 1) :=
  ⟨fun e he => ⟨case_of (by revert e; decide +kernel), case_of (by revert e; decide +kernel)⟩, allowed_of rfl,
    fun y hy => ⟨allowed_of (by revert y; decide +kernel), full_of (by revert y; decide +kernel), raises_of (by revert y; decide +kernel)⟩⟩

/-- The state after an instruction. -/
def run (s : State) (i : Instr) : State := match exec i s with
  | .next t => t
  | .fault _ => s
  | .refused _ => s
/-- The newest access of the loaded wave. -/
def lastAcc (s : State) : Access := ((s.wave? 2).bind (fun w => w.inflight.getLast?)).getD default
/-- The loaded wave. -/
def wOf (s : State) : Wave := (s.wave? 2).getD default
/-- b1 is the S base, and p1 is true in thread 3 alone. -/
def oneLane : Wave → Wave := fun w => mode 0b00010 0 0 0 (setP 1 8 (memW w))
/-- A load, an atomic, a store and an atomic write of one thread in flight. -/
def flying (i : Instr) : State := run (stW oneLane) i
/-- The accesses of the loaded wave become a peer's, at endpoint 0. -/
def toPeer (s : State) : State :=
  s.updWave 2 (fun w => { w with inflight := w.inflight.map (fun y => { y with pieces := y.pieces.map (fun p => { p with loc := peerBase + p.loc % 64 }) }) })
/-- A load from another device. -/
def peerLoad : State := toPeer (flying (.ld (.v 5) (.a 2) 1 2 false false))
/-- A uniform load, a uniform atomic and a uniform store in flight, and a load of three sectors. -/
def flyingU (i : Instr) : State := run (stW memW) i
/-- A walk of cluster 0 for core 0. -/
def walking : State := st.updCluster 0 (fun k => { k with walks := [{ ent := loadRange 1, cores := [0], joined := [] }] })
/-- The wave of the happenings, its newest access, and that they are there. -/
def InFlight (s : State) : Prop := s.wave? 2 = some (wOf s) ∧ (wOf s).inflight.find? (fun y => decide (y.id = (lastAcc s).id)) = some (lastAcc s)
theorem witness_AccessesArePerformed :
    (∀ s ∈ [flying (.ld (.v 5) (.a 2) 1 2 false false), flying (.atomAdd (.v 63) (.a 2) 1 31), flying (.st (.v 5) (.a 2) 1 2 false),
        flying (.sta (.v 5) (.a 2) 1), flyingU (.ldu (.s 4) .zero 1 1 true false), flyingU (.atomCas (.s 4) .zero 1 30), flyingU (.stu (.s 4) .zero 1 3 false false)],
      InFlight s ∧ s.mayPerform 2 (wOf s) (lastAcc s) (lastAcc s).pieces = true ∧ (lastAcc s).pieces.length = 1 ∧
        sectorPieces (lastAcc s).pieces 0 = (lastAcc s).pieces ∧
        ∀ p ∈ (lastAcc s).pieces, (lastAcc s).pieces[0]? = some p ∧ isAperture p.loc = false ∧ isPeer p.loc = false ∧ p.t < 32 ∧ p.n ∈ [2, 4, 8] ∧
          s.poisonAt p.n p.loc = none ∧ p.got = none ∧ p.word = 0 ∧ p.data < 2 ^ 32 ∧ p.data2 < 2 ^ 32 ∧
          s.racing (s.readerOf 2 (wOf s) (lastAcc s) p) p.loc p.n = false) ∧
    (let s := run (stW memP) (.ld (.v 5) (.a 2) 0 2 false false)
     InFlight s ∧ (lastAcc s).op = .load false false ∧ (lastAcc s).pieces.length = 24 ∧ (sectorPieces (lastAcc s).pieces 0).length = 8 ∧
      s.mayPerform 2 (wOf s) (lastAcc s) (sectorPieces (lastAcc s).pieces 0) = true) ∧
    (let s := flying (.ld (.v 5) (.a 2) 0 2 false false)
     InFlight s ∧ sectorPieces (lastAcc s).pieces 0 = (lastAcc s).pieces ∧ (lastAcc s).pieces.length = 1 ∧
      s.mayPerform 2 (wOf s) (lastAcc s) (lastAcc s).pieces = true ∧ ∀ p ∈ (lastAcc s).pieces, p.loc + p.n ≤ hbmBytes ∧ p.cache = true ∧ p.got = none ∧ p.n = 4) ∧
    ((lastAcc (flying (.ld (.v 5) (.a 2) 1 2 false false))).op = .load false false ∧ (lastAcc (flying (.ld (.v 5) (.a 2) 1 2 false false))).dst = some (.v 5) ∧
      (lastAcc (flyingU (.ldu (.s 4) .zero 1 1 true false))).op = .load true false ∧ (lastAcc (flyingU (.ldu (.s 4) .zero 1 1 true false))).dst = some (.s 4) ∧
      (lastAcc (flying (.atomAdd (.v 63) (.a 2) 1 31))).op = .atomic .add 0 0 ∧ (lastAcc (flyingU (.atomCas (.s 4) .zero 1 30))).op = .atomic .cas 0 0 ∧
      (lastAcc (flying (.st (.v 5) (.a 2) 1 2 false))).op = .store false ∧ (lastAcc (flying (.sta (.v 5) (.a 2) 1))).op = .atomic .write 0 0) ∧
    (let s := toPeer (flying (.st (.v 5) (.a 2) 1 2 false))
     InFlight s ∧ (lastAcc s).isStore = true ∧ (lastAcc s).sent = none ∧ ∃ p ∈ (lastAcc s).pieces, isPeer p.loc = true) ∧
    (∀ cl ∈ [0], ((walking.cluster cl).walks.take 32)[0]? = some { ent := loadRange 1, cores := [0], joined := [] }) ∧
    (∀ s ∈ [peerLoad, toPeer (flyingU (.ldu (.s 4) .zero 1 1 true false)), toPeer (run hs (.ldu (.s 4) .zero 0 1 true false))],
      InFlight s ∧ ((lastAcc s).pieces.find? (fun p => isPeer p.loc)).isSome = true ∧ (wOf s).hidden = none ∧ (wOf s).st.finished (lastAcc s).lead = false) ∧
    (lastAcc peerLoad).uni = false ∧ (lastAcc (flyingU (.ldu (.s 4) .zero 1 1 true false))).uni = true ∧
    ((wOf (run hs (.ldu (.s 4) .zero 0 1 true false))).st.trap.map (·.running)) = some true := by
  refine ⟨fun s hs => ?_, ?_, ?_, ?_, ?_, ?_, fun s hs => ?_, ?_, ?_, ?_⟩
  · unfold InFlight; revert s; decide +kernel
  · unfold InFlight; decide +kernel
  · unfold InFlight; decide +kernel
  · decide +kernel
  · unfold InFlight; decide +kernel
  · decide
  · unfold InFlight; revert s; decide +kernel
  · decide +kernel
  · decide +kernel
  · decide +kernel

/-- A copy queue of partition 0, ring at 0x20000 and header at 0x30000. -/
def cq0 : Queue :=
  { owner := 0, reg := 0, ring := 0x20000, size := 64, hdr := 0x30000, err := 0x31000, space := 0, st := .run, ridx := 0, jobs := [], quarantine := [],
    prio := 0, eff := 0, passed := 0, fwd := none, tvec := 0, joined := [], evRing := none, seen := 0, badJoined := false, nodes := [], evs := [] }
/-- The loaded wave beside copy queue 5. -/
def qs (x : Queue) (f : Wave → Wave) : State := { stW f with copyQs := [(5, x)] }
/-- A queue with 63 slots of 64 taken, and one with all. -/
def taken (n : Nat) (s : State) : State := { s with mem := (s.mem.writeBytes 0x30000 (natLe 4 (100 + n))).writeBytes 0x30040 (natLe 4 100) }
/-- A batch is open and one is complete. -/
def batches (w : Wave) : Wave := { w with st := { w.st with opn := 2, dne := 1 }, done := [{ batch := 1, scope := 4, who := { wave := none, cores := [] }, evs := [] }] }
/-- A batch that is not complete. -/
def batches2 (w : Wave) : Wave := { w with st := { w.st with opn := 3, dne := 1 } }

theorem witness_PostsAndBatches :
    Issues st c0 ∧ guardReserved c0.mx = false ∧ guardIsP c0.mx = false ∧ c0.kOn = true ∧ c0.Allowed (.cqPost 3 (.imm 5) 16) false [.imm 5] ∧
    modemReserved c0.mm = false ∧ c0.act = c0.live ∧ c0.Full (.imm 5 :: regSpan (.s 16) 16) ∧ Map.find? st.copyQs 5 = none ∧
    Issues (taken 63 (qs cq0 id)) (cx (taken 63 (qs cq0 id)) 0) ∧ Map.find? (taken 63 (qs cq0 id)).copyQs 5 = some cq0 ∧
    cq0.owner = (taken 63 (qs cq0 id)).partOfWave (cx (taken 63 (qs cq0 id)) 0).w ∧ (cx (taken 63 (qs cq0 id)) 0).w.st.openCnt < 65535 ∧
    (cx (taken 63 (qs cq0 id)) 0).w.inflight = [] ∧ (taken 63 (qs cq0 id)).portOk 0 cq0.hdr = true ∧
    (taken 63 (qs cq0 id)).portOk 0 (cq0.slot ((taken 63 (qs cq0 id)).widx cq0)) = true ∧ isAperture cq0.hdr = false ∧
    (taken 63 (qs cq0 id)).spansAway [(cq0.hdr, 128), (cq0.slot ((taken 63 (qs cq0 id)).widx cq0), 64)] = false ∧
    (let x := { cq0 with hdr := peerBase }
     Issues (qs x id) (cx (qs x id) 0) ∧ (qs x id).spansAway [(x.hdr, 128), (x.slot ((qs x id).widx x), 64)] = true) ∧
    isAperture (cq0.slot ((taken 63 (qs cq0 id)).widx cq0)) = false ∧
    ((taken 63 (qs cq0 id)).widx cq0 - BitVec.ofNat 32 ((taken 63 (qs cq0 id)).mem.readN (cq0.hdr + 64) 4)).toNat = 63 ∧
    Issues (qs { cq0 with st := .stop } id) (cx (qs { cq0 with st := .stop } id) 0) ∧
    Issues (stW batches) (cW batches) ∧ (cW batches).Allowed (.batClose (.s 31)) false [.s 31] ∧ (cW batches).act = (cW batches).live ∧ (cW batches).Full [.s 31] ∧
    ((cW batches).w.st.opn - (cW batches).w.st.dne).toNat < 32767 ∧ (cW batches).w.posted = [] ∧
    (cW batches).Allowed (.waitBat (.imm 1)) false [.imm 1] ∧ (cW batches).Full [.imm 1] ∧ ((cW batches).w.st.dne - 1).toNat < 32768 ∧
    Issues (stW batches2) (cW batches2) ∧ (cW batches2).w.st.opn = 3 ∧ ¬ ((cW batches2).w.st.dne - 2).toNat < 32768 ∧
    (∀ e ∈ (cW batches).w.done, ((cW batches).w.st.dne - BitVec.ofNat 16 e.batch).toNat < 32768 ∧ e.scope ≥ 2) ∧ (cW batches).w.core < 512 ∧
    ((taken 64 (qs cq0 id)).widx cq0 - BitVec.ofNat 32 ((taken 64 (qs cq0 id)).mem.readN (cq0.hdr + 64) 4)).toNat = 64 ∧
    Issues (taken 64 (qs cq0 id)) (cx (taken 64 (qs cq0 id)) 0) ∧
    (let s : State := { flying (.ld (.v 5) (.a 2) 1 2 false false) with copyQs := [(5, cq0)] }
     Issues s (cx s 0) ∧ (cx s 0).Allowed (.cqPost 3 (.imm 5) 16) false [.imm 5] ∧ ¬ (∀ a ∈ (cx s 0).w.inflight, a.threads &&& (cx s 0).act = 0 ∨ a.nonOrdering = true ∨ (a.sent.isSome = true ∧ max (modeSC (cx s 0).mm) 2 ≠ 4))) ∧
    (let s := qs cq0 (fun w => { w with st := { w.st with openCnt := 65535 } })
     Issues s (cx s 0) ∧ (cx s 0).w.st.openCnt ≥ 65535) := by
  and_intros <;> first
    | exact issues_cx (by decide +kernel) (by decide +kernel)
    | exact allowed_of (by decide +kernel)
    | exact full_of rfl
    | decide +kernel

/-- Handle 31 of the loaded wave's core group. -/
def h31 (st : HState) (owner : Option Nat) (waiters : List (Nat × Nat × Bool)) : Handle :=
  { sp := true, off := 0, szm1 := 31, owner := owner, fills := 0, st := st, grp := some c0.w.group, waiters := waiters, evs := [] }
/-- The loaded wave beside a handle and a baton. -/
def hbS (x : Handle) (baton : Option Nat) : State :=
  (stW id).updCore 0 (fun k => { k with handles := Map.insert k.handles 31 x, baton := baton })
/-- Its context. -/
abbrev hbC (x : Handle) (baton : Option Nat) : Ctx := cx (hbS x baton) 0
theorem witness_HandlesAndBaton :
    (∀ x ∈ [h31 .free none [], h31 .filling (some 2) [], h31 .full none [], h31 .draining (some 2) [(3, 0, true)], h31 .draining (some 3) []],
      ∀ bt ∈ [none, some 2, some 3], Issues (hbS x bt) (hbC x bt) ∧ guardReserved (hbC x bt).mx = false ∧ guardIsP (hbC x bt).mx = false ∧ (hbC x bt).kOn = true ∧
      (hbC x bt).Full [.imm 31, .s 31, .s 20] ∧ (hbC x bt).core.handle 31 = x ∧ x.grp = some (hbC x bt).w.group ∧ ((hbC x bt).r.uni (.imm 31)).toNat = 31 ∧
      (∀ i ∈ [Instr.hbFill (.imm 31), .hbAcq (.imm 31), .hbRel (.imm 31), .hbState (.s 31) (.imm 31), .hbCfg (.imm 31) (.s 20)],
        (hbC x bt).Allowed i false [.s 31, .imm 31, .s 20]) ∧
      (hbC x bt).act = (hbC x bt).live ∧ (hbC x bt).w.inflight = [] ∧ (hbC x bt).w.tp = none ∧ (hbC x bt).w.st.fullMember 0 = true ∧
      (hbC x bt).w.st.inHandler = false ∧ (hbC x bt).core.baton = bt) ∧
    (∀ x ∈ [h31 .draining (some 2) [(3, 0, true)], { h31 .draining (some 2) [] with grp := none, fills := 2 }, h31 .filling none []],
      (∀ u y, x.owner = some u → (hbS x none).wave? u = some y → y.quad < 4 ∧ y.slot < 16)) ∧
    (let x := h31 .filling none []
     Issues (hbS x none) (hbC x none) ∧ (hbC x none).core.handle 31 = x ∧ x.st = .filling ∧ x.owner = none ∧ x.fills = 0 ∧ (hbC x none).w.inflight = []) ∧
    (let s := (flyingU (.ldu (.s 4) .zero 1 1 true false)).updCore 0 (fun k => { k with handles := Map.insert k.handles 31 (h31 .draining (some 2) []) })
     Issues s (cx s 0) ∧ (cx s 0).Allowed (.hbRel (.imm 31)) false [.imm 31] ∧ guardIsP (cx s 0).mx = false ∧ (cx s 0).kOn = true ∧ (cx s 0).w.inflight ≠ [] ∧ (∀ y ∈ (cx s 0).w.inflight, y.sent = none) ∧ (cx s 0).core.handle 31 = h31 .draining (some 2) []) ∧
    (let s := (stW memK).updCore 0 (fun k => { k with baton := some 2 })
     Issues s (cx s 0) ∧ (cx s 0).kOn = false ∧ guardReserved (cx s 0).mx = false ∧ guardIsP (cx s 0).mx = false ∧ (cx s 0).act = (cx s 0).live ∧
       ∀ i ∈ [Instr.hbFill (.imm 31), .hbAcq (.imm 31), .hbRel (.imm 31), .hbState (.s 31) (.imm 31), .hbCfg (.imm 31) (.s 20)],
        (cx s 0).Allowed i false [.s 31, .imm 31, .s 20]) ∧
    (∀ x ∈ [{ h31 .full none [] with grp := some (c0.w.group + 1) }, { h31 .free none [] with grp := none }],
      Issues (hbS x none) (hbC x none) ∧ (hbC x none).core.handle 31 = x ∧ x.grp ≠ some (hbC x none).w.group ∧ (hbC x none).kOn = true) ∧
    ((hbC (h31 .free none []) none).r.uni (.imm 32)).toNat = 32 ∧ (hbC (h31 .free none []) none).act = (hbC (h31 .free none []) none).live ∧
    (∀ i ∈ [Instr.hbFill (.imm 32), .hbAcq (.imm 32), .hbRel (.imm 32), .hbState (.s 31) (.imm 32), .hbCfg (.imm 32) (.s 20)],
      (hbC (h31 .free none []) none).Allowed i false [.s 31, .imm 32, .s 20]) ∧ (hbC (h31 .free none []) none).Full [.imm 32, .s 20] ∧
    Issues (stW voteShort) (cW voteShort) ∧ (cW voteShort).w.tp = none ∧ (cW voteShort).w.st.inHandler = false ∧ (cW voteShort).w.st.fullMember 0 = false ∧
    (∀ v : Word, v ∈ [0x80000000#32, 0xBFE00000#32] → v.extractLsb' 0 11 = 0 ∧ ∃ g, st.group? c0.w.group = some g ∧
      inAlloc g (if v.getLsbD 31 then 2 else 1) (256 * (v.extractLsb' 21 10).toNat) (256 * ((v.extractLsb' 11 10).toNat + 1)) = true) := by
  refine ⟨fun x hx bt hb => ?_, fun x hx u y hu hy => ?_, ⟨issues_cx rfl rfl, by decide +kernel, rfl, rfl, rfl, by decide⟩,
    ⟨issues_cx (by decide +kernel) (by decide +kernel), allowed_of (by decide +kernel), by decide +kernel⟩,
    ⟨issues_cx rfl rfl, by decide +kernel, by decide +kernel, by decide +kernel, by decide +kernel, fun i hi => allowed_of (by revert i; decide +kernel)⟩,
    fun x hx => ⟨issues_cx (by revert x; decide +kernel) rfl, by revert x; decide +kernel⟩, by decide, by decide,
    fun i hi => allowed_of (by revert i; decide +kernel), full_of rfl,
    issues_cx rfl rfl, by decide, by decide, by decide, fun v hv => ?_⟩
  · have h1 : ((hbS x bt).wave? 2).isSome = true := by revert bt; revert x; decide +kernel
    and_intros <;> first
      | exact issues_cx h1 rfl
      | (clear h1; revert bt; revert x; decide +kernel)
      | (refine full_of ?_; clear h1; revert bt; revert x; decide +kernel)
      | (intro i hi; refine allowed_of ?_; clear h1; revert i; revert bt; revert x; decide +kernel)
  · have h1 : x.owner = some 2 ∨ x.owner = none := by clear hu hy; revert x; decide
    rcases h1 with h1 | h1 <;> rw [h1] at hu <;> cases hu
    have h2 : (hbS x none).wave? 2 = some c0.w := by clear hy h1; revert x; decide +kernel
    rw [h2] at hy; cases hy; decide
  · simp only [List.mem_cons, List.not_mem_nil, or_false] at hv
    rcases hv with rfl | rfl
    all_goals exact ⟨by decide, (st.group? c0.w.group).getD default, rfl, by decide +kernel⟩

/-- The loaded wave with the baton or without, handle 31 draining to it, and seven operations queued. -/
def engS (baton : Option Nat) (n : Nat) : State :=
  (hbS (h31 .draining (some 2) []) baton).updCore 0 (fun k => { k with eng := List.replicate n (EngOp.new 2 c0.w.group (.zero 0)) })
/-- Its context. -/
abbrev engC (baton : Option Nat) (n : Nat) : Ctx := cx (engS baton n) 0
/-- A store to the A buffer in flight, and a write to it that no `mfence` has ordered. -/
def aStore : Access :=
  { (default : Access) with id := 0, op := .store false, threads := 1, pieces := [{ (default : Piece) with loc := locA 0, n := 4 }] }
/-- The wave with both. -/
def inA (w : Wave) : Wave := { w with inflight := [aStore] }
/-- A write of another wave to the A buffer, and a tile row that the loaded wave's operation wrote. -/
def aEv : Ev := { id := 7, loc := locA 0 + 255, n := 4, src := some 3, ts := 1, acc := 0, who := { wave := some 3, cores := [0] }, scope := 1 }
def tainted : State := ({ engS (some 2) 0 with evs := [aEv] }).updCore 0 (fun k => { k with unsync := [(0, 2, 5)] })
theorem witness_EngineInstructions :
    (∀ e ∈ [(none, 0), (some 2, 0), (some 2, 7), (some 2, 8)], let c := engC e.1 e.2
      Issues (engS e.1 e.2) c ∧ c.w.st.inHandler = false ∧ c.w.st.ganged 0 = true ∧ c.live = BitVec.allOnes 32 ∧ c.act = BitVec.allOnes 32 ∧ c.w.st.fullMember 0 = true ∧
      c.Full [.v 63, .s 31, .imm 24] ∧ c.Allocated [.v 63] ∧ c.core.engCount = e.2 ∧ c.core.baton = e.1 ∧ c.core.handle 31 = h31 .draining (some 2) [] ∧
      (∀ i ∈ [Instr.mmaBi8 24 31 3 63 1 2 true, .mmaBi4 24 31 3 63 1 2 true, .mmaI8w 24 31 3 63 1 2 false, .mzero (.imm 24), .mnorm (.s 31) (.imm 24), .mwsel (.imm 3)],
        c.Allowed i false [.v 63, .s 31]) ∧
      (engS e.1 e.2).bankOk c.w.group 3 = true ∧ (engS e.1 e.2).tileOk c.w.group 24 = true ∧ (c.r.uni (.imm 24)).toNat = 24 ∧ c.w.tp = none ∧ c.w.posted = []) ∧
    rowsOf 2 * 256 ≤ 256 * ((h31 .draining (some 2) []).szm1.toNat + 1) ∧ (h31 .draining (some 2) []).sp = true ∧ (Instr.fenceEngines 4).wf = true ∧
    (∃ o ∈ (engC (some 2) 7).core.eng, o.wave = 2) ∧ (engC (some 2) 0).core.eng = [] ∧ (engC (some 2) 0).w.inflight = [] ∧ (engS (some 2) 0).evs = [] ∧
    (engC (some 2) 0).w.core < 512 ∧ (engC (some 2) 0).r.allFull = true ∧ (engC (some 2) 7).core.bankAhead = none ∧
    Issues (stW (emptyV 0)) (cW (emptyV 0)) ∧ (cW (emptyV 0)).r.allFull = false ∧ Issues (stW inA) (cW inA) ∧
    (∃ y ∈ (cW inA).w.inflight, y.storesA = true ∧ y.threads ≠ 0 ∧ y.sent = none) ∧ (cW inA).core.eng = [] ∧
    Issues tainted (cx tainted 0) ∧ isA aEv.loc = true ∧ overlap (locA 0) 256 aEv.loc aEv.n = true ∧ aEv.src ≠ some 2 ∧
    aEv.id ∉ (cx tainted 0).w.st.mfenceSeen ∧ (∃ x ∈ (cx tainted 0).core.unsync, x.2.1 = 2) := by
  refine ⟨fun e he => ?_, ?_⟩
  rotate_left
  · and_intros <;> first | exact ⟨aStore, by decide, by decide⟩ | exact issues_cx rfl rfl | decide +kernel
  have h1 : ((engS e.1 e.2).wave? 2).isSome = true := by revert e; decide +kernel
  refine ⟨issues_cx h1 rfl, ?_, ?_, ?_, ?_, ?_, full_of ?_, allocated_of ?_, ?_, ?_, ?_, fun i hi => allowed_of ?_, ?_, ?_, ?_, ?_, ?_⟩
  all_goals first
    | (clear h1; revert i; revert e; decide +kernel)
    | (clear h1; revert e; decide +kernel)

theorem witness_BlocksAddExactly :
    let ms : List Int := [2 ^ 46, 3]
    let cs : List Contrib := [{ b := 2 ^ 46 - 1, n := some (-12), at_ := 0 }, { b := -7, n := some (-12), at_ := 1 }]
    (∀ x ∈ cs, x.n = some (-12) ∧ x.at_ < ms.length ∧ (ms.getD x.at_ 0).natAbs + x.b.natAbs < 2 ^ 47) ∧
      (accBlock cs (ms, some (-12))).1 = [2 ^ 47 - 1, -4] := by decide +kernel
/-- A contribution that takes one halving, one that is aligned upwards, and one of a scale of 0xFF; and the same onto an empty tile. -/
theorem witness_BlocksHalve :
    let ms : List Int := [2 ^ 47 - 1, 3, 5]
    let cs : List Contrib := [{ b := 1, n := some (-12), at_ := 0 }, { b := -7, n := some 256, at_ := 1 }, { b := 0, n := none, at_ := 2 }]
    (∀ m ∈ ms, m.natAbs < 2 ^ 47) ∧ (cs.map (·.at_)).Nodup ∧
    (∀ x ∈ cs, x.at_ < ms.length ∧ x.b.natAbs < 2 ^ 32 ∧ (x.n = none → x.b = 0) ∧ ∀ n, x.n = some n → -266 ≤ n ∧ n ≤ 256) ∧
    (∃ x ∈ cs, x.n = some (-12)) ∧ (∀ x ∈ cs, ∀ n, x.n = some n → -12 ≤ n) ∧
    accBlock [{ b := 1, n := some (-12), at_ := 0 }] ([2 ^ 47 - 1], some (-12)) = ([2 ^ 46], some (-11)) ∧
    accBlock [{ b := 0, n := none, at_ := 0 }] ([0], none) = ([0], none) := by
  refine ⟨by decide, by decide, fun x hx => ?_, by decide, fun x hx n hn => ?_, by decide +kernel, by decide +kernel⟩
  · simp only [List.mem_cons, List.not_mem_nil, or_false] at hx
    rcases hx with rfl | rfl | rfl
    all_goals exact ⟨by decide, by decide, by decide, fun n hn => by first
      | (cases hn; decide)
      | cases hn⟩
  · simp only [List.mem_cons, List.not_mem_nil, or_false] at hx
    rcases hx with rfl | rfl | rfl
    all_goals first
      | (cases hn; decide)
      | cases hn

/-- Core 0 with one operation in its engine's queue, and with its clocks stopped. -/
def engHead (kind : EngKind) (started : Bool) : State :=
  st.updCore 0 (fun k => { k with eng := [{ (EngOp.new 2 c0.w.group kind) with started := started }], image := some 3 })
theorem witness_EngineCompletes :
    (∀ e ∈ [(EngKind.load 3 false, true), (.word 0 24 31 3 1 32 true 63, false), (.word 1 0 0 3 0 8 false 0, true), (.zero 24, false), (.norm 24 31, false)],
      ∃ o, ((engHead e.1 e.2).core 0).eng = [o] ∧ o.kind = e.1 ∧ o.started = e.2 ∧ ((engHead e.1 e.2).core 0).imgTaint = [] ∧
        ((engHead e.1 e.2).core 0).image = some 3 ∧ ((engHead e.1 e.2).wave? o.wave).isSome = true) ∧
    (∀ x ∈ ((engHead (.word 0 24 31 3 1 32 true 63) false).core 0).eng, x.started = true → ∀ y, x.kind.half? = some y → y.1 ≠ 1) ∧
    ((engHead (.zero 24) false).col (0 / 4)).stopped = false ∧
    (((engHead (.zero 24) false).updCol 0 (fun k => { k with stopped := true })).col (0 / 4)).stopped = true := by
  refine ⟨fun e he => ⟨{ (EngOp.new 2 c0.w.group e.1) with started := e.2 }, ?_⟩, ?_, by decide +kernel, by decide +kernel⟩
  · revert e; decide +kernel
  · intro x hx hs
    have : x.started = false := by revert x; decide +kernel
    rw [this] at hs; cases hs

/-- A word whose operands stand as they were issued: two rows of ones in the A region, weights of 1 in the image, every scale 2^0. -/
def wordOp : EngOp :=
  { (EngOp.new 2 c0.w.group (.word 0 24 31 3 1 2 true 63)) with
    started := true, computed := true, aLoc := locA 0, aLen := 512, scale := List.replicate 32 0x7F7F7F7F }
/-- Core 0 with a tile of exponent -12 or none, the word at the front of its queue, the image of bank 3. -/
def wordS (e : Option Int) : State :=
  let s := st.updCore 0 (fun k => { k with eng := [wordOp], image := some 3, ce := (e.map (fun x => (24, x))).toList })
  { s with mem := s.mem.writeBytes (locA 0) (List.replicate 8 1) }
theorem witness_WordCompletes :
    ∀ e ∈ [none, some (-12)], ((wordS e).core 0).eng = [wordOp] ∧ wordOp.started = true ∧ wordOp.aLen = 2 * 256 ∧ wordOp.scale.length = 32 ∧ wordOp.taint = false ∧
      (wordS e).poison = [] ∧ (wordS e).wave? wordOp.wave = some (wOf (wordS e)) ∧ (∀ x ∈ (wOf (wordS e)).watch, x.id = wordOp.id → x.hit = false) ∧
      Map.find? ((wordS e).core 0).ce 24 = e ∧ (∀ y, e = some y → -32768 ≤ y) := by
  intro e he
  refine ⟨?_, rfl, rfl, by decide, rfl, ?_, ?_, ?_, ?_, ?_⟩
  all_goals (revert e; decide +kernel)
/-- Two words ahead of a load, of which one has computed; and tiles to normalise. -/
theorem witness_LoadStarts :
    let o : EngOp := EngOp.new 2 c0.w.group (.load 2 true)
    let ws : List EngOp := [wordOp, EngOp.new 2 c0.w.group (.zero 3)]
    let s := st.updCore 0 (fun k => { k with eng := ws ++ [o] })
    (s.core 0).eng = ws ++ o :: [] ∧ (∀ x ∈ ws, x.kind.isLoad = false ∧ (x.kind.half? = none ∨ (x.started = true ∧ x.computed = true))) ∧
      o.kind = .load 2 true ∧ o.started = false ∧
    let n := (engHead (.norm 24 31) false).updCore 0 (fun k => { k with ce := [(24, -12)], cq := [24] })
    (n.core 0).eng.map (·.kind) = [.norm 24 31] ∧ Map.find? (n.core 0).ce 24 = some (-12) ∧ (n.core 0).cq.contains 24 = true := by decide +kernel

/-- Barrier 31 of the loaded wave's core group, which has two participants. -/
def bar (cnt : Nat) (arr : List Nat) (psn : Bool) (waiters : List (Nat × Nat)) : Barrier :=
  { val := true, own := c0.w.group, exp := 2, cnt := cnt, mask := 0xFFFFFFFF, psn := psn, arr := arr, part := [2, 3], waiters := waiters, evs := [] }
/-- The loaded wave beside a barrier. -/
def barS (x : Barrier) : State := st.updCore 0 (fun k => { k with bars := Map.insert k.bars 31 x })
/-- The handler of a trap of slices 0 to 3, while the others have not finished. -/
def partHandler : State := (stW (andThen withHandler parted)).takeTrap 2 0 swt
/-- An empty mask register s6. -/
def emptyS (w : Wave) : Wave := w.setRegs { w.st.regs with sEmpty := 1#32 <<< 6 }
theorem witness_Barriers :
    (∀ x ∈ [Barrier.init, bar 0 [] false [], bar 1 [3] false [(3, 0)], bar 1 [2] false [], bar 0 [] true [], { bar 0 [] false [] with own := 9 },
        { bar 0 [] false [] with mask := 1 }, { bar 0 [] false [] with part := [3] }],
      Issues (barS x) (cx (barS x) 0) ∧ (cx (barS x) 0).w.tp = none ∧ (cx (barS x) 0).Full [.imm 0x7F] ∧ (cx (barS x) 0).w.st.inHandler = false ∧
      (cx (barS x) 0).core.bar 31 = x ∧ (cx (barS x) 0).w.inflight = [] ∧ (cx (barS x) 0).w.st.fullMember 0 = true ∧
      (cx (barS x) 0).r.uni (.imm 0x7F) = 0xFFFFFFFF ∧ (cx (barS x) 0).act = 0xFFFFFFFF &&& (cx (barS x) 0).live ∧ (cx (barS x) 0).w.group = c0.w.group) ∧
    clsOf (.imm 0x7F) = .uni ∧ (Instr.barSync 31 (.imm 0x7F)).wf = true ∧
    ((bar 0 [] false []).cnt + 1 ≠ (bar 0 [] false []).exp) ∧ (bar 1 [3] false [(3, 0)]).cnt + 1 = (bar 1 [3] false [(3, 0)]).exp ∧
    2 ∉ (bar 1 [3] false [(3, 0)]).arr ∧ 2 ∈ (bar 1 [2] false []).arr ∧ Barrier.init.val = false ∧
    (let s : State := { barS (bar 1 [3] false [(3, 0)]) with waves := Map.insert (barS (bar 1 [3] false [(3, 0)])).waves 3 { c0.w with slot := 1 } }
     Issues s (cx s 0) ∧ (cx s 0).core.bar 31 = bar 1 [3] false [(3, 0)] ∧ s.wave? 3 = some { c0.w with slot := 1 } ∧ c0.w.st.trap = none ∧
      ∀ e ∈ (bar 1 [3] false [(3, 0)]).waiters, e.1 ≠ 2) ∧
    (let s := (flyingU (.ldu (.s 4) .zero 1 1 true false)).updCore 0 (fun k => { k with bars := Map.insert k.bars 31 (bar 0 [] false []) })
     Issues s (cx s 0) ∧ (cx s 0).core.bar 31 = bar 0 [] false [] ∧ ¬ (∀ a ∈ (cx s 0).w.inflight, a.threads &&& (cx s 0).act = 0 ∨ a.nonOrdering = true ∨ a.sent.isSome = true)) ∧
    (Issues partHandler (cx partHandler 0) ∧ (cx partHandler 0).w.tp = none ∧ (cx partHandler 0).w.st.inHandler = true ∧
      (cx partHandler 0).w.st.scopeSlices ≠ (cx partHandler 0).w.st.unfinished) ∧
    (Issues (stW voteShort) (cW voteShort) ∧ (cW voteShort).w.st.fullMember 0 = false ∧ (cW voteShort).w.st.inHandler = false) ∧
    (Issues (stW emptyS) (cW emptyS) ∧ (cW emptyS).r.empty (.s 6) = true ∧ dstOf (.s 6) = some (.s 6) ∧ (Instr.barSync 31 (.s 6)).wf = true ∧
      (cW emptyS).w.st.fullMember 0 = true) := by
  refine ⟨fun x hx => ?_, by decide, by decide, by decide, by decide, by decide, by decide, by decide,
    ⟨issues_cx (by decide +kernel) rfl, by decide +kernel, by decide +kernel, by decide, by decide⟩,
    ⟨issues_cx (by decide +kernel) (by decide +kernel), by decide +kernel, by decide +kernel⟩, ⟨issues_cx (by decide +kernel) rfl, by decide +kernel⟩,
    ⟨issues_cx rfl rfl, by decide, by decide⟩, ⟨issues_cx rfl rfl, by decide⟩⟩
  have h1 : ((barS x).wave? 2).isSome = true := by revert x; decide +kernel
  refine ⟨issues_cx h1 rfl, ?_, full_of ?_, ?_, ?_, ?_, ?_, ?_, ?_, ?_⟩
  all_goals (clear h1; revert x; decide +kernel)

/-- No access, a store, and a load in flight. -/
theorem witness_Fences :
    (∀ sc ∈ [(0 : Fin 8), 1, 4], (Instr.fenceAll sc).wf = true) ∧ Issues st c0 ∧ c0.w.inflight = [] ∧ c0.w.core < 512 ∧
    (∀ i ∈ [Instr.st (.v 5) (.a 2) 1 2 false, .ld (.v 5) (.a 2) 1 2 false false, .atomAdd (.v 63) (.a 2) 1 31],
      Issues (flying i) (cx (flying i) 0) ∧ (cx (flying i) 0).w.inflight = [lastAcc (flying i)] ∧ (lastAcc (flying i)).sent = none ∧
        (lastAcc (flying i)).threads &&& (cx (flying i) 0).act ≠ 0) ∧
    (lastAcc (flying (.st (.v 5) (.a 2) 1 2 false))).op = .store false ∧ (lastAcc (flying (.ld (.v 5) (.a 2) 1 2 false false))).op = .load false false ∧
    (lastAcc (flying (.atomAdd (.v 63) (.a 2) 1 31))).op = .atomic .add 0 0 := by
  refine ⟨by decide, issues_c0, by decide, by decide, fun i hi => ?_, by decide +kernel, by decide +kernel, by decide +kernel⟩
  have h1 : ((flying i).wave? 2).isSome = true := by revert i; decide +kernel
  have h2 : (flying i).act = some (2, 0) := by clear h1; revert i; decide +kernel
  refine ⟨issues_cx h1 h2, ?_, ?_, ?_⟩
  all_goals (clear h1 h2; revert i; decide +kernel)

/-- A region is open, a checkpoint attempt has waited, and the wave is pinned, or not; its open batch holds no packet that writes global memory. -/
def ckS (region : Bool) (attempt : Option Nat) (pinned : Bool) (full : Bool) : State := stW (fun w =>
  { w with st := { w.st with region := region, openGlob := !full }, attempt := attempt, pinned := pinned })
theorem witness_RegionsAndCheckpoints :
    (∀ e ∈ [(false, none, false), (false, some 0, false), (true, none, false), (true, some 1024, false), (false, none, true)],
      let s := ckS e.1 e.2.1 e.2.2 true
      Issues s (cx s 0) ∧ (cx s 0).w.tp = none ∧ (cx s 0).w.attempt = e.2.1 ∧ ((cx s 0).put (cx s 0).w).clean 2 = true ∧ s.clean 2 = true ∧
      (cx s 0).w.st.fullMember 0 = true ∧ ((cx s 0).w.st.slice 0).mac = none ∧ (cx s 0).core.inCall 2 = false ∧ (cx s 0).core.baton ≠ some 2 ∧ (cx s 0).w.posted = [] ∧
      (cx s 0).r.allFull = true ∧ (cx s 0).w.st.region = e.1 ∧ (cx s 0).w.pinned = e.2.2 ∧ (s.core 0).run = none ∧ (cx s 0).w.st.openGlob = false ∧ (cx s 0).w.hidden = none) ∧
    (let s := ckS true none false false
     Issues s (cx s 0) ∧ (cx s 0).w.st.fullMember 0 = true ∧ (cx s 0).r.allFull = true ∧ (cx s 0).w.st.region = true ∧ (cx s 0).w.st.openGlob = true ∧
       (cx s 0).w.hidden = none) ∧
    (let s := (ckS true none false true).updCore 0 (fun k => { k with baton := some 2 })
     Issues s (cx s 0) ∧ (cx s 0).w.st.fullMember 0 = true ∧ (cx s 0).r.allFull = true ∧ (cx s 0).w.st.region = true ∧ (cx s 0).core.baton = some 2 ∧
       ((cx s 0).put (cx s 0).w).clean 2 = false) ∧
    (let s := st.updCore 0 (fun k => { k with attemptDue := true })
     (s.core 0).attemptDue = true ∧ (s.core 0).run = none ∧ s.wave? 2 = some (wOf s) ∧ (wOf s).tp = none ∧ (wOf s).hidden = none ∧ (wOf s).core = 0) ∧
    (st.core 0).attemptDue = false := by
  refine ⟨fun e he => ?_, ⟨issues_cx rfl rfl, by decide +kernel⟩, ⟨issues_cx rfl rfl, by decide +kernel⟩, by decide +kernel, by decide +kernel⟩
  have h1 : ((ckS e.1 e.2.1 e.2.2 true).wave? 2).isSome = true := by revert e; decide +kernel
  refine ⟨issues_cx h1 rfl, ?_⟩
  clear h1; revert e; decide +kernel

theorem witness_BalanceInstructions :
    Issues st c0 ∧ (∀ o ∈ [(Operand.zero, Operand.imm 9), (.imm 50, .zero), (.imm 0x7F, .imm 1)], c0.Allowed (.balBurn o.1 o.2) false [o.1, o.2] ∧ c0.Full [o.1, o.2]) ∧
    c0.w.tp = none ∧ (∃ w, (stW (fun w => { w with st := { w.st with burn := 9, burnLeft := 1 } })).wave? 2 = some w ∧ w.st.burnLeft = 1 ∧
      (st.col (w.core / 4)).stopped = false ∧ ((st.updCol 0 (fun k => { k with stopped := true })).col (w.core / 4)).stopped = true) ∧ (1 : BitVec 24) ≠ 0 ∧
    (∀ o ∈ [Operand.imm 0x7F, .imm 4, .imm 5, .zero], c0.Allowed (.balShunt (.s 31) o) false [.s 31, o] ∧ c0.Full [.s 31, o]) ∧ guardReserved c0.mx = false ∧
    guardIsP c0.mx = false ∧ c0.kOn = true ∧ c0.w.st.fullMember 0 = true ∧ c0.w.st.inHandler = false ∧
    Issues (stW memK) (cW memK) ∧ (cW memK).Allowed (.balShunt (.s 31) (.imm 5)) false [.s 31, .imm 5] ∧ guardReserved (cW memK).mx = false ∧
    guardIsP (cW memK).mx = false ∧ (cW memK).kOn = false ∧ (cW memK).w.st.fullMember 0 = true ∧ (cW memK).w.st.inHandler = false :=
  ⟨issues_c0, fun o ho => ⟨allowed_of (by revert o; decide +kernel), full_of (by revert o; decide +kernel)⟩, by decide, ⟨_, rfl, by decide⟩, by decide,
    fun o ho => ⟨allowed_of (by revert o; decide +kernel), full_of (by revert o; decide +kernel)⟩, by decide, by decide, by decide, by decide, by decide,
    issues_cx rfl rfl, allowed_of rfl, by decide, by decide, by decide, by decide, by decide⟩

/-- A descriptor: entries 0x100, 0x200 and 0x300, fan-out 2, frames of 64 bytes, 64 levels, L 32, an arena of 64 KiB at S offset 0x1000. -/
def desc : Nat := 0x100 + 0x200 * 2 ^ 32 + 0x300 * 2 ^ 64 + 2 ^ 96 + 3 * 2 ^ 99 + 64 * 2 ^ 105 + 32 * 2 ^ 112 + 2 ^ 124 + 0x1000 * 2 ^ 128 + 0x10000 * 2 ^ 192
/-- The loaded wave with a descriptor at S offset 0, which b6 names. -/
def recS (x : Nat) : State := let s := stW (fun w => w.putB 6 ⟨0, 1⟩); { s with mem := s.mem.writeN (locS 0) 64 x }
/-- The same beside another wave of the core group. -/
def recTwo : State := let s := recS desc; { s with waves := Map.insert s.waves 3 { (wOf s) with slot := 1 } }
/-- The same with the other wave at a `rec.run`. -/
def recAll (x : Nat) (a b : Word) : State :=
  let s := recS x
  { s with waves := Map.insert s.waves 3 { (onSlices (fun y => { y with wait := some (.recRun a b) }) (wOf s)) with slot := 1 } }
/-- What `rec.run` needs of a state. -/
def recReady (s : State) : Prop := Issues s (cx s 0) ∧ (cx s 0).Allowed (.recRun .zero .zero) false [.zero, .zero] ∧ (cx s 0).Full [.zero, .imm 4] ∧
  (cx s 0).w.st.ganged 0 = true ∧ (cx s 0).live = BitVec.allOnes 32 ∧ (cx s 0).act = BitVec.allOnes 32 ∧ (cx s 0).w.st.trap = none ∧ (cx s 0).w.ending = false ∧
  Map.sorted s.waves = true ∧ (cx s 0).w.hidden = none ∧ (cx s 0).core.inCall 2 = false ∧ (∀ r, (cx s 0).core.run = some r → r.grp ≠ (cx s 0).w.group) ∧
  ((cx s 0).base 6).tag = 1
/-- The same with the engine in another core group's run, and with a store in flight. -/
def recBusy : State := (recS desc).updCore 0 (fun k => { k with run := some (runOf 9 0 0 0 0 []) })
def recStoring : State := (recS desc).updWave 2 (fun w => { w with inflight := [aStore] })
theorem witness_RunsStart :
    (∀ s ∈ [recS desc, recS (desc + 2 ^ 126), recTwo, recBusy, recStoring, recAll desc 0 0, recAll (desc + 2 ^ 126) 0 0, recAll desc 0 16], recReady s) ∧
    (∀ s ∈ [recS desc, recS (desc + 2 ^ 126), recTwo, recAll desc 0 0, recAll (desc + 2 ^ 126) 0 0, recAll desc 0 16],
      (cx s 0).core.run = none ∧ (cx s 0).core.runQ = [] ∧ (cx s 0).w.group ∉ (cx s 0).core.runBack ∧ (cx s 0).w.inflight = []) ∧
    (∀ s ∈ [recAll desc 0 0, recAll (desc + 2 ^ 126) 0 0, recAll desc 0 16], (s.groupWaves (cx s 0).w.group).map (·.1) = [2, 3] ∧
      ∀ e ∈ s.groupWaves (cx s 0).w.group, e.1 ≠ 2 → e.2.atRecRun.isSome = true) ∧
    (∀ s ∈ [recAll desc 0 0, recAll (desc + 2 ^ 126) 0 0], (∀ e ∈ s.groupWaves (cx s 0).w.group, e.1 ≠ 2 → e.2.atRecRun = some (0, 0)) ∧
      ∃ g, s.group? (cx s 0).w.group = some g ∧ inAlloc g 1 0 64 = true) ∧
    (∃ e ∈ (recAll desc 0 16).groupWaves (cx (recAll desc 0 16) 0).w.group, e.1 ≠ 2 ∧ e.2.atRecRun ≠ some (0, 0)) ∧
    descOk ((recAll desc 0 0).mem.readN (locS 0 + 0) 64) 0 2 0x40000 = true ∧ descOk ((recAll (desc + 2 ^ 126) 0 0).mem.readN (locS 0 + 0) 64) 0 2 0x40000 = false ∧
    (((cx (recAll desc 0 0) 0).r.uni .zero), ((cx (recAll desc 0 0) 0).r.uni .zero)) = (0, 0) ∧
    ((cx recBusy 0).core.run.isSome = true ∧ (cx recBusy 0).w.group ∉ (cx recBusy 0).core.runQ ∧ recBusy.groupWaves (cx recBusy 0).w.group = [(2, (cx recBusy 0).w)] ∧
      (cx recBusy 0).w.inflight = []) ∧
    (∃ y ∈ (cx recStoring 0).w.inflight, y.writes = true ∧ y.sent = none) ∧
    (∃ e ∈ recTwo.groupWaves (cx recTwo 0).w.group, e.1 ≠ 2 ∧ e.2.atRecRun = none) ∧
    (∀ s ∈ [recS desc, recS (desc + 2 ^ 126)], s.groupWaves (cx s 0).w.group = [(2, (cx s 0).w)] ∧
      ∃ g, s.group? (cx s 0).w.group = some g ∧ inAlloc g 1 0 64 = true) ∧
    descOk ((recS desc).mem.readN (locS 0 + 0) 64) 0 1 0x40000 = true ∧ descOk ((recS (desc + 2 ^ 126)).mem.readN (locS 0 + 0) 64) 0 1 0x40000 = false ∧
    ((((cx (recS desc) 0).base 6).base + ((cx (recS desc) 0).r.uni (.imm 4)).signExtend 64).toNat % 64 ≠ 0) ∧
    (((cx (recS desc) 0).base 6).base + ((cx (recS desc) 0).r.uni .zero).signExtend 64).toNat = 0 := by
  refine ⟨fun s hs => ?_, fun s hs => ?_, fun s hs => ?_, fun s hs => ⟨?_, (s.group? (cx s 0).w.group).getD default, ?_, ?_⟩,
    ⟨(3, ((recAll desc 0 16).wave? 3).getD default), by decide +kernel, by decide, by decide +kernel⟩, by decide +kernel, by decide +kernel, by decide +kernel,
    by decide +kernel, ⟨aStore, by decide +kernel, by decide, by decide⟩, ⟨(3, { (wOf (recS desc)) with slot := 1 }), by decide +kernel, by decide, by decide +kernel⟩, fun s hs => ⟨?_, (s.group? (cx s 0).w.group).getD default, ?_, ?_⟩,
    by decide +kernel, by decide +kernel, by decide +kernel, by decide +kernel⟩
  · have h1 : (s.wave? 2).isSome = true := by revert s; decide +kernel
    have h2 : s.act = some (2, 0) := by clear h1; revert s; decide +kernel
    have h3 : (cx s 0).core.run = none ∨ (cx s 0).core.run = some (runOf 9 0 0 0 0 []) := by clear h1 h2; revert s; decide +kernel
    have h4 : (cx s 0).w.group ≠ 9 := by clear h1 h2 h3; revert s; decide +kernel
    refine ⟨issues_cx h1 h2, allowed_of ?_, full_of ?_, ?_, ?_, ?_, ?_, ?_, ?_, ?_, ?_, fun r hr => ?_, ?_⟩
    rotate_right
    rotate_right
    · rcases h3 with h3 | h3 <;> rw [h3] at hr <;> cases hr
      exact fun h => h4 h.symm
    all_goals (clear h1 h2 h3 h4; revert s; decide +kernel)
  all_goals (revert s; decide +kernel)

/-- A run has started. -/
def runS : State := run (recS desc) (.recRun .zero .zero)
/-- Its run. -/
def theRun (s : State) : RunSt := ((s.core 0).run).getD { (runOf 0 0 0 0 0 []) with fan := 0 }
theorem witness_RoutineCalls :
    (runS.core 0).run = some (theRun runS) ∧ runS.wave? 2 = some (wOf runS) ∧ (theRun runS).place 2 = some 0 ∧ runS.mayCall (theRun runS) 2 (wOf runS) = true ∧
    ((theRun runS).nextCall 0).isSome = true ∧ (theRun runS).snaps[0]?.isSome = true := by decide +kernel

/-- The root's divide routine runs. -/
def callS : State := run runS (.routineCall 0 2)
/-- A base routine of two frames runs. -/
def baseS : State := callS.updCore 0 (fun k => { k with run := k.run.map (fun r => { r with
  calls := [(2, { rout := .base, frames := [(0, { off := 0, depth := 0, kid := 0, cnt := 0, stride := 0 }), (1, { off := 64, depth := 1, kid := 0, cnt := 0, stride := 0 })],
                  returned := 0 })] }) })
/-- Both of its threads are active, and another wave is in a call. -/
def lastS : State := (baseS.updWave 2 (fun w => { w with st := w.st.updSlices [0] (fun _ x => { x with mask := 3 }) })).updCore 0 (fun k =>
  { k with run := k.run.map (fun r => { r with calls := r.calls ++ [(3, { rout := .base, frames := [], returned := 0 })] }) })
/-- The call. -/
def theCall (s : State) : RCall := (Map.find? (theRun s).calls 2).getD { rout := .base, frames := [], returned := 0 }
/-- The root's divide routine with thread 1 active, which has no frame, as in a handler. -/
def strayS : State := callS.updWave 2 (fun w => { w with st := w.st.updSlices [0] (fun _ x => { x with mask := 2 }) })
theorem witness_StrayThread :
    Issues strayS (cx strayS 0) ∧ (cx strayS 0).Allowed (.recChild (.v 63)) false [.v 63] ∧ (cx strayS 0).Allocated [.v 63] ∧ (cx strayS 0).Full [.v 63] ∧
    (cx strayS 0).core.run = some (theRun strayS) ∧ Map.find? (theRun strayS).calls 2 = some (theCall strayS) ∧ (theRun strayS).place 2 = some 0 ∧
    (theCall strayS).rout = .divide ∧ (cx strayS 0).act = 2 ∧ Map.find? (theCall strayS).frames 1 = none := by
  refine ⟨issues_cx (by decide +kernel) (by decide +kernel), allowed_of (by decide +kernel), allocated_of (by decide +kernel), full_of (by decide +kernel), ?_⟩
  decide +kernel
theorem witness_RoutinesRun :
    Issues st c0 ∧ c0.Allowed (.recChild (.v 63)) false [.v 63] ∧ c0.Allocated [.v 63] ∧ c0.Full [.v 63] ∧ c0.core.divideCall 2 = none ∧ c0.core.inCall 2 = false ∧
    c0.Allowed (.recRet (.v 63)) false [.v 63] ∧ c0.Allowed (.recRet (.imm 1)) false [.imm 1] ∧
    Issues callS (cx callS 0) ∧ (cx callS 0).Allowed (.recChild (.v 63)) false [.v 63] ∧ (cx callS 0).Allocated [.v 63] ∧ (cx callS 0).Full [.v 63] ∧
    (cx callS 0).core.run = some (theRun callS) ∧ Map.find? (theRun callS).calls 2 = some (theCall callS) ∧ (theRun callS).place 2 = some 0 ∧
    (theCall callS).rout = .divide ∧ (theRun callS).phase = .div ∧ (cx callS 0).act = 1 ∧
    (∃ f, Map.find? (theCall callS).frames 0 = some f ∧ f.cnt < (theRun callS).fan ∧ f.depth ≠ (theRun callS).dmax ∧
      (theRun callS).levelEnd + (0 * (theRun callS).fan + f.cnt) * (theRun callS).fb + (theRun callS).fb ≤ (theRun callS).asize) ∧
    Issues baseS (cx baseS 0) ∧ (cx baseS 0).core.run = some (theRun baseS) ∧ Map.find? (theRun baseS).calls 2 = some (theCall baseS) ∧ (cx baseS 0).r.allFull = true ∧ (cx baseS 0).w.inflight = [] ∧
    (theCall baseS).rout ≠ .divide ∧ (∀ i, i < 8 → ((cx baseS 0).w.st.slice i).regangMask = none) ∧
    (∃ e ∈ (theCall baseS).frames, ((theCall baseS).returned ||| (cx baseS 0).act).getLsbD e.1 = false) ∧
    (Issues callS (cx callS 0) ∧ (cx callS 0).w.inflight = [] ∧ (cx callS 0).r.allFull = true ∧ (cx callS 0).Allowed (.recRet .zero) false [.zero] ∧
      ∀ f, Map.find? (theCall callS).frames 0 = some f → ((cx callS 0).r.src .zero 0).toNat = f.cnt) ∧
    (Issues lastS (cx lastS 0) ∧ (cx lastS 0).act = 3 ∧ (cx lastS 0).core.run = some (theRun lastS) ∧ Map.find? (theRun lastS).calls 2 = some (theCall lastS) ∧
      (theRun lastS).place 2 = some 0 ∧ (Map.find? (theRun lastS).calls 3).isSome = true ∧ (theCall lastS).rout ≠ .divide ∧
      ¬ (∃ e ∈ (theCall lastS).frames, ((theCall lastS).returned ||| (cx lastS 0).act).getLsbD e.1 = false) ∧
      ∀ i, i < 8 → ((cx lastS 0).w.st.slice i).regangMask = none) ∧
    (let s := st.updCore 0 (fun k => { k with status := [(c0.w.group, 5)], runEvs := [(c0.w.group, [7])] })
     Issues s (cx s 0) ∧ (cx s 0).core.run = none ∧ Map.find? (cx s 0).core.runEvs (cx s 0).w.group = some [7]) ∧
    c0.Allowed (.recWait (.s 31)) false [.s 31] ∧ guardReserved c0.mx = false ∧ guardIsP c0.mx = false ∧ c0.kOn = true ∧ c0.act = c0.live ∧ c0.Full [.s 31] ∧
    c0.core.run = none ∧ c0.w.group ∉ c0.core.runBack ∧
    (let s := st.updCore 0 (fun k => { k with runBack := [c0.w.group] })
     Issues s (cx s 0) ∧ (cx s 0).Allowed (.recWait (.s 31)) false [.s 31] ∧ (cx s 0).w.group ∈ (cx s 0).core.runBack) ∧ Issues runS (cx runS 0) ∧ (cx runS 0).core.run = some (theRun runS) ∧ (theRun runS).grp = (cx runS 0).w.group ∧
    (cx runS 0).Allowed (.recWait (.s 31)) false [.s 31] ∧ (cx runS 0).act = (cx runS 0).live ∧ (cx runS 0).Full [.s 31] := by
  and_intros <;> first
    | exact issues_cx (by decide +kernel) (by decide +kernel)
    | exact allowed_of (by decide +kernel)
    | exact allocated_of (by decide +kernel)
    | exact full_of (by decide +kernel)
    | exact ⟨(Map.find? (theCall callS).frames 0).getD default, by decide +kernel, by decide +kernel⟩
    | decide +kernel

/-- The loaded wave with children, a depth, or with no room beside it. -/
def kidS (depth : Nat) (children : List Nat) (room : Bool) : State :=
  let s := stW (fun w => { w with st := { w.st with depth := depth, children := children }, valloc := if room then 64 else 9999 })
  s
theorem witness_ChildWaves :
    Issues st c0 ∧ (2 : Nat) < st.nextWave ∧ guardReserved c0.mx = false ∧ guardIsP c0.mx = false ∧ c0.kOn = true ∧ c0.act = c0.live ∧
    c0.Allowed (.spawn (.k 2) (.imm 4) .zero) false [.k 2, .imm 4, .zero] ∧ c0.Full [.imm 4, .zero] ∧ (c0.r.uni (.imm 4)).toNat % 4 = 0 ∧ (c0.r.uni (.imm 2)).toNat % 4 ≠ 0 ∧
    c0.w.st.depth < 4 ∧ c0.w.inflight = [] ∧ (st.roomFor c0.w.core c0.w.valloc).isSome = true ∧
    Issues (kidS 4 [] true) (cx (kidS 4 [] true) 0) ∧ (cx (kidS 4 [] true) 0).w.st.depth ≥ 4 ∧
    Issues (kidS 3 [] false) (cx (kidS 3 [] false) 0) ∧ (kidS 3 [] false).roomFor 0 (cx (kidS 3 [] false) 0).w.valloc = none ∧
    c0.Allowed (.cjoin (.s 31)) false [.s 31] ∧ c0.Full [.s 31] ∧ c0.w.st.children = [] ∧ Issues (kidS 0 [9] true) (cx (kidS 0 [9] true) 0) ∧
    (cx (kidS 0 [9] true) 0).w.st.children ≠ [] ∧ (∃ w, (stW (fun w => { w with ending := true })).wave? 2 = some w ∧ w.hidden = none ∧ w.ending = true ∧ w.inflight = []) := by
  and_intros <;> first | exact issues_c0 | exact issues_cx rfl rfl | exact allowed_of rfl | exact full_of rfl | exact ⟨_, rfl, by decide⟩ | decide +kernel

/-- One table that maps every address to itself, for both stages of partition 0. -/
def mapped (s : State) : State :=
  { s with mem := (s.mem.writeN 0x80000 32 (0x80100 + 2 ^ 64)).writeN 0x80100 16 ((2 ^ 36 - 1) * 2 ^ 56 + 15 * 2 ^ 14 + 1),
           live := { s.live with stage2 := [(0, 0x80000)] } }
/-- Bytes of a packet: its first word, TO, FROM, XCNT and the word of HANDLE and TCORE. -/
def packet (h to_ from_ x hd : Nat) : List Byte :=
  natLe 4 h ++ natLe 4 0 ++ natLe 8 to_ ++ natLe 8 from_ ++ natLe 4 x ++ natLe 4 0 ++ natLe 8 0 ++ natLe 8 0 ++ natLe 4 hd ++ natLe 4 0 ++ natLe 8 0
/-- COPY, FILL of handle 31, REDUCE-COPY, an adding SIGNAL and VOID; and a COPY with a reserved field. -/
def pkCopy : List Byte := packet (2 ^ 31 + 2 ^ 28) 0x90000 0x91000 16 0
def pkFill : List Byte := packet (2 ^ 31 + 2 * 2 ^ 28 + 2 * 2 ^ 24) 0 0x91000 16 (31 * 2 ^ 9)
def pkReduce : List Byte := packet (2 ^ 31 + 3 * 2 ^ 28) 0x90000 0x91000 4 0
def pkSignal : List Byte := packet (2 ^ 31 + 4 * 2 ^ 28 + 2 ^ 26) 0x90000 7 0 0
def pkVoid : List Byte := packet (2 ^ 31) 0 0 0 0
def pkBad : List Byte := packet (2 ^ 31 + 2 ^ 28) 0x90000 0x91000 16 (31 * 2 ^ 9)
/-- Copy queue 5 with a packet at its head, and WIDX. -/
def cqS (b : List Byte) (widx : Nat) : State :=
  let s := mapped (hbS (h31 .filling (some 2) []) none)
  { s with copyQs := [(5, { cq0 with space := 0x80000 })], mem := (s.mem.writeBytes 0x20000 b).writeBytes 0x30000 (natLe 4 widx) }
/-- The queue. -/
def cq5 (s : State) : Queue := (Map.find? s.copyQs 5).getD cq0
/-- What a packet's check answers, as a plan. -/
def planB (s : State) (b : List Byte) : Option Plan := match s.checkPacket (s.headSpace (cq5 s)) 0 b with
  | .ok p => some p
  | .error _ => none
theorem checkPacket_of {s : State} {b : List Byte} {p : Plan} (h : planB s b = some p) : s.checkPacket (s.headSpace (cq5 s)) 0 b = .ok p := by
  unfold planB at h
  split at h
  · rename_i q hq; cases h; exact hq
  · cases h
/-- The code and address with which a packet fails. -/
def failB (s : State) (b : List Byte) : Option (Nat × Nat) := match s.checkPacket (s.headSpace (cq5 s)) 0 b with
  | .ok _ => none
  | .error e => some e
theorem failPacket_of {s : State} {b : List Byte} {e : Nat × Nat} (h : failB s b = some e) : s.checkPacket (s.headSpace (cq5 s)) 0 b = .error e := by
  unfold failB at h
  split at h
  · cases h
  · rename_i q hq; cases h; exact hq
/-- `Apart` for spans of HBM and of core 0's S and A buffers, computed. -/
def apartB (s : State) (src dst : List (Nat × Nat)) : Bool :=
  (src ++ dst).all (fun e => decide (e.1 + e.2 ≤ hbmBytes) ||
    decide (locS 0 ≤ e.1 ∧ e.1 + e.2 ≤ locS 0 + 0x40000 ∨ locA 0 ≤ e.1 ∧ e.1 + e.2 ≤ locA 0 + 0x20000)) &&
  decide ((spanLocs src).length = (spanLocs dst).length) && decide (spanLocs dst).Nodup && (spanLocs src).all (fun x => decide (x ∉ spanLocs dst)) &&
  src.all (fun e => s.evs.all (fun x => isA x.loc || !overlap x.loc x.n e.1 e.2))
theorem apart_of {s : State} {src dst : List (Nat × Nat)} (h : apartB s src dst = true) : Apart s src dst := by
  simp only [apartB, Bool.and_eq_true, List.all_eq_true, decide_eq_true_eq, Bool.or_eq_true] at h
  obtain ⟨⟨⟨⟨h1, h2⟩, h3⟩, h4⟩, h5⟩ := h
  refine ⟨fun e he => (h1 e he).imp id (fun h => ⟨0, by decide, h⟩), h2, h3, h4, fun e he x hx ha => ?_⟩
  have h6 := h5 e he x hx
  rw [ha] at h6
  simpa using h6
/-- Copy queue 5 after a change. -/
def cqX (f : Queue → Queue) (s : State) : State := { s with copyQs := [(5, f (cq5 s))] }
/-- The check, the taking and the spans of a packet's plan. -/
def took (b : List Byte) (fill : Option (Nat × Nat)) (loc : Nat) : State :=
  let s := cqS b 1
  (s.engineAcquire 0 (packetOf b).scope).takeCq 5 (cq5 s) b fill true loc []
/-- A second range of addresses, which stage 2 gives to a peer; the ports carry no request. -/
def pkAway : List Byte := packet (2 ^ 31 + 2 ^ 28) (2 ^ 36) 0x91000 16 0
def awayS : State :=
  let s := cqS pkAway 1
  let m := (s.mem.writeN 0x80000 32 (0x80100 + 2 * 2 ^ 64)).writeN 0x80100 16 ((2 ^ 20 - 1) * 2 ^ 56 + 15 * 2 ^ 14 + 1)
  { s with mem := m.writeN 0x80110 16 (2 ^ 20 * 2 ^ 92 + 2 ^ 20 * 2 ^ 20 + 2 ^ 19 + 15 * 2 ^ 14 + 1) }
/-- A table whose two entries overlap; and a store of the loaded wave on its way to where the packet for the peer writes. -/
def undefS : State :=
  let s := cqS pkCopy 1
  let m := (s.mem.writeN 0x80000 32 (0x80100 + 2 * 2 ^ 64)).writeN 0x80110 16 ((2 ^ 36 - 1) * 2 ^ 56 + 15 * 2 ^ 14 + 1)
  { s with mem := m }
def awayLoc : Nat := ((((planB awayS pkAway).getD []).flatMap (·.1)).headD (0, 0)).1
def meetS : State := awayS.updWave 2 (fun w => { w with inflight := [{ (default : Access) with sent := some 0, pieces := [{ (default : Piece) with loc := awayLoc, n := 4 }] }] })
/-- The same with ports that carry requests and an endpoint that does not answer; and an error record that lies with a peer. -/
def deafS : State := { awayS with deaf := [(awayLoc - peerBase) / 2 ^ 42], fabid := 2 ^ 31, portsUp := true }
def errAwayS : State := cqX (fun x => { x with err := peerBase }) (cqS pkBad 1)
/-- A SIGNAL that waits behind a packet and one that is first, a graph's packet, and a packet of the loaded wave. -/
def sigJob (acted : Bool) : Job := { idx := 0, bytes := pkSignal, fill := none, node := none, acted := acted, loc := 0x90000, launch := none, evs := [] }
def posted0 : Posted := { q := 5, idx := 0, batch := 0, reg := 0, scope := 2, glob := true }
theorem witness_CopyPackets :
    (∀ b ∈ [pkCopy, pkFill, pkReduce, pkSignal, pkVoid, pkBad], let s := cqS b 1
      Map.find? s.copyQs 5 = some (cq5 s) ∧ s.portOk 0 (cq5 s).hdr = true ∧ s.portOk 0 ((cq5 s).slot (cq5 s).ridx) = true ∧ s.head? (cq5 s) = some b ∧
      s.mayTake (packetOf b) = true ∧ (cq5 s).jobs = [] ∧ isAperture (cq5 s).err = false ∧ s.reach (cq5 s).hdr = true ∧
      s.spansAway [((cq5 s).err, 32)] = false ∧ (∀ plan ∈ planB s b, s.spansAway plan.pieces = false ∧ s.spansWait (plan.flatMap (·.1)) = false ∧
        ∀ y ∈ plan.pieces, s.deafAt y.1 = false)) ∧
    [pkCopy, pkFill, pkReduce, pkSignal, pkVoid, pkBad].map (fun b => (packetOf b).kind) = [1, 2, 3, 4, 0, 1] ∧
    (cqS pkCopy 1).checkPacket ((cqS pkCopy 1).headSpace (cq5 (cqS pkCopy 1))) 0 pkCopy = .ok [([(0x90000, 16)], [(0x91000, 16)])] ∧
    (cqS pkFill 1).checkPacket ((cqS pkFill 1).headSpace (cq5 (cqS pkFill 1))) 0 pkFill = .ok [([(locA 0, 16)], [(0x91000, 16)])] ∧
    (cqS pkReduce 1).checkPacket ((cqS pkReduce 1).headSpace (cq5 (cqS pkReduce 1))) 0 pkReduce = .ok [([(0x90000, 4)], [(0x91000, 4)])] ∧
    (cqS pkSignal 1).checkPacket ((cqS pkSignal 1).headSpace (cq5 (cqS pkSignal 1))) 0 pkSignal = .ok [([(0x90000, 4)], [])] ∧
    (cqS pkVoid 1).checkPacket ((cqS pkVoid 1).headSpace (cq5 (cqS pkVoid 1))) 0 pkVoid = .ok [] ∧
    (cqS pkBad 1).checkPacket ((cqS pkBad 1).headSpace (cq5 (cqS pkBad 1))) 0 pkBad = .error (3, 0) ∧
    (took pkCopy none 0 |> fun s => Apart s [(0x91000, 16)] [(0x90000, 16)]) ∧
    (took pkFill (some (0, 31)) 0 |> fun s => Apart s [(0x91000, 16)] [(locA 0, 16)]) ∧
    (took pkReduce none 0 |> fun s => Apart s [(0x91000, 4)] [(0x90000, 4)]) ∧ (spanLocs [(0x90000, 4)]).length % 4 = 0 ∧ 0x90000 + 8 ≤ hbmBytes ∧
    (let s := cqS pkCopy 65
     (cq5 s).st ≠ .error ∧ s.portOk 0 (cq5 s).hdr = true ∧ s.reach (cq5 s).hdr = true ∧ ¬s.spansAway [((cq5 s).err, 32)] = true ∧ (s.widx (cq5 s) - (cq5 s).ridx).toNat = 65 ∧ (cq5 s).size = 64) ∧
    (∃ plan, awayS.checkPacket (awayS.headSpace (cq5 awayS)) 0 pkAway = .ok plan ∧ awayS.spansAway plan.pieces = true ∧
      awayS.head? (cq5 awayS) = some pkAway ∧ awayS.mayTake (packetOf pkAway) = true) ∧
    ((errAwayS.checkPacket (errAwayS.headSpace (cq5 errAwayS)) 0 pkBad = .error (3, 0)) ∧ errAwayS.spansAway [((cq5 errAwayS).err, 32)] = true ∧
      errAwayS.head? (cq5 errAwayS) = some pkBad ∧ errAwayS.mayTake (packetOf pkBad) = true) ∧
    ((∃ plan, deafS.checkPacket (deafS.headSpace (cq5 deafS)) 0 pkAway = .ok plan ∧ deafS.spansAway plan.pieces = false ∧
      deafS.spansWait (plan.flatMap (·.1)) = false ∧ ∃ y ∈ plan.pieces, deafS.deafAt y.1 = true) ∧
      deafS.head? (cq5 deafS) = some pkAway ∧ deafS.mayTake (packetOf pkAway) = true) ∧
    ((∃ fa, undefS.checkPacket (undefS.headSpace (cq5 undefS)) 0 pkCopy = .error (0, fa)) ∧ undefS.head? (cq5 undefS) = some pkCopy ∧
      undefS.mayTake (packetOf pkCopy) = true) ∧
    ((∃ plan, meetS.checkPacket (meetS.headSpace (cq5 meetS)) 0 pkAway = .ok plan ∧ meetS.spansWait (plan.flatMap (·.1)) = true) ∧ isPeer awayLoc = true) ∧
    (∀ acted ∈ [true, false], let s := cqX (fun x => { x with jobs := [sigJob acted], ridx := 1 }) (cqS pkSignal 2)
      Map.find? s.copyQs 5 = some (cq5 s) ∧ (cq5 s).jobs = [sigJob acted] ∧ (sigJob acted).loc + 8 ≤ hbmBytes ∧ (cq5 s).job? 0 = some (sigJob acted)) ∧
    (let s := (cqX (fun x => { x with jobs := [sigJob true], ridx := 1 }) (cqS pkSignal 2)).updWave 2 (fun w => { w with posted := [posted0] })
     s.wave? 2 = some (wOf s) ∧
       (wOf s).posted.find? (fun p => decide (p.q = 5) && decide (p.idx = 0) && decide (p.reg = (cq5 s).reg)) = some posted0) ∧
    (let j : Job := { sigJob true with node := some (0, 7, 1) }
     let s : State := { cqX (fun x => { x with jobs := [j], ridx := 1 }) (cqS pkCopy 2) with graphs := [(graphKey 0 7, default)] }
     (cq5 s).job? 0 = some j ∧ j.acted = true ∧ j.fill = none ∧ Map.find? s.graphs (graphKey 0 7) = some default) ∧
    (∀ h ∈ [h31 .filling (some 2) [(3, 0, false)], { h31 .filling none [] with grp := none, fills := 1 }],
      let j : Job := { sigJob true with fill := some (0, 31) }
      let s := (cqX (fun x => { x with jobs := [j], ridx := 1 }) (cqS pkFill 2)).updCore 0 (fun k => { k with handles := Map.insert k.handles 31 h })
      (cq5 s).job? 0 = some j ∧ j.acted = true ∧ (s.core 0).handle 31 = h) := by
  refine ⟨by decide +kernel, by decide +kernel, checkPacket_of (by decide +kernel), checkPacket_of (by decide +kernel), checkPacket_of (by decide +kernel),
    checkPacket_of (by decide +kernel), checkPacket_of (by decide +kernel), failPacket_of (by decide +kernel), apart_of (by decide +kernel),
    apart_of (by decide +kernel), apart_of (by decide +kernel), by decide, by decide, by decide +kernel,
    ⟨(planB awayS pkAway).getD [], checkPacket_of (by decide +kernel), by decide +kernel⟩,
    ⟨failPacket_of (by decide +kernel), by decide +kernel⟩,
    ⟨⟨(planB deafS pkAway).getD [], checkPacket_of (by decide +kernel), by decide +kernel⟩, by decide +kernel⟩,
    ⟨⟨((failB undefS pkCopy).getD (0, 0)).2, failPacket_of (by decide +kernel)⟩, by decide +kernel⟩,
    ⟨⟨(planB meetS pkAway).getD [], checkPacket_of (by decide +kernel), by decide +kernel⟩, by decide +kernel⟩, by decide +kernel, by decide +kernel, by decide +kernel,
    by decide +kernel⟩

/-- Bytes of a LAUNCH of one core group, of a SIGNAL of the value 7, of a VOID, of a GLOAD of graph 7 at 0x60000, and of a VOID with a reserved field. -/
def pkLaunch : List Byte := natLe 4 0x90000000 ++ loadLaunch.bytes.drop 4
def pkWSignal : List Byte := natLe 4 0xA0000000 ++ natLe 4 0 ++ natLe 8 0 ++ natLe 8 0 ++ natLe 8 0 ++ natLe 8 0 ++ natLe 8 0x90000 ++ natLe 8 7 ++ natLe 8 0
def pkWVoid : List Byte := natLe 4 0x80000000 ++ natLe 4 0 ++ natLe 8 0 ++ natLe 8 0 ++ natLe 8 0 ++ natLe 8 0 ++ natLe 8 0 ++ natLe 8 0 ++ natLe 8 0
def pkGload : List Byte := natLe 4 0xB0000000 ++ natLe 4 0 ++ natLe 8 0x60000 ++ natLe 8 0 ++ natLe 8 7 ++ natLe 8 0 ++ natLe 8 0 ++ natLe 8 0 ++ natLe 8 0
def pkWBad : List Byte := pkWVoid.take 63 ++ [1]
/-- A graph of two nodes and an edge: a launch, then a COPY on queue 5; 64 parameter bytes for 0x94000; its completion stores 7 at 0x95000. -/
def gImage : List Byte :=
  natLe 2 2 ++ natLe 2 1 ++ natLe 4 64 ++ natLe 8 0x94000 ++ natLe 8 0x95000 ++ natLe 8 7 ++ natLe 8 0 ++ natLe 8 0 ++ natLe 8 0 ++ natLe 8 0
    ++ pkLaunch ++ (pkCopy.take 4 ++ natLe 4 0x51 ++ pkCopy.drop 8) ++ (natLe 2 0 ++ natLe 2 1) ++ List.replicate 64 0
/-- Work queue 9 with a packet at its head, a forwarding queue 8 to it with the same, and a filter entry. -/
def wqS (b : List Byte) (filter : Bool) : State :=
  let s := mapped st
  let x : Queue := { cq0 with space := 0x80000, seen := 1 }
  { s with workQs := [(8, { x with fwd := some 9 }), (9, x)], kicks := [9],
           mem := ((s.mem.writeBytes 0x20000 b).writeBytes 0x30000 (natLe 4 1)).writeBytes 0x60000 gImage,
           filter := if filter then [(0, 0x80000000 + BitVec.ofNat 32 (9 * 2 ^ 11 + 0xF8))] else [] }
/-- A work queue. -/
def wq (s : State) (q : Nat) : Queue := (Map.find? s.workQs q).getD cq0
/-- The launch that a LAUNCH packet makes. -/
def launchB (s : State) (b : List Byte) : Option Launch := match s.launchOf (wq s 9).owner (wq s 9).space (wq s 9).tvec b (.queue 9 (wq s 9).ridx) with
  | .ok l => some l
  | .error _ => none
theorem launchOf_of {s : State} {b : List Byte} {l : Launch} (h : launchB s b = some l) :
    s.launchOf (wq s 9).owner (wq s 9).space (wq s 9).tvec b (.queue 9 (wq s 9).ridx) = .ok l := by
  unfold launchB at h
  split at h
  · rename_i q hq; cases h; exact hq
  · cases h
/-- The value of a check. -/
def okOf {ε α : Type} : Except ε α → Option α
  | .ok x => some x
  | .error _ => none
theorem ok_of {ε α : Type} {x : Except ε α} {y : α} (h : okOf x = some y) : x = .ok y := by
  cases x with
  | ok z => cases h; rfl
  | error e => cases h
theorem witness_WorkPackets :
    (∀ b ∈ [pkLaunch, pkWSignal, pkWVoid, pkGload, pkWBad], let s := wqS b true
      s.takeover = false ∧ Map.find? s.workQs 9 = some (wq s 9) ∧ 9 ∈ s.kicks ∧ s.headerCode (wq s 9) = 0 ∧ (wq s 9).fwd = none ∧ (wq s 9).jobs = [] ∧
      s.nextPacket (wq s 9) = some (false, b) ∧ s.mayStart (wq s 9) b = true ∧ s.reach (wq s 9).hdr = true ∧ s.spansAway [((wq s 9).err, 32)] = false) ∧
    [pkLaunch, pkWSignal, pkWVoid, pkGload, pkWBad].map (fun b => (workKind b, workMalformed b)) = [(1, false), (2, false), (0, false), (3, false), (0, true)] ∧
    groupsOf pkLaunch ≠ 0 ∧
    (∃ l, (wqS pkLaunch true).launchOf (wq (wqS pkLaunch true) 9).owner (wq (wqS pkLaunch true) 9).space (wq (wqS pkLaunch true) 9).tvec pkLaunch
      (.queue 9 (wq (wqS pkLaunch true) 9).ridx) = .ok l) ∧
    (wqS pkWSignal true).checkAddr 0 0x80000 needWrite 0x90000 8 = .ok [(0x90000, 8)] ∧ isAperture 0x90000 = false ∧
    (wqS pkGload true).graphImage (wq (wqS pkGload true) 9) pkGload = .ok gImage ∧
    Map.find? (wqS pkGload true).graphs (graphKey 0 7) = none ∧
    (∀ f ∈ [true, false], (wq (wqS pkLaunch f) 8).fwd = some 9 ∧ (wq (wqS pkLaunch f) 8).joined = [] ∧
      (wqS pkLaunch f).nextPacket (wq (wqS pkLaunch f) 8) = some (false, pkLaunch) ∧ Map.find? (wqS pkLaunch f).workQs 8 = some (wq (wqS pkLaunch f) 8) ∧
      (wqS pkLaunch f).filterOk (wq (wqS pkLaunch f) 8).owner false 9 1 = f ∧ (wqS pkLaunch f).spansAway [((wq (wqS pkLaunch f) 8).err, 32)] = false) := by
  refine ⟨by decide +kernel, by decide +kernel, by decide +kernel, ⟨(launchB (wqS pkLaunch true) pkLaunch).getD loadLaunch, launchOf_of (by decide +kernel)⟩,
    ok_of (by decide +kernel), by decide +kernel, ok_of (by decide +kernel), by decide +kernel, by decide +kernel⟩

/-- The error of a check. -/
def errOf {ε α : Type} : Except ε α → Option ε
  | .ok _ => none
  | .error e => some e
theorem err_of {ε α : Type} {x : Except ε α} {e : ε} (h : errOf x = some e) : x = .error e := by
  cases x with
  | ok z => cases h
  | error e => cases h; rfl
/-- A LAUNCH whose TEXT is not a multiple of 256, one of no core group, and a GLOAD of what is no image. -/
def pkLaunchBad : List Byte := pkLaunch.take 8 ++ natLe 8 (loadText + 4) ++ pkLaunch.drop 16
def pkLaunch0 : List Byte := pkLaunch.take 24 ++ natLe 4 0 ++ pkLaunch.drop 28
def pkGloadBad : List Byte := pkGload.take 8 ++ natLe 8 0x61000 ++ pkGload.drop 16
/-- Work queue 9 after a change. -/
def wqX (f : Queue → Queue) (s : State) : State := { s with workQs := [(9, f (wq s 9))] }
/-- A job that stands for a launch, and one that stands for a SIGNAL. -/
def lJob : Job := workJob 0 pkLaunch 0 (some 0)
def gJob : Job := workJob 0 pkWSignal 0x90000 none
/-- Work queue 9 over a table whose two entries overlap; and one whose address 0x100000000 is a peer's. -/
def wqUndef : State :=
  let s := wqS pkLaunch true
  { s with mem := (s.mem.writeN 0x80000 32 (0x80100 + 2 * 2 ^ 64)).writeN 0x80110 16 ((2 ^ 36 - 1) * 2 ^ 56 + 15 * 2 ^ 14 + 1) }
def wqAway : State :=
  let s := wqS pkWSignal true
  let m := (s.mem.writeN 0x80000 32 (0x80100 + 2 * 2 ^ 64)).writeN 0x80100 16 ((2 ^ 20 - 1) * 2 ^ 56 + 15 * 2 ^ 14 + 1)
  { s with mem := m.writeN 0x80110 16 (2 ^ 20 * 2 ^ 92 + 2 ^ 20 * 2 ^ 20 + 2 ^ 19 + 15 * 2 ^ 14 + 1) }
theorem witness_WorkPacketCases :
    (let s := wqX (fun x => { x with jobs := [lJob] }) (wqS pkWSignal true)
     s.nextPacket (wq s 9) = some (false, pkWSignal) ∧ s.mayStart (wq s 9) pkWSignal = true ∧ (wq s 9).jobs = [lJob] ∧ lJob.launch.isSome = true) ∧
    (let s := wqX (fun x => { x with jobs := [gJob, lJob] }) (wqS pkWVoid true)
     Map.find? s.workQs 9 = some (wq s 9) ∧ (wq s 9).fwd = none ∧ (wq s 9).jobs = [gJob, lJob] ∧ gJob.launch = none ∧ isAperture gJob.loc = false) ∧
    (∀ b ∈ [pkLaunch, pkWSignal, pkWVoid, pkGload, pkWBad], let s := wqX (fun x => { x with joined := [(8, 3, b)] }) (wqS pkWVoid true)
     (wq s 9).fwd = none ∧ s.nextPacket (wq s 9) = some (true, b) ∧ s.mayStart (wq s 9) b = true) ∧
    ((wqS pkWVoid true).widx (wq (wqS pkWVoid true) 9) - (wq (wqS pkWVoid true) 9).ridx).toNat = 1 ∧
    (let s := wqX (fun x => { x with size := 0 }) (wqS pkWVoid true)
     9 ∈ s.kicks ∧ (s.widx (wq s 9) - (wq s 9).ridx).toNat > (wq s 9).size ∧ (wq s 9).st ≠ .error ∧ s.reach (wq s 9).hdr = true ∧
       s.spansAway [((wq s 9).err, 32)] = false) ∧
    (let s := wqX (fun x => { x with hdr := peerBase }) (wqS pkWVoid true)
     9 ∈ s.kicks ∧ s.reach (wq s 9).hdr = false) ∧
    (let s := wqX (fun x => { x with err := peerBase }) (wqS pkWBad true)
     (wq s 9).fwd = none ∧ s.nextPacket (wq s 9) = some (false, pkWBad) ∧ s.mayStart (wq s 9) pkWBad = true ∧ s.spansAway [((wq s 9).err, 32)] = true) ∧
    workMalformed pkLaunchBad = false ∧ workMalformed pkLaunch0 = false ∧ groupsOf pkLaunch0 = 0 ∧ workMalformed pkGloadBad = false ∧
    (wqS pkLaunchBad true).launchOf 0 0x80000 0 pkLaunchBad (.queue 9 0) = .error (7, loadText + 4) ∧
    (∃ l, (wqS pkLaunch0 true).launchOf 0 0x80000 0 pkLaunch0 (.queue 9 0) = .ok l) ∧
    (wqS pkGloadBad true).graphImage (wq (wqS pkGloadBad true) 9) pkGloadBad = .error (13, 0) ∧
    (∃ fa, wqUndef.launchOf (wq wqUndef 9).owner (wq wqUndef 9).space (wq wqUndef 9).tvec pkLaunch ((wq wqUndef 9).origin 9 false) = .error (0, fa)) ∧
    (∃ l n, wqAway.checkAddr 0 0x80000 needWrite (2 ^ 36) 8 = .ok ((l, n) :: []) ∧ isPeer l = true) ∧
    (let s := wqX (fun x => { x with fwd := some 7 }) (wqS pkWVoid true)
     let s' : State := { s with filter := [(0, 0x80000000 + BitVec.ofNat 32 (7 * 2 ^ 11 + 0xF8))] }
     (wq s' 9).fwd = some 7 ∧ (wq s' 9).joined = [] ∧ s'.nextPacket (wq s' 9) = some (false, pkWVoid) ∧
       s'.filterOk (wq s' 9).owner false 7 (workKind pkWVoid) = true ∧ Map.find? s'.workQs 7 = none) ∧
    (∀ g ∈ [{ (default : Graph) with run := some default }, { (default : Graph) with pending := [[]] }],
      let s : State := { wqS pkGload true with graphs := [(graphKey 0 7, g)] }
      Map.find? s.graphs (graphKey 0 7) = some g ∧ (g.run.isSome = true ∨ g.pending ≠ [])) := by
  and_intros <;> first
    | decide +kernel
    | exact ⟨((errOf (wqUndef.launchOf (wq wqUndef 9).owner (wq wqUndef 9).space (wq wqUndef 9).tvec pkLaunch ((wq wqUndef 9).origin 9 false))).getD (0, 0)).2,
        err_of (by decide +kernel)⟩
    | exact ⟨(((okOf (wqAway.checkAddr 0 0x80000 needWrite (2 ^ 36) 8)).getD []).headD (0, 0)).1,
        (((okOf (wqAway.checkAddr 0 0x80000 needWrite (2 ^ 36) 8)).getD []).headD (0, 0)).2, ok_of (by decide +kernel), by decide +kernel⟩
    | exact ⟨_, ok_of (y := (okOf ((wqS pkLaunch0 true).launchOf 0 0x80000 0 pkLaunch0 (.queue 9 0))).getD loadLaunch) (by decide +kernel)⟩
    | exact err_of (by decide +kernel)

/-- Cluster 0 is partition 0's, its columns are on, and one launch waits. -/
def placeS (turns placed running : Nat) (cor : Bool) (caddr : Option Nat) : State :=
  let s := st.updCluster 0 (fun k => { k with phys := some 0 })
  { s with launches := [(0, { loadLaunch with
             bytes := if cor then natLe 4 0x14000000 ++ loadLaunch.bytes.drop 4 else loadLaunch.bytes
             turns := turns, placed := placed, running := running, cloc := caddr })],
           live := { s.live with cluspart := [(0, 0x80000000)] }, decisions := 1, waves := [], groups := [] }
/-- The launch. -/
def pl (s : State) : Launch := (s.launch? 0).getD loadLaunch

theorem witness_Placement :
    (let s := placeS 0 0 0 false none
     s.takeover = false ∧ s.launch? 0 = some (pl s) ∧ s.launches = [(0, pl s)] ∧ (pl s).waits = true ∧ corOf (pl s).bytes = false ∧ s.turn = (pl s).part ∧
       0 < s.decisions ∧ (s.chooseCore 0 (pl s)).isSome = true) ∧
    (let s := placeS 17 0 0 true none
     s.takeover = false ∧ s.launch? 0 = some (pl s) ∧ (pl s).waits = true ∧ corOf (pl s).bytes = true ∧ s.waited (pl s) ≥ 16) ∧
    (let s := placeS 0 1 0 false none
     s.takeover = false ∧ s.launch? 0 = some (pl s) ∧ (pl s).waits = false ∧ (pl s).running = 0 ∧ (pl s).cloc = none) ∧
    (let s := placeS 0 1 0 false (some 0x90000)
     s.takeover = false ∧ s.launch? 0 = some (pl s) ∧ (pl s).waits = false ∧ (pl s).running = 0 ∧ (pl s).cloc = some 0x90000 ∧ isAperture 0x90000 = false) := by
  decide +kernel

/-- Graph 7 of partition 0. -/
def gr (run : Option GraphRun) (pending : List (List (Nat × Word))) (caddr : Nat) : Graph :=
  { image := gImage.take 16 ++ natLe 8 caddr ++ gImage.drop 24, space := 0x80000, tvec := 0, q := 9, run := run, pending := pending }
/-- The machine with the graph and copy queue 5. -/
def grS (g : Graph) : State := { cqS pkVoid 0 with graphs := [(graphKey 0 7, g)] }
/-- The same over a table whose two entries overlap. -/
def overl (s : State) : State :=
  { s with mem := (s.mem.writeN 0x80000 32 (0x80100 + 2 * 2 ^ 64)).writeN 0x80110 16 ((2 ^ 36 - 1) * 2 ^ 56 + 15 * 2 ^ 14 + 1) }
theorem witness_GraphRuns :
    (∀ g ∈ [gr none [] 0x95000, gr none [[(0, 9)]] 0x95000, gr (some { patches := [], started := [], done := [] }) [] 0x95000,
        gr (some { patches := [], started := [0], done := [0] }) [] 0x95000, gr (some { patches := [], started := [1, 0], done := [1, 0] }) [] 0,
        gr (some { patches := [], started := [1, 0], done := [1, 0] }) [] 0x95000],
      (7 : Nat) < 65536 ∧ Map.find? (grS g).graphs (graphKey 0 7) = some g ∧ (grS g).takeover = false) ∧
    (0x0007000000000000 : DWord).extractLsb' 48 16 = BitVec.ofNat 16 7 ∧ (0x0007000000000000 : DWord).extractLsb' 46 2 = 0 ∧
    (grS (gr none [] 0x95000)).readPatches 0 (gr none [] 0x95000) (64 * ((0x0007000000000000 : DWord).extractLsb' 0 46).toNat) = some [] ∧ (grS (gr none [] 0x95000)).trigAway 0 0x0007000000000000 = false ∧
    (grS (gr none [[(0, 9)]] 0x95000)).thAway 0 0x80000 needWrite 0x94000 64 = false ∧
    (overl (grS (gr none [[(0, 9)]] 0x95000))).thAway 0 0x80000 needWrite 0x94000 64 = true ∧
    (∃ l, (grS (gr none [[(0, 9)]] 0x95000)).thSpans 0 0x80000 needWrite 0x94000 64 = .ok l ∧ l.all (fun e => !isAperture e.1) = true) ∧
    nodesOf gImage = 2 ∧ edgesOf gImage = [(0, 1)] ∧ pkField (nodeBytes gImage 0) 4 4 % 4 = 0 ∧ workMalformed (nodeBytes gImage 0) = false ∧
    (∃ l, (grS (gr (some { patches := [], started := [], done := [] }) [] 0x95000)).launchOf 0 0x80000 0 (nodeBytes gImage 0) (.node 0 7 0) = .ok l ∧ groupsOf l.bytes ≠ 0) ∧
    pkField (nodeBytes gImage 1) 4 4 % 4 ≠ 0 ∧
    ((grS (gr (some { patches := [], started := [0], done := [0] }) [] 0x95000)).postNode 0 7 1 (nodeBytes gImage 1)).isSome = true ∧
    pkField (gr none [] 0).image 16 8 = 0 ∧ pkField (gr none [] 0x95000).image 16 8 ≠ 0 ∧
    (grS (gr (some { patches := [], started := [1, 0], done := [1, 0] }) [] 0x95000)).thLoc 0 0x80000 needWrite 0x95000 8 = some 0x95000 ∧ isAperture 0x95000 = false ∧
    (let f (a : Nat) : State := grS (gr (some { patches := [], started := [1, 0], done := [1, 0] }) [] a)
     (f 0x95000).thAway 0 0x80000 needWrite 0x95000 8 = false ∧ (overl (f 0x95000)).thAway 0 0x80000 needWrite 0x95000 8 = true ∧
       (f (2 ^ 60)).thAway 0 0x80000 needWrite (2 ^ 60) 8 = false ∧ (f (2 ^ 60)).thLoc 0 0x80000 needWrite (2 ^ 60) 8 = none) ∧
    st.takeover = false ∧
    (let s : State := { wqS pkWVoid true with takeover := true, svcQs := [(0, { cq0 with hdr := 0x71000, st := .stop })] }
     s.takeover = true ∧ (∀ e ∈ s.workQs, s.reach e.2.hdr = true ∧ (s.widx e.2 - e.2.ridx).toNat ≤ e.2.size ∧ (s.widx e.2 - e.2.ridx).toNat < 2 ^ 31) ∧ s.heldStores = [] ∧
       s.heldTrigs = [] ∧ Map.find? s.workQs 9 = some (wq s 9) ∧ Map.find? s.svcQs 0 = some { cq0 with hdr := 0x71000, st := .stop }) := by
  and_intros <;> first
    | exact ⟨(okOf ((grS (gr none [[(0, 9)]] 0x95000)).thSpans 0 0x80000 needWrite 0x94000 64)).getD [], ok_of (by decide +kernel), by decide +kernel⟩
    | exact ⟨(okOf ((grS (gr (some { patches := [], started := [], done := [] }) [] 0x95000)).launchOf 0 0x80000 0 (nodeBytes gImage 0) (.node 0 7 0))).getD
        loadLaunch, ok_of (by decide +kernel), by decide +kernel⟩
    | decide +kernel

/-- Bytes of a service packet: OP and its operands from byte 16 on; the response goes to 0x96000. -/
def pkSvc (op : Nat) (operands : List Byte) : List Byte := natLe 4 (2 ^ 31 + op * 2 ^ 24) ++ natLe 4 0 ++ natLe 8 0x96000 ++ operands ++ List.replicate (48 - operands.length) 0
/-- QREG of copy queue 6. -/
def opReg : List Byte := natLe 2 6 ++ [0, 6, 0, 0] ++ natLe 2 0 ++ natLe 8 0xA0000 ++ natLe 8 0xB0000 ++ natLe 8 0xB1000 ++ natLe 8 0x80000 ++ natLe 8 0
/-- Service queues 0 and 32 with a packet at the head of one; copy queue 5 stands in a state; the loaded wave is parked. -/
def svS (q : Nat) (b : List Byte) (x : Queue) : State :=
  let s := (cqS pkVoid 0).takeTrap 2 0 swt
  let y : Queue := { cq0 with space := 0x80000, ring := 0x70000, hdr := 0x71000, owner := q }
  { s with svcQs := [(q, y)], copyQs := [(5, x)], mem := (s.mem.writeBytes 0x70000 b).writeBytes 0x71000 (natLe 4 1) }
/-- The service queue. -/
def sv (s : State) (q : Nat) : Queue := (Map.find? s.svcQs q).getD cq0
/-- The machine once the packet has left. -/
def svTaken (s : State) (q : Nat) : State := ((s.journalise (.queue 3 q ((sv s q).ridx + 1) (sv s q).st)).popSlot 64 (sv s q)).setSvc q { (sv s q) with ridx := (sv s q).ridx + 1 }
/-- A load of v5 in flight. -/
def aLoad : Access := { (default : Access) with op := .load false false, nreg := 1, pieces := [{ (default : Piece) with loc := 0x90000, n := 4 }] }
/-- KILL of the launch that index 3 of work queue 9 made, which is the loaded wave's. -/
def pkKill : List Byte := pkSvc 5 (natLe 2 9 ++ [0, 0] ++ natLe 4 3)
def svK : State :=
  let s := svS 0 pkKill cq0
  { s with workQs := [(9, { cq0 with space := 0x80000 })], launches := [(2, { loadLaunch with origin := .queue 9 3 })],
           groups := s.groups.map (fun e => (e.1, { e.2 with launch := 2 })) }
theorem witness_ServiceOperations :
    (∀ e ∈ [(0, pkSvc 1 opReg), (0, pkSvc 2 (natLe 2 5 ++ [0, 0, 1])), (0, pkSvc 2 (natLe 2 5 ++ [0, 1, 0])), (0, pkSvc 2 (natLe 2 5 ++ [0, 2, 0])),
        (0, pkSvc 3 (natLe 2 0 ++ [0, 0] ++ natLe 4 0 ++ natLe 8 0xC0000)), (0, pkSvc 4 (natLe 2 0 ++ [0, 0] ++ [2])), (0, pkSvc 4 (natLe 2 0 ++ [0, 0] ++ [1])),
        (32, pkSvc 6 (natLe 8 0xD0000 ++ natLe 8 1))],
      let s := svS e.1 e.2 { cq0 with st := .stop }
      s.takeover = false ∧ Map.find? s.svcQs e.1 = some (sv s e.1) ∧ s.head? (sv s e.1) = some e.2 ∧ pkField e.2 0 3 = 0 ∧
      s.thUndef (sv s e.1).owner (sv s e.1).space needWrite (pkField e.2 8 8) 8 = false) ∧
    (let s := overl (svS 0 (pkSvc 5 []) cq0)
     s.head? (sv s 0) = some (pkSvc 5 []) ∧ s.thUndef (sv s 0).owner (sv s 0).space needWrite (pkField (pkSvc 5 []) 8 8) 8 = true) ∧
    (let s := svS 0 (pkSvc 1 opReg) cq0
     s.regAway (regOf (pkSvc 1 opReg)) = false ∧ (overl s).regAway (regOf (pkSvc 1 opReg)) = true) ∧
    (let s := svS 0 (pkSvc 3 (natLe 2 0 ++ [0, 0] ++ natLe 4 0 ++ natLe 8 0xC0000)) cq0
     s.thAway 0 0x80000 needWrite 0xC0000 12288 = false ∧ (overl s).thAway 0 0x80000 needWrite 0xC0000 12288 = true) ∧
    (∀ k ∈ [0, 1, 2], let b := pkSvc 4 (natLe 2 0 ++ [0, 0] ++ [BitVec.ofNat 8 k, 0, 0, 0] ++ natLe 8 0)
     (svS 0 b cq0).resolveAway 0 b = false) ∧
    (let s := svS 0 (pkSvc 1 opReg) { cq0 with st := .stop }
     let r := regOf (pkSvc 1 opReg)
     svcOp (pkSvc 1 opReg) = 1 ∧ r.ok = true ∧ r.owner = 0 ∧ r.kind = 0 ∧ Map.find? (svTaken s 0).copyQs r.num = none ∧
       (svTaken s 0).regRange r r.ring (64 * 2 ^ r.log2) = some 0xA0000 ∧ (svTaken s 0).regRange r r.hdr 128 = some 0xB0000 ∧
       (svTaken s 0).regRange r r.err 32 = some 0xB1000) ∧
    (∀ k ∈ [0, 1, 2], let b := pkSvc 2 (natLe 2 5 ++ [0, BitVec.ofNat 8 k, 1])
     let s := svS 0 b { cq0 with st := .stop }
     svcOp b = 2 ∧ pkField b 16 2 = 5 ∧ pkField b 18 1 = 0 ∧ pkField b 20 1 ≤ 1 ∧ pkField b 19 1 = k ∧ Map.find? (svTaken s 0).copyQs 5 = some { cq0 with st := .stop } ∧ s.spansAway [(cq0.hdr + 64, 4)] = false ∧ cq0.badJoined = false ∧ cq0.jobs = [] ∧ cq0.joined = []) ∧
    (∀ e ∈ [(3, 0), (4, 0), (4, 1), (4, 2)], let b := pkSvc e.1 (natLe 2 0 ++ [0, 0] ++ [BitVec.ofNat 8 e.2, 0, 0, 0] ++ natLe 8 (if e.1 = 3 then 0xC0000 else 0))
     let s := svS 0 b cq0
     svcOp b = e.1 ∧ pkField b 20 1 = e.2 ∧ (svTaken s 0).waveAt 0 (pkField b 16 2) (pkField b 18 1) (pkField b 19 1) = some (2, wOf (svTaken s 0)) ∧
     (∃ tr, (wOf (svTaken s 0)).st.trap = some tr ∧ tr.running = false ∧ tr.route ≠ .h) ∧ (wOf (svTaken s 0)).st.trcause.getLsbD 17 = false ∧
     (wOf (svTaken s 0)).st.trcause.getLsbD 27 = false ∧ ((svTaken s 0).core 0).run = none ∧ (e.1 = 4 → pkField b 24 4 = 0) ∧ (wOf (svTaken s 0)).inflight = [] ∧
     ∀ tr, (wOf (svTaken s 0)).st.trap = some tr → ∀ y ∈ tr.saved, y.past = false) ∧
    (let b := pkSvc 4 (natLe 2 0 ++ [0, 0] ++ [1, 0, 0, 0] ++ natLe 8 0x40)
     svcOp b = 4 ∧ pkField b 24 4 = 0x40) ∧
    (let s := svK
     let x := sv s 0
     svcOp pkKill = 5 ∧ s.head? x = some pkKill ∧ s.takeover = false ∧ Map.find? (svTaken s 0).workQs 9 = some { cq0 with space := 0x80000 } ∧
       List.find? (fun (e : Nat × Launch) => decide (e.2.origin = .queue 9 (BitVec.ofNat 32 (pkField pkKill 20 4)))) (svTaken s 0).launches =
         some (2, { loadLaunch with origin := .queue 9 3 }) ∧
       (svTaken s 0).wave? 2 = some (wOf (svTaken s 0)) ∧ (wOf (svTaken s 0)).plain = true ∧
       ((svTaken s 0).group? (wOf (svTaken s 0)).group).map (·.launch) = some 2) ∧
    (let s := svS 0 (pkSvc 3 (natLe 2 0 ++ [0, 0] ++ natLe 4 0 ++ natLe 8 0xC0000)) cq0
     let t := svTaken (s.updWave 2 (fun w => { w with inflight := [{ aLoad with dst := some (.v 5) }] })) 0
     t.waveAt 0 0 0 0 = some (2, wOf t) ∧ (∀ y ∈ (wOf t).inflight, ∀ d, y.dst = some d → Dst.s 31 ∉ d.span y.nreg) ∧
       ∀ y ∈ (wOf t).inflight, ∀ d, y.dst = some d → Dst.v 5 ∈ d.span y.nreg ∧ Dst.v 6 ∉ d.span y.nreg) ∧
    (∃ l, (svTaken (svS 0 (pkSvc 3 (natLe 2 0 ++ [0, 0] ++ natLe 4 0 ++ natLe 8 0xC0000)) cq0) 0).thSpans 0 0x80000 needWrite 0xC0000 12288 = .ok l ∧
      ∀ y ∈ l, (svTaken (svS 0 (pkSvc 3 (natLe 2 0 ++ [0, 0] ++ natLe 4 0 ++ natLe 8 0xC0000)) cq0) 0).deafAt y.1 = false) ∧
    svcOp (pkSvc 6 (natLe 8 0xD0000 ++ natLe 8 1)) = 6 ∧
    pkField (pkSvc 6 (natLe 8 0xD0000 ++ natLe 8 1)) 16 8 + 65536 * pkField (pkSvc 6 (natLe 8 0xD0000 ++ natLe 8 1)) 24 8 ≤ hbmBytes ∧
    ({ st with zeroing := [{ base := 0, len := 65536, resp := none }] } : State).zeroing[0]?.isSome = true := by
  refine ⟨by decide +kernel, by decide +kernel, by decide +kernel, by decide +kernel, by decide +kernel, by decide +kernel, by decide +kernel, ?_, by decide +kernel, by decide +kernel, by decide +kernel, ⟨[(0xC0000, 12288)], ok_of (by decide +kernel), by decide +kernel⟩, by decide +kernel, by decide +kernel, rfl⟩
  intro e he b s
  refine ⟨?_, ?_, ?_, ⟨(wOf (svTaken s 0)).st.trap.getD default, ?_, ?_, ?_⟩, ?_, ?_, ?_, ?_, ?_, ?_⟩
  all_goals (revert e; decide +kernel)

/-- Cluster 0 is partition 0's and present; a launch waits. -/
def base0 : State := let s := mapped (st.updCluster 0 (fun k => { k with phys := some 0 })); { s with live := { s.live with cluspart := [(0, 0x80000000)] } }
/-- A wave's context that waits in HBM, and one of another wave, in core 0's Cistern, with a byte in its buffers. -/
def ctx0 : Context := base0.capture 0 0
def ctx9 : Context := { base0.capture 0 0 with waves := [(9, wOf base0)], bytes := [(5, 7)] }
/-- Both change places: the pre-emption has become quiet. -/
def swapS : State := { base0 with preempt := [(0, 0)] }.updCore 0 (fun k => { k with cistern := some ctx9 })
theorem findOne {α : Type} (n k : Nat) (x : α) (h : k ≠ n) : Map.find? [(n, x)] k = none := by simp [Map.find?, Ne.symm h]
/-- A machine whose one core of which anything is known is core 0. -/
theorem core_of {s : State} {x : CoreSt} (h : s.cores = [(0, x)]) (k : Nat) : s.core k = if k = 0 then x else CoreSt.init := by
  unfold State.core
  rw [h]
  split
  · rename_i hk; subst hk; rfl
  · rename_i hk; rw [findOne 0 k x hk]; rfl
theorem quiet_cores : ∀ k, (base0.core k).run = none ∧ (base0.core k).eng = [] ∧ (base0.core k).baton = none := by
  intro k
  rw [core_of (s := base0) (x := base0.core 0) (by decide +kernel) k]
  split
  · decide +kernel
  · exact ⟨rfl, rfl, rfl⟩
theorem swap_cisterns : ∀ k x, (swapS.core k).cistern = some x → k = 0 ∧ x = ctx9 := by
  intro k x h
  rw [core_of (s := swapS) (x := swapS.core 0) (by decide +kernel) k] at h
  split at h
  · rename_i hk
    rw [show (swapS.core 0).cistern = some ctx9 from by decide +kernel] at h
    cases h; exact ⟨hk, rfl⟩
  · cases h
theorem witness_Preemption :
    (∀ pinned ∈ [true, false],
      let s : State := ({ base0 with quanta := [(0, 2344)], stored := [ctx0] }).updWave 2 (fun w => { w with pinned := pinned })
      s.clustersOf 0 = [0] ∧ (Map.find? s.quanta 0).getD 0 ≥ 2344 ∧ s.contextDue 0 = true ∧ (∀ c ∈ s.clustersOf 0, (s.cluster c).halted = false) ∧
      Map.sorted s.waves = true ∧ (∀ e ∈ s.waves, e.2.ckRun = false) ∧ s.cores = base0.cores ∧ s.wave? 2 = some (wOf s) ∧ (wOf s).plain = true ∧
      clusterOf (wOf s).core ∈ s.clustersOf 0 ∧ (wOf s).killedBy = false ∧ (wOf s).pinned = pinned) ∧
    (∀ k, (base0.core k).run = none ∧ (base0.core k).eng = [] ∧ (base0.core k).baton = none) ∧
    (Map.find? { base0 with quanta := [(0, 2343)] }.quanta 0).getD 0 < 2344 ∧
    (let s := swapS
     (Map.find? s.preempt 0).isSome = true ∧ s.quiet (s.clustersOf 0) = true ∧ (∀ x ∈ s.stored, x.part ≠ 0) ∧ 0 ∈ (s.clustersOf 0).flatMap coresOf ∧
       s.occupied 0 = true ∧ (s.core 0).cistern = some ctx9 ∧ (ctx9.waves.map (·.1)).Nodup ∧ s.wave? 9 = none ∧ ctx9.waves.map (·.1) = [9]) ∧
    swapS.BytesOk ∧ (∀ k x, (swapS.core k).cistern = some x → k = 0 ∧ x = ctx9) ∧ (∀ k ∈ (swapS.clustersOf 0).flatMap coresOf, (swapS.core k).eng = []) ∧
    (let s : State := { base0 with preempt := [(0, 0)] }
     s.quiet (s.clustersOf 0) = true ∧ s.occupied 0 = true ∧ (s.core 0).cistern = none ∧ ∀ k ∈ (s.clustersOf 0).flatMap coresOf, (s.core k).eng = []) ∧
    (let s : State := ({ base0 with preempt := [(0, 0)] }.updCore 0 (fun k => { k with cycles := 65536, baton := some 2 })).updWave 2 (fun w => { w with pinned := true })
     Map.find? s.preempt 0 = some 0 ∧ s.partCycles 0 ≥ 0 + 65536 ∧ ∃ e ∈ s.wavesIn (s.clustersOf 0), e.2.pinned = true ∧ s.clean e.1 = false) ∧
    (let s : State := { base0 with preempt := [(0, 0)] }.updCore 0 (fun k => { k with cycles := 65535 })
     Map.find? s.preempt 0 = some 0 ∧ s.partCycles 0 < 0 + 65536) ∧
    (let s := st.updWave 2 (fun w => { w with starved := [(0, 512)] })
     s.wave? 2 = some (wOf s) ∧ s.ready (wOf s) 0 = true ∧ (Map.find? (wOf s).starved 0).getD 0 ≥ 512) := by
  refine ⟨by decide +kernel, quiet_cores, by decide +kernel, by decide +kernel, ⟨?_, ?_, ?_⟩, swap_cisterns, by decide +kernel, by decide +kernel, ⟨by decide +kernel, by decide +kernel,
    ⟨(2, wOf (({ base0 with preempt := [(0, 0)] }.updCore 0 (fun k => { k with cycles := 65536, baton := some 2 })).updWave 2 (fun w => { w with pinned := true }))),
      by decide +kernel, by decide +kernel, by decide +kernel⟩⟩, by decide +kernel, by decide +kernel⟩
  · show Memory.wf swapS.mem = true
    decide +kernel
  · intro x hx
    have : swapS.stored = [] := by decide +kernel
    rw [this] at hx; cases hx
  · have h : ∀ e ∈ swapS.cores, e.2.cistern = some ctx9 := by decide +kernel
    intro e he x hx
    rw [h e he] at hx; cases hx
    exact ⟨by decide +kernel, by decide +kernel⟩

/-- An audited region of the loaded wave, whose signature is that of its registers, has closed; its replay on core 4 of the other column. -/
def copy0 : LantCopy :=
  { w := 2, ck := c0.w.st, sig := 0, stores := [], closed := true, core := 0, valloc := 64, group := c0.w.group, replay := none, resig := 0,
    restores := [], second := none }
/-- The other column is on, and Lantern holds a copy. -/
def lantS (x : LantCopy) : State :=
  let s := st.updCluster 0 (fun k => { k with lant := [(0, x)] })
  s.setCol 1 { s.col 1 with power := .on, stopped := false }
/-- The loaded wave as a hidden one, in its region. -/
def hidden0 (w : Wave) : Wave := { w with hidden := some 0, st := { w.st with region := true } }
/-- The signature that its replay ends with. -/
def sig0 : DWord := addRecords 0 ((List.range (cW hidden0).w.valloc).map (regRecord (cW hidden0).r))
/-- It replays a copy. -/
def replayS (x : LantCopy) : State := (lantS x).updWave 2 hidden0
theorem witness_ErrorHandling :
    (∀ e ∈ [(ErrSite.vreg 2 63, RegId.v 63), (.sreg 2 31, .s 31), (.areg 2 15, .a 15), (.preg 2 6, .p 6), (.kreg 2 2, .k 2), (.breg 2 7, .b 7)],
      let s := st.updWave 2 (fun w => { w with regLog := [e.2] })
      s.wave? 2 = some (wOf s) ∧ (wOf s).killedBy = false ∧ (wOf s).plain = true ∧ (wOf s).pinned = false ∧ (s.core (wOf s).core).run = none ∧ (wOf s).ckRun = false ∧
        (wOf s).memLog = [] ∧ (wOf s).bufLog = [] ∧ (wOf s).tileLog = [] ∧ (s.core (wOf s).core).eng = [] ∧ (s.core (wOf s).core).baton ≠ some 2 ∧
        e.2 ∈ (wOf s).regLog ∧ e.2 ∉ (wOf st).regLog ∧ e.2 ∉ (wOf hs).regLog) ∧
    (wOf st).plain = true ∧ (wOf st).killedBy = false ∧ (wOf st).st.trap = none ∧ (wOf st).st.unfinished ≠ [] ∧
    hs.wave? 2 = some (wOf hs) ∧ (wOf hs).st.trap.isSome = true ∧ (wOf hs).plain = true ∧ (wOf hs).killedBy = false ∧ st.lbcfg.extractLsb' 16 16 ≠ 0 ∧
    (st.buckets.map (·.1)).Nodup ∧ ({ st with lbcfg := 16 } : State).lbcfg.extractLsb' 16 16 = 0 ∧
    (Map.find? ((lantS { copy0 with closed := false }).cluster 0).lant 0 = some { copy0 with closed := false } ∧
      Map.find? ((lantS copy0).cluster 0).lant 0 = some copy0 ∧ copy0.closed = true ∧ copy0.replay = none ∧ copy0.second = none ∧
      (lantS copy0).replayCore copy0 = some (4, 0, 0)) ∧
    (let x := { copy0 with second := some (4, 1) }
     Map.find? ((lantS x).cluster 0).lant 0 = some x ∧ x.second.isSome = true ∧ clusterOf 7 = 0 ∧ ((lantS x).col (colOf 7)).power = .on ∧
       ((lantS x).col (colOf 7)).stopped = false ∧ (lantS x).roomFor 7 x.valloc = some (0, 0)) ∧
    (∀ x ∈ [{ copy0 with sig := sig0 }, { copy0 with sig := sig0 + 1 }, { copy0 with sig := sig0, second := some (0, sig0 + 1) },
        { copy0 with sig := sig0 + 1, second := some (0, sig0) }, { copy0 with sig := sig0 + 1, second := some (0, sig0 + 2) }],
      Issues (replayS x) (cx (replayS x) 0) ∧ (cx (replayS x) 0).Allowed .rgnE false [] ∧ (cx (replayS x) 0).w.st.fullMember 0 = true ∧
      (cx (replayS x) 0).w.st.region = true ∧ (cx (replayS x) 0).r.allFull = true ∧ (cx (replayS x) 0).w.hidden = some 0 ∧
      Map.find? ((replayS x).cluster (clusterOf (cx (replayS x) 0).w.core)).lant 0 = some x) ∧
    (cW hidden0).w.valloc = 64 := by
  and_intros
  rotate_right
  rotate_right
  · intro x hx
    simp only [List.mem_cons, List.not_mem_nil, or_false] at hx
    rcases hx with rfl | rfl | rfl | rfl | rfl
    all_goals exact ⟨issues_cx rfl rfl, allowed_of rfl, rfl, rfl, rfl, rfl, rfl⟩
  all_goals decide +kernel

/-- A column in a state, with rail 2 of a count of failed phases. -/
def colS (f : ColSt → ColSt) (failed : Nat) : State :=
  let s := st.setCol 127 { (f (st.col 127)) with rails := (st.col 127).rails.set 2 { Rail.init with failed := failed } }
  s.setCol (otherCol 127) { (s.col (otherCol 127)) with current := 1551 }
theorem witness_PowerHappenings :
    (let s := colS (fun k => { k with power := .on, stopped := false }) 0
     (s.col 127).power = .on ∧ (s.col 127).stopped = false ∧ (s.rail 127 2).above < 3 ∧ (s.rail 127 2).failed = 0 ∧ (s.core (4 * 127 + 2)).shuntUp = 0 ∧ (s.core (4 * 127 + 2 + 1)).shuntDn = 0 ∧
       (s.rail 127 2).armed = true ∧ (∀ c ∈ colCores 127, s.occupied c = false)) ∧
    ((colS (fun k => { k with power := .on, stopped := true }) 1).col 127).stopped = true ∧ ((colS (fun k => { k with stopped := true }) 1).col 127).failing = false ∧
    ((colS id 1).rail 127 2).failed ≤ 1 ∧
    (let s := (colS id 2).updCluster 63 (fun k => { k with halted := true })
     s.takeover = false ∧ (s.rail 127 2).failed ≥ 2 ∧ (s.rail 127 2).failed < 8 ∧ ((colS id 8).rail 127 2).failed ≥ 8 ∧ (s.col 127).power ≠ .retired ∧ s.partOf (127 / 2) = none ∧ (s.cluster (127 / 2)).halted = true ∧ s.quiet [127 / 2] = true) ∧
    (let s := colS (fun k => { k with power := .waking, wakePending := true }) 0
     (s.col 127).power = .waking ∧ (s.col 127).wakePending = true ∧ (s.col (otherCol 127)).current + 50 > 1600) ∧
    (let s := (colS (fun k => { k with power := .waking, wakePending := true }) 0).setCol (otherCol 127) { ColSt.init with current := 1550 }
     (s.col 127).power = .waking ∧ (s.col 127).wakePending = true ∧ (s.col (otherCol 127)).current + 50 ≤ 1600) ∧
    (∀ n ∈ [14, 15], let s := colS (fun k => { k with power := .waking, wakePending := false, step := n }) 0
     (s.col 127).power = .waking ∧ (s.col 127).wakePending = false ∧ (s.col 127).step = n) ∧
    ((st.updCluster 63 (fun k => { k with islBusy := true, islReq := 1 })).cluster 63).islBusy = true ∧
    ((st.updCluster 63 (fun k => { k with islBusy := true, islReq := 1 })).cluster 63).islNext = none ∧
    (st.cluster 63).islBusy = false ∧ (1 : BitVec 2) < (st.cluster 63).islCur := by decide +kernel

/-- The machine once Basecamp runs version 5, of which slot A holds 4 and slot B 5. -/
def up0 : State := { st with booted := some 5, otpMin := 5, images := { Images.empty with basecamp := ⟨some 4, some 5⟩ } }
/-- A layout staged as generation 1, whole. -/
def staged : State := run { State.reset with booted := some 5 } (.laystg 1)
/-- Images of which every pair has one that OTP admits, and of which Trailhead's has none. -/
def imgs : Images := Images.ofSlots ⟨some 3, some 1, none, some 1⟩ ⟨none, some 2, some 1, some 1⟩
def imgsNoTp : Images := Images.ofSlots ⟨some 3, none, none, some 1⟩ ⟨none, none, some 1, some 1⟩
/-- Inbound requests of 8 bytes, and a window that lets them through. -/
def req0 (k : InKind) : Inbound := { src := 9, addr := 0x90000, kind := k }
def win0 : BitVec 128 := BitVec.ofNat 128 (9 * 2 ^ 102 + 2 ^ 65 + 15 * 2 ^ 56 + 1)
/-- The ports carry requests. -/
def inS (w : Map (BitVec 128)) : State := { base0 with fabid := 0x80000000, portsUp := true, inwin := w }
/-- Partition 0 has clusters 0 and 1; cluster 0 has a core group of a co-resident launch, and cluster 1 can or cannot take one. -/
def corS (room : Bool) : State :=
  let s := { base0 with live := { base0.live with cluspart := [(0, 0x80000000), (1, 0x80000000)] } }
  { (s.updCluster 1 (fun k => { k with phys := some 1, retired := !room })) with
    launches := s.launches.map (fun e => (e.1, { e.2 with bytes := natLe 4 0x14000000 ++ loadLaunch.bytes.drop 4 })), testing := some 0 }
/-- An inbound access fails: with a check's answer, or since its translation is undefined. -/
def inErr {α : Type} : Except XErr α → Option Bool
  | .error (.mk _ _) => some true
  | .error .undef => some false
  | .ok _ => none
theorem witness_LayoutAndServiceLife :
    (({ State.reset with booted := some 5 } : State).booted.isSome = true ∧ (1 : Word).extractLsb' 0 16 = State.reset.gen + 1 ∧ State.reset.sgen = 0) ∧
    staged.booted.isSome = true ∧ ¬ ((1 : Word).extractLsb' 0 16 = staged.gen + 1 ∧ staged.sgen = 0) ∧
    staged.commitRec = false ∧ staged.layCheck 1 = 0 ∧ staged.layCheck 2 ≠ 0 ∧ isAperture 0x90000 = false ∧ State.reset.booted = none ∧
    (up0.booted = some 5 ∧ up0.hss < 2 ^ 20 ∧ (up0.images.basecamp.a = some 4 ∧ up0.images.basecamp.b = some 5 ∧ up0.otpMin = 5)) ∧
    (let s := { up0 with images := Images.empty }
     s.booted.isSome = true ∧ s.images.basecamp.a = none ∧ s.images.basecamp.b = none) ∧
    (State.reset.otpMin = 0 ∧ imgs.basecamp.a = some 3 ∧ imgs.basecamp.b = none ∧ imgs.trailhead.a = some 1 ∧ imgs.copyEng.b = some 1 ∧ imgs.unfoldEng.a = some 1 ∧
      imgsNoTp.trailhead.a = none ∧ imgsNoTp.trailhead.b = none ∧ ((List.range 17).filter (fun p => (List.range 68).contains (17 * 3 + p)))[16]? = some 16) ∧
    (List.replicate 32 (0 : Byte)).length = 32 ∧ State.reset.vacant 63 = true ∧
    (let s : State := { base0 with testNext := 1 }.updCluster 1 (fun k => { k with phys := some 1 })
     s.testing = none ∧ s.testNext = 1 ∧ (s.cluster 1).phys.isSome = true ∧ (s.cluster 1).retired = false ∧ s.partOf 1 = none) ∧
    (base0.testing = none ∧ base0.testNext = 0 ∧ base0.partOf 0 = some 0 ∧ base0.clustersOf 0 = [0]) ∧
    (∀ room ∈ [true, false], let s := corS room
     s.testing = some 0 ∧ s.partOf 0 = some 0 ∧ Map.find? s.preempt 0 = none ∧ s.corStuck 0 0 = !room ∧ ∀ d ∈ s.clustersOf 0, (s.cluster d).halted = false) ∧
    (let s : State := { State.reset with testing := some 63 }
     s.testing = some 63 ∧ s.vacant 63 = true) ∧
    (∀ sp ∈ [[], [(3, 7)]], let s : State := { State.reset with spares := sp }.updCluster 63 (fun k => { k with retired := true })
     s.replaceable 63 = true ∧ s.vacant 63 = true ∧ Map.find? s.spares (63 / 16) = (if sp = [] then none else some 7)) ∧
    (let s := base0.updCluster 0 (fun k => { k with retired := true })
     s.replaceable 0 = true ∧ s.vacant 0 = false) ∧
    base0.fabricUp = false ∧ (inS []).fabricUp = true ∧ (inS []).window (req0 (.load 8)) = none ∧
    (∀ k ∈ [InKind.load 8, .store (List.replicate 8 1), .atomicAdd 8 3, .atomicXchg 8 3], let s := inS [(0, win0)]
     s.fabricUp = true ∧ s.window (req0 k) = some 0 ∧ (inNeed k).1 = 8 ∧
       (spanLocs [(0x90000, 8)]).Nodup ∧
       ∀ l ∈ spanLocs [(0x90000, 8)], s.racing (s.outReader (req0 k)) l 1 = false) ∧
    (∀ k ∈ [InKind.load 8, .store (List.replicate 8 1), .atomicAdd 8 3, .atomicXchg 8 3],
      (inS [(0, win0)]).inSpans 0 (inNeed k).2 (unitsOf 8) ((req0 k).addr % 2 ^ 42) 8 = .ok [(0x90000, 8)]) ∧
    (let s := { inS [(0, win0)] with live := { base0.live with stage2 := [] } }
     s.window (req0 (.load 8)) = some 0 ∧ inErr (s.inSpans 0 needRead (unitsOf 8) ((req0 (.load 8)).addr % 2 ^ 42) 8) = some true) ∧
    (let s := overl (inS [(0, win0)])
     s.fabricUp = true ∧ s.window (req0 (.load 8)) = some 0 ∧ inErr (s.inSpans 0 needRead (unitsOf 8) ((req0 (.load 8)).addr % 2 ^ 42) 8) = some false) ∧
    (∀ k ∈ sectorsOf 0x90000 8, k ∉ (inS [(0, win0)]).poison) ∧
    (¬ ∀ k ∈ sectorsOf 0x90000 8, k ∉ ({ inS [(0, win0)] with poison := [sectorOf 0x90000] } : State).poison) ∧
    base0.takeover = false ∧ ({ base0 with takeover := true } : State).takeover = true := by
  and_intros <;> first
    | decide +kernel
    | exact fun k hk => ok_of (by revert k hk; decide +kernel)

theorem witness_DecodeEncode :
    (Instr.ld (.v 60) (.imm 0x40) 7 4 false true).wf = true ∧ encode (.ld (.v 60) (.imm 0x40) 7 4 false true) = some 0x903CC0F2 ∧
    decodeWord 0x903CC0F2 = .ok (.ld (.v 60) (.imm 0x40) 7 4 false true) := ⟨rfl, rfl, rfl⟩

/-- The loaded wave at a `movi`, chosen from the agenda; the same inside a macro. -/
def stepS : State := st.withFetchWord 32 0x13441234
def macS : State := { ((st.updCore 0 (fun k => { k with macs := [(32 * 63 + 31, 0x427E7F46)] })).updWave 2
  (onSlices (fun x => { x with mac := some { m := 63, p1 := 4, p2 := 5, i := 31 } }))) with agenda := [.issue 2 0] }
/-- The word of a fetch, and the state after a step. -/
def fetched : Fetched → Option Word
  | .word x _ => some x
  | .stuck | .fault _ => none
def stepped (s : State) : Option State := match step s with
  | .next t => some t
  | .fault _ => none
  | .refused _ => none
theorem witness_StepRunsDecoded :
    stepS.agenda = [.issue 2 0] ∧ ({ stepS with agenda := [] } : State).wave? 2 = some (wOf stepS) ∧ ({ stepS with agenda := [] } : State).before 2 (wOf stepS) = none ∧
    ({ stepS with agenda := [] } : State).canIssue (wOf stepS) 0 = true ∧ ((wOf stepS).st.slice 0).mac = none ∧
    fetched ((({ stepS with agenda := [] } : State).dispatch 2 0 (wOf stepS)).fetch (wOf stepS) 0) = some 0x13441234 ∧
    (stepped stepS).map (fun t => s' 4 (wOf t).st) = some 0x1234 ∧
    macS.before 2 (wOf macS) = none ∧ macS.canIssue (wOf macS) 0 = true ∧ ((wOf macS).st.slice 0).mac = some { m := 63, p1 := 4, p2 := 5, i := 31 } ∧
    (macS.core 0).macWord 63 31 ≠ 0 ∧ substWord 4 5 ((macS.core 0).macWord 63 31) = 0x42040546 ∧
    decodeWord 0x42040546 = .ok (.fmul (.v 4) (.v 5) (.s 6)) ∧
    (let s0 := macS.updCore 0 (fun k => { k with macs := [] })
     let s : State := { s0 with mem := s0.mem.writeN 0x10004 4 0x13441234 }
     s.before 2 (wOf s) = none ∧ s.canIssue (wOf s) 0 = true ∧ ((wOf s).st.slice 0).mac.isSome = true ∧ (s.core 0).macWord 63 31 = 0 ∧
       (stepped s).map (fun t => (((wOf t).st.slice 0).pc, ((wOf t).st.slice 0).mac, s' 4 (wOf t).st)) = some (0x10008, none, 0x1234)) ∧
    ({ st with agenda := [], evTurn := false } : State).round.head? = some (2, 0) := by
  and_intros <;> first | rfl | decide +kernel

theorem bytesOk_reset : State.reset.BytesOk :=
  ⟨rfl, fun x hx => absurd hx (by show x ∉ ([] : List Context); simp), fun e he => absurd he (by show e ∉ ([] : List (Nat × CoreSt)); simp)⟩
theorem bootOk_reset : State.reset.BootOk := by
  intro v hv
  have : State.reset.booted = none := rfl
  rw [this] at hv; cases hv

/-- A booted machine, and a step of it. -/
theorem witness_BootVersionKept :
    ({ stepS with booted := some 5, otpMin := 5 } : State).BootOk ∧ ∃ t, step { stepS with booted := some 5, otpMin := 5 } = .next t :=
  ⟨fun v hv => by cases hv; decide, _, rfl⟩

theorem witness_BytesKept : State.reset.BytesOk ∧ ∃ t, step State.reset = .next t := ⟨bytesOk_reset, _, rfl⟩

end Sys2Proof.Tests
end

section
/-! PROOF. O3: the counts and the bit fields. -/

namespace Sys2Proof.Machine

variable {s : State} {c : Ctx}

/-- A ready instruction whose whole meaning is a register operation writes its result and moves on. -/
theorem Ready.issueWave_regOp {i : Instr} {un : Bool} {d : Operand} {srcs : List (Operand × Bool)} (hi : Issues s c)
    (h : Ready c i un d (srcs.map (·.1))) (hc : VaryingOrUniform d (srcs.map (·.1))) (f : Ctx → Nat → Word) :
    issueWave s (fun c => c.regOp i un d srcs true (f c)) = .next (c.put (c.write d (f c))) :=
  issueWave_ok hi (h.regOp hc rfl (f c))

/-! ### What each instruction writes -/

theorem Ready.exec_clz {d a : Operand} (hi : Issues s c) (hc : VaryingOrUniform d [a]) (h : Ready c (.clz d a) true d [a]) :
    exec (.clz d a) s = .next (c.put (c.write d (fun t => clz32 (c.r.src a t)))) :=
  Ready.issueWave_regOp (srcs := [(a, true)]) hi h hc (fun c t => clz32 (c.r.src a t))

theorem Ready.exec_popc {d a : Operand} (hi : Issues s c) (hc : VaryingOrUniform d [a]) (h : Ready c (.popc d a) true d [a]) :
    exec (.popc d a) s = .next (c.put (c.write d (fun t => popc32 (c.r.src a t)))) :=
  Ready.issueWave_regOp (srcs := [(a, true)]) hi h hc (fun c t => popc32 (c.r.src a t))

theorem Ready.exec_bfx {d a b : Operand} (hi : Issues s c) (hc : VaryingOrUniform d [a, b]) (h : Ready c (.bfx d a b) true d [a, b]) :
    exec (.bfx d a b) s = .next (c.put (c.write d (fun t => bfx32 (c.r.src a t) (c.r.src b t)))) :=
  Ready.issueWave_regOp (srcs := [(a, true), (b, false)]) hi h hc (fun c t => bfx32 (c.r.src a t) (c.r.src b t))

theorem Ready.exec_bfi {d a b : Operand} (hi : Issues s c) (hc : VaryingOrUniform d [a, b, d])
    (h : Ready c (.bfi d a b) true d [a, b, d]) :
    exec (.bfi d a b) s = .next (c.put (c.write d (fun t => bfi32 (c.r.src a t) (c.r.src b t) (c.r.src d t)))) :=
  Ready.issueWave_regOp (srcs := [(a, true), (b, false), (d, false)]) hi h hc
    (fun c t => bfi32 (c.r.src a t) (c.r.src b t) (c.r.src d t))

/-! ### Fields bit by bit -/

/-- A field holds at least one bit, since POS is less than 32 (R291). -/
theorem fieldOf_length_pos (b : Word) : 0 < (fieldOf b).2 := by
  have hpos : (b.extractLsb' 0 5).toNat < 2 ^ 5 := BitVec.isLt _
  simp only [fieldOf, Nat.min_def]
  split <;> omega

/-- `signExt` reads the low `n` bits as a signed number. -/
theorem signExt_eq_toInt (x n : Nat) : signExt x n = (BitVec.ofNat n x).toInt := by
  simp only [signExt, BitVec.toInt, BitVec.toNat_ofNat]

/-- R292: the field of A, as a word of its own length, extended to 32 bits by zeros or by its top bit. -/
theorem bfx32_eq (a b : Word) :
    bfx32 a b = if b.getLsbD 15 then (a.extractLsb' (fieldOf b).1 (fieldOf b).2).signExtend 32
      else (a.extractLsb' (fieldOf b).1 (fieldOf b).2).setWidth 32 := by
  have hfield (pos n : Nat) : a.toNat / 2 ^ pos % 2 ^ n = (a.extractLsb' pos n).toNat := by
    rw [BitVec.extractLsb'_toNat, Nat.shiftRight_eq_div_pow]
  simp only [bfx32, hfield, signExt_eq_toInt, BitVec.ofNat_toNat, BitVec.setWidth_eq]
  rfl

/-- R292: the bits of D after `bfx`. -/
theorem bfx32_getLsbD (a b : Word) (j : Nat) (hj : j < 32) :
    (bfx32 a b).getLsbD j = if j < (fieldOf b).2 then a.getLsbD ((fieldOf b).1 + j)
      else b.getLsbD 15 && a.getLsbD ((fieldOf b).1 + (fieldOf b).2 - 1) := by
  have hn := fieldOf_length_pos b
  rw [bfx32_eq]
  generalize (fieldOf b).1 = pos, (fieldOf b).2 = n at *
  have hlast : n - 1 < n := by omega
  have htop : pos + (n - 1) = pos + n - 1 := by omega
  cases hsx : b.getLsbD 15 with
  | true =>
    have hmsb : (a.extractLsb' pos n).msb = a.getLsbD (pos + n - 1) := by
      simp only [BitVec.msb_eq_getLsbD_last, BitVec.getLsbD_extractLsb', hlast, htop, decide_true, Bool.true_and]
    rw [if_pos rfl, BitVec.getLsbD_signExtend, hmsb, BitVec.getLsbD_extractLsb']
    by_cases hin : j < n
    · simp only [hj, hin, decide_true, Bool.true_and, if_true]
    · simp only [hj, hin, decide_true, Bool.true_and, if_false]
  | false =>
    rw [if_neg Bool.false_ne_true, BitVec.getLsbD_setWidth, BitVec.getLsbD_extractLsb', Bool.false_and]
    by_cases hin : j < n
    · simp only [hj, hin, decide_true, Bool.true_and, if_true]
    · simp only [hj, hin, decide_true, decide_false, Bool.true_and, Bool.false_and, if_false]

/-- The mask that `bfi` builds has ones in its field and nowhere else (R293). -/
theorem fieldMask_getLsbD (pos n j : Nat) (hj : j < 32) :
    (BitVec.ofNat 32 (2 ^ n - 1) <<< pos).getLsbD j = decide (pos ≤ j ∧ j < pos + n) := by
  rw [Bool.eq_iff_iff]
  simp only [BitVec.getLsbD_shiftLeft, BitVec.getLsbD_ofNat, Nat.testBit_two_pow_sub_one, Bool.and_eq_true,
    Bool.not_eq_true', decide_eq_true_eq, decide_eq_false_iff_not]
  omega

/-- R293: the bits of D after `bfi`. -/
theorem bfi32_getLsbD (a b d : Word) (j : Nat) (hj : j < 32) :
    (bfi32 a b d).getLsbD j = if (fieldOf b).1 ≤ j ∧ j < (fieldOf b).1 + (fieldOf b).2 then a.getLsbD (j - (fieldOf b).1)
      else d.getLsbD j := by
  simp only [bfi32, BitVec.getLsbD_or, BitVec.getLsbD_and, BitVec.getLsbD_not, fieldMask_getLsbD _ _ j hj]
  by_cases hin : (fieldOf b).1 ≤ j ∧ j < (fieldOf b).1 + (fieldOf b).2
  · have hpos : ¬ j < (fieldOf b).1 := Nat.not_lt.2 hin.1
    simp only [hin, hj, hpos, and_self, BitVec.getLsbD_shiftLeft, decide_true, decide_false, Bool.not_true, Bool.not_false,
      Bool.and_true, Bool.true_and, Bool.and_false, Bool.false_or, if_true]
  · simp only [hin, hj, decide_true, decide_false, Bool.not_false, Bool.and_true, Bool.and_false, Bool.or_false, if_false]

end Sys2Proof.Machine

namespace Sys2Proof.Proofs

open Sys2Proof.Machine

/-- Settles O3: each instruction writes its function of the sources, and the bits of that function are those of R291 to R293, R306 and R356. -/
theorem bitFieldsAndCounts : Obligations.BitFieldsAndCounts := by
  refine ⟨fun s c d a hi hc => ⟨fun h => ?clz, fun h => ?popc⟩, fun s c d a b hi => ⟨fun hc h => ?bfx, fun hc h => ?bfi⟩⟩
  case clz => exact ⟨_, h.exec_clz hi hc, fun t => clz32_spec (c.r.src a t)⟩
  case popc => exact ⟨_, h.exec_popc hi hc, fun t => popc32_toNat (c.r.src a t)⟩
  case bfx => exact ⟨_, h.exec_bfx hi hc, fun t => bfx32_getLsbD (c.r.src a t) (c.r.src b t)⟩
  case bfi => exact ⟨_, h.exec_bfi hi hc, fun t => bfi32_getLsbD (c.r.src a t) (c.r.src b t) (c.r.src d t)⟩

end Sys2Proof.Proofs
end

section
/-! PROOF. O9: the floating-point instructions. -/

namespace Sys2Proof.Machine

variable {s : State} {c : Ctx} {f : Fmt} {ty n cnt : Nat}

/-! ### Words packed from codes (R80) -/

/-- The number that `packCodes` makes a word of. -/
def codeSum (n : Nat) (g : Nat → Nat) (cnt : Nat) : Nat :=
  (List.range cnt).foldl (fun x k => x + g k % 2 ^ n * 2 ^ (n * k)) 0

theorem codeSum_succ (n : Nat) (g : Nat → Nat) (m : Nat) : codeSum n g (m + 1) = codeSum n g m + 2 ^ (n * m) * (g m % 2 ^ n) := by
  rw [codeSum, List.range_succ, List.foldl_append, Nat.mul_comm (2 ^ (n * m))]; rfl

theorem codeSum_lt (n : Nat) (g : Nat → Nat) (m : Nat) : codeSum n g m < 2 ^ (n * m) := by
  induction m with
  | zero => exact Nat.two_pow_pos _
  | succ m ih =>
    have htop : 2 ^ (n * m) * (g m % 2 ^ n + 1) ≤ 2 ^ (n * m) * 2 ^ n := Nat.mul_le_mul_left _ (Nat.mod_lt _ (Nat.two_pow_pos n))
    rw [Nat.mul_succ] at htop
    rw [codeSum_succ, Nat.mul_succ, Nat.pow_add]
    omega

/-- Each code stands in its own digit to the base 2^n. -/
theorem codeSum_digit (n : Nat) (g : Nat → Nat) {m k : Nat} (hk : k < m) : codeSum n g m / 2 ^ (n * k) % 2 ^ n = g k % 2 ^ n := by
  induction m with
  | zero => exact absurd hk (Nat.not_lt_zero k)
  | succ m ih =>
    rw [codeSum_succ]
    rcases Nat.lt_succ_iff_lt_or_eq.1 hk with hlt | rfl
    · -- the codes above it are multiples of 2^n at its place
      obtain ⟨j, rfl⟩ := Nat.exists_eq_add_of_lt hlt
      have hpow : 2 ^ (n * (k + j + 1)) = 2 ^ (n * k) * (2 ^ n * 2 ^ (n * j)) := by
        rw [← Nat.pow_add, ← Nat.pow_add, Nat.mul_add, Nat.mul_add, Nat.mul_one, Nat.add_assoc, Nat.add_comm (n * j)]
      have hmul : 2 ^ (n * (k + j + 1)) * (g (k + j + 1) % 2 ^ n) = 2 ^ (n * k) * (2 ^ n * (2 ^ (n * j) * (g (k + j + 1) % 2 ^ n))) := by
        rw [hpow, Nat.mul_assoc, Nat.mul_assoc]
      rw [hmul, Nat.add_mul_div_left _ _ (Nat.two_pow_pos _), Nat.add_mul_mod_self_left, ih hlt]
    · rw [Nat.add_mul_div_left _ _ (Nat.two_pow_pos _), Nat.div_eq_of_lt (codeSum_lt n g k), Nat.zero_add, Nat.mod_mod]

theorem packCodes_toNat (hw : n * cnt ≤ 32) (g : Nat → Nat) : (packCodes n cnt g).toNat = codeSum n g cnt := by
  rw [packCodes, BitVec.toNat_ofNat]
  exact Nat.mod_eq_of_lt (Nat.lt_of_lt_of_le (codeSum_lt n g cnt) (Nat.pow_le_pow_right Nat.two_pos hw))

/-- R80: the bits of a packed word above its elements are clear. -/
theorem packCodes_toNat_lt (hw : n * cnt ≤ 32) (g : Nat → Nat) : (packCodes n cnt g).toNat < 2 ^ (n * cnt) := by
  rw [packCodes_toNat hw]
  exact codeSum_lt n g cnt

/-- An element of a packed word is the code that was packed there. -/
theorem code_packCodes (hw : n * cnt ≤ 32) (g : Nat → Nat) {k : Nat} (hk : k < cnt) :
    code n (packCodes n cnt g) k = g k % 2 ^ n := by
  rw [code, packCodes_toNat hw]
  exact codeSum_digit n g hk

/-! ### Codes and their values (R83 to R85) -/

/-- A floating-point type has elements of a sign, an exponent and a fraction, and they fit a register (R82, R83). -/
theorem floatType_shape (h : floatType ty = some (f, n, cnt)) : n = f.eb + f.fb + 1 ∧ 0 < f.fb ∧ n * cnt ≤ 32 := by
  unfold floatType at h
  split at h <;> cases h <;> decide

theorem Fmt.infBits_add (f : Fmt) : f.infBits + 2 ^ f.fb = 2 ^ (f.eb + f.fb) := by
  rw [← Nat.succ_mul, Nat.succ_eq_add_one, Nat.sub_add_cancel Nat.one_le_two_pow, ← Nat.pow_add]

theorem Fmt.sign_le (f : Fmt) (neg : Bool) : f.sign neg ≤ 2 ^ (f.eb + f.fb) := by
  cases neg
  · exact Nat.zero_le _
  · exact Nat.le_refl _

/-- A rounded value is a code of its format. -/
theorem Fmt.round_lt (hfb : 0 < f.fb) (rm : Nat) (g : BitVec 16) (v : FpVal) : f.round rm g v < 2 ^ (f.eb + f.fb + 1) := by
  have hinf := f.infBits_add
  have hone : 0 < 2 ^ f.fb := Nat.two_pow_pos _
  rw [Nat.pow_succ]
  cases v with
  | nan =>
    have hquiet : 2 ^ (f.fb - 1) < 2 ^ f.fb := Nat.pow_lt_pow_right Nat.one_lt_two (Nat.sub_lt hfb Nat.one_pos)
    simp only [Fmt.round, Fmt.canon]
    omega
  | inf neg =>
    have hs := f.sign_le neg
    simp only [Fmt.round]
    omega
  | fin neg m e =>
    have hs := f.sign_le neg
    simp only [Fmt.round]
    split
    · omega
    · split <;> omega

/-- A code without its sign is its exponent field above its fraction (R83). -/
theorem Fmt.unsigned_eq (f : Fmt) (x : Nat) :
    x % 2 ^ (f.eb + f.fb) = x % 2 ^ f.fb + 2 ^ f.fb * (x / 2 ^ f.fb % 2 ^ f.eb) := by
  rw [Nat.add_comm f.eb, Nat.pow_add, Nat.mod_mul]

theorem bitLen_le {m k : Nat} (h : m < 2 ^ k) : bitLen m ≤ k := by
  unfold bitLen
  split
  · exact Nat.zero_le _
  · next hm => exact (Nat.log2_lt hm).2 h

theorem bitLen_eq {m k : Nat} (hlo : 2 ^ k ≤ m) (hhi : m < 2 ^ (k + 1)) : bitLen m = k + 1 := by
  have hm : m ≠ 0 := Nat.ne_of_gt (Nat.lt_of_lt_of_le (Nat.two_pow_pos k) hlo)
  rw [bitLen, if_neg hm, (Nat.log2_eq_iff hm).2 ⟨hlo, hhi⟩]

/-- A multiple of the unit rounds to itself. -/
theorem roundAt_self (rm : Nat) (neg : Bool) (g : BitVec 16) (m : Nat) (e : Int) : roundAt rm neg g m e e = m := by
  simp only [roundAt, Int.le_refl, if_true, Int.sub_self, Int.toNat_zero, Nat.pow_zero, Nat.mul_one]

/-- R85: the exact magnitude of a code, subnormals among them, rounds to that code under every mode. -/
theorem Fmt.roundMag_magnitude (f : Fmt) (rm : Nat) (neg : Bool) (g : BitVec 16) (x : Nat) :
    f.roundMag rm neg g (f.magnitude x).1 (f.magnitude x).2 = x % 2 ^ (f.eb + f.fb) := by
  have hfr : x % 2 ^ f.fb < 2 ^ f.fb := Nat.mod_lt _ (Nat.two_pow_pos _)
  rw [f.unsigned_eq]
  generalize hex : x / 2 ^ f.fb % 2 ^ f.eb = ex
  simp only [Fmt.magnitude, hex]
  generalize x % 2 ^ f.fb = fr at hfr
  by_cases hsub : ex = 0
  · -- a subnormal is a multiple of the smallest one
    have hq : max f.emin (f.emin + bitLen fr - f.p) = f.emin := by
      have := bitLen_le hfr
      simp only [Fmt.p]
      omega
    simp only [hsub, if_true, Fmt.roundMag, hq, roundAt_self]
    by_cases hzero : fr = 0
    · simp only [hzero, if_true, Nat.mul_zero, Nat.add_zero]
    · simp only [hzero, if_false, Int.sub_self, Int.toNat_zero, Nat.zero_mul, Nat.mul_zero]
  · -- a normal number has the precision of the format
    have hm : fr + 2 ^ f.fb ≠ 0 := by have := Nat.two_pow_pos f.fb; omega
    have hlen : bitLen (fr + 2 ^ f.fb) = f.p := bitLen_eq (Nat.le_add_left _ _) (by rw [Nat.pow_succ]; omega)
    have hq : max f.emin (f.emin + ex - 1 + f.p - f.p) = f.emin + ex - 1 := by omega
    have hexp : (f.emin + ex - 1 - f.emin).toNat = ex - 1 := by omega
    simp only [hsub, if_false, Fmt.roundMag, hm, hlen, hq, hexp, roundAt_self]
    obtain ⟨j, rfl⟩ := Nat.exists_eq_succ_of_ne_zero hsub
    rw [Nat.succ_eq_add_one, Nat.add_sub_cancel, Nat.mul_succ, Nat.mul_comm j]
    omega

/-- The value of a code is not a number, or it is an infinity or a finite number that rounds, with either sign, to the code with that
sign. -/
theorem Fmt.val_cases (f : Fmt) (x : Nat) :
    f.val x = .nan
      ∨ (f.val x = .inf (decide (x / 2 ^ (f.eb + f.fb) % 2 = 1)) ∧ f.infBits = x % 2 ^ (f.eb + f.fb))
      ∨ ∃ m e, f.val x = .fin (decide (x / 2 ^ (f.eb + f.fb) % 2 = 1)) m e ∧
          ∀ rm g neg, f.round rm g (.fin neg m e) = x % 2 ^ (f.eb + f.fb) + f.sign neg := by
  have hun := f.unsigned_eq x
  by_cases hmax : x / 2 ^ f.fb % 2 ^ f.eb = 2 ^ f.eb - 1
  · by_cases hfr : x % 2 ^ f.fb = 0
    · refine .inr (.inl ⟨by simp only [Fmt.val, hmax, hfr, if_true], ?_⟩)
      rw [hun, hmax, hfr, Nat.zero_add, Nat.mul_comm]
    · exact .inl (by simp only [Fmt.val, hmax, hfr, if_true, if_false])
  · refine .inr (.inr ⟨(f.magnitude x).1, (f.magnitude x).2, by simp only [Fmt.val, hmax, if_false], fun rm g neg => ?_⟩)
    have hlt : x % 2 ^ (f.eb + f.fb) < f.infBits := by
      have hfr : x % 2 ^ f.fb < 2 ^ f.fb := Nat.mod_lt _ (Nat.two_pow_pos _)
      have hex : x / 2 ^ f.fb % 2 ^ f.eb < 2 ^ f.eb := Nat.mod_lt _ (Nat.two_pow_pos _)
      have hle : 2 ^ f.fb * (x / 2 ^ f.fb % 2 ^ f.eb + 1) ≤ 2 ^ f.fb * (2 ^ f.eb - 1) := Nat.mul_le_mul_left _ (by omega)
      rw [hun, Fmt.infBits, Nat.mul_comm (2 ^ f.eb - 1)]
      rw [Nat.mul_succ] at hle
      omega
    simp only [Fmt.round, f.roundMag_magnitude, hlt, if_true]

/-- R319, R320: the magnitude of a value is its code without the sign bit. -/
theorem Fmt.round_abs_val (f : Fmt) (rm : Nat) (g : BitVec 16) (x : Nat) :
    f.round rm g (f.val x).abs = if (f.val x).isNan then f.canon else x % 2 ^ (f.eb + f.fb) := by
  rcases f.val_cases x with hv | ⟨hv, hinf⟩ | ⟨m, e, hv, hround⟩
  · rw [hv]; rfl
  · rw [hv, ← hinf]; rfl
  · rw [hv]; exact hround rm g false

/-- Adding the weight of the sign bit, modulo the width of a code, inverts the sign bit and keeps the rest. -/
theorem Fmt.invert_sign (f : Fmt) (x : Nat) :
    (x + 2 ^ (f.eb + f.fb)) % 2 ^ (f.eb + f.fb + 1)
      = x % 2 ^ (f.eb + f.fb) + f.sign (!decide (x / 2 ^ (f.eb + f.fb) % 2 = 1)) := by
  rw [Nat.pow_succ, Nat.mod_mul, Nat.add_mod_right, Nat.add_div_right _ (Nat.two_pow_pos _)]
  generalize x / 2 ^ (f.eb + f.fb) = q
  rcases Nat.mod_two_eq_zero_or_one q with hclear | hset
  · have hflip : (q + 1) % 2 = 1 := by omega
    rw [hclear, hflip, Nat.mul_one]; rfl
  · have hflip : (q + 1) % 2 = 0 := by omega
    rw [hset, hflip, Nat.mul_zero]; rfl

/-- R319, R320: the negation of a value is its code with the sign bit inverted. -/
theorem Fmt.round_neg_val (f : Fmt) (rm : Nat) (g : BitVec 16) (x : Nat) :
    f.round rm g (f.val x).neg
      = if (f.val x).isNan then f.canon else (x + 2 ^ (f.eb + f.fb)) % 2 ^ (f.eb + f.fb + 1) := by
  rw [f.invert_sign]
  rcases f.val_cases x with hv | ⟨hv, hinf⟩ | ⟨m, e, hv, hround⟩
  · rw [hv]; rfl
  · rw [hv, ← hinf]; rfl
  · rw [hv]; exact hround rm g _

/-! ### What an instruction writes (R318) -/

theorem fpElems_toNat_lt (h : floatType ty = some (f, n, cnt)) (op : Fmt → Nat → FpVal → FpVal → FpVal → Nat) (a b d : Word) :
    (fpElems ty op a b d).toNat < 2 ^ (n * cnt) := by
  obtain ⟨-, -, hw⟩ := floatType_shape h
  simp only [fpElems, h]
  exact packCodes_toNat_lt hw _

theorem code_fpElems (h : floatType ty = some (f, n, cnt)) (op : Fmt → Nat → FpVal → FpVal → FpVal → Nat) (a b d : Word) {k : Nat}
    (hk : k < cnt) :
    code n (fpElems ty op a b d) k = op f k (f.val (code n a k)) (f.val (code n b k)) (f.val (code n d k)) % 2 ^ n := by
  obtain ⟨-, -, hw⟩ := floatType_shape h
  simp only [fpElems, h]
  exact code_packCodes hw _ hk

theorem issueDraw_ok (h : Issues s c) {m : Ctx → Chk (Wave × Nat)} {p : Wave × Nat} (e : m c = .ok p) :
    issueDraw s m = .next (c.putDraw p.1 p.2) :=
  issueState_ok h (by simp only [e])

/-- A ready floating-point instruction writes its elements and moves on; it takes draws when it rounds by MODE.RM. -/
theorem Ready.fpOp {i : Instr} {d : Operand} {srcs : List (Operand × Bool)} (h : Ready c i true d (srcs.map (·.1)))
    (hc : VaryingOrUniform d (srcs.map (·.1))) (hf : floatType (modeT c.mx) = some (f, n, cnt)) {useRm : Bool}
    (hrm : useRm = true → modeRM c.mx ≤ 5) (op : Nat → Fmt → BitVec 16 → FpVal → FpVal → FpVal → Nat) (a b : Operand) :
    c.fpOp i d srcs useRm op a b = .ok (c.write d (fun t => fpElems (modeT c.mx) (fun f k x y z => op (modeRM c.mx) f (c.draw t k) x y z)
      (c.r.fsrc (modeT c.mx) a t) (c.r.fsrc (modeT c.mx) b t) (c.r.src d t)), if useRm then modeRM c.mx else 0) := by
  have ht : ((floatType (modeT c.mx)).isSome && (!useRm || rmValid (modeRM c.mx))) = true := by
    rw [hf]
    cases useRm with
    | false => rfl
    | true => exact decide_eq_true (hrm rfl)
  simp only [Ctx.fpOp]
  rw [h.regChecks ht hc.ok]; rfl

/-- A ready instruction that rounds the exact result `v` of each element writes those codes and clears the bits above them; without a
rounding mode of its own it rounds to nearest and takes no draw. -/
theorem Ready.fpOp_rounds {i : Instr} {d : Operand} {srcs : List (Operand × Bool)} (hi : Issues s c)
    (hf : floatType (modeT c.mx) = some (f, n, cnt)) (hc : VaryingOrUniform d (srcs.map (·.1)))
    (h : Ready c i true d (srcs.map (·.1))) {useRm : Bool} (hrm : useRm = true → modeRM c.mx ≤ 5)
    (v : Nat → FpVal → FpVal → FpVal → FpVal) (a b : Operand) :
    ∃ w : Nat → Word,
      issueDraw s (fun c => c.fpOp i d srcs useRm
          (fun rm f g x y z => f.round (if useRm then rm else 0) (if useRm then g else 0) (v rm x y z)) a b)
        = .next (c.putDraw (c.write d w) (if useRm then modeRM c.mx else 0)) ∧
      ∀ t, t < 32 → (w t).toNat < 2 ^ (n * cnt) ∧ ∀ k, k < cnt →
        code n (w t) k = f.round (if useRm then modeRM c.mx else 0) (if useRm then c.draw t k else 0)
          (v (modeRM c.mx) (f.val (code n (c.r.fsrc (modeT c.mx) a t) k)) (f.val (code n (c.r.fsrc (modeT c.mx) b t) k))
            (f.val (code n (c.r.src d t) k))) := by
  obtain ⟨hn, hfb, -⟩ := floatType_shape hf
  refine ⟨_, issueDraw_ok hi (m := fun c => c.fpOp i d srcs useRm _ a b) (h.fpOp hc hf hrm _ a b), fun t _ =>
    ⟨fpElems_toNat_lt hf _ _ _ _, fun k hk => ?_⟩⟩
  rw [code_fpElems hf _ _ _ _ hk]
  exact Nat.mod_eq_of_lt (hn ▸ Fmt.round_lt hfb _ _ _)

end Sys2Proof.Machine

namespace Sys2Proof.Proofs

open Sys2Proof.Machine

/-- Settles O9: a rounded result is a code of its format, and the value of a code, with its sign cleared or inverted, rounds to that code. -/
theorem floatInstructions : Obligations.FloatInstructions := by
  refine ⟨fun s c d a b f n cnt hi hf e he hrm h hc => ?rounded, fun s c d a f n cnt hi hf e he h hc => ?signs⟩
  case rounded =>
    simp only [List.mem_cons, List.not_mem_nil, or_false] at he
    rcases he with rfl | rfl | rfl | rfl | rfl | rfl
    · exact h.fpOp_rounds (srcs := [(a, true), (b, false)]) hi hf hc hrm (fun rm x y _ => x.add rm y) a b
    · exact h.fpOp_rounds (srcs := [(a, true), (b, false)]) hi hf hc hrm (fun rm x y _ => x.add rm y.neg) a b
    · exact h.fpOp_rounds (srcs := [(a, true), (b, false)]) hi hf hc hrm (fun _ x y _ => x.mul y) a b
    · exact h.fpOp_rounds (srcs := [(a, true), (b, false), (d, false)]) hi hf hc hrm (fun rm x y z => (x.mul y).add rm z) a b
    · exact h.fpOp_rounds (srcs := [(a, true), (b, false)]) hi hf hc hrm (fun _ x y _ => x.min y) a b
    · exact h.fpOp_rounds (srcs := [(a, true), (b, false)]) hi hf hc hrm (fun _ x y _ => x.max y) a b
  case signs =>
    obtain ⟨rfl, -, -⟩ := floatType_shape hf
    simp only [List.mem_cons, List.not_mem_nil, or_false] at he
    rcases he with rfl | rfl
    · obtain ⟨w, hw, hcode⟩ := h.fpOp_rounds (srcs := [(a, true)]) hi hf hc (useRm := false) nofun (fun _ x _ _ => x.abs) a .zero
      exact ⟨w, hw, fun t k ht hk => ((hcode t ht).2 k hk).trans (f.round_abs_val 0 0 _)⟩
    · obtain ⟨w, hw, hcode⟩ := h.fpOp_rounds (srcs := [(a, true)]) hi hf hc (useRm := false) nofun (fun _ x _ _ => x.neg) a .zero
      exact ⟨w, hw, fun t k ht hk => ((hcode t ht).2 k hk).trans (f.round_neg_val 0 0 _)⟩

end Sys2Proof.Proofs
end
